-- ==== Sys2Proof/Word.lean ====
section
/-! DEFINITION. The words of the KX960: byte, half, word, dword (R3), the side of a thread (R18), and the sparse table
that the state's registers and tables are kept in. -/

namespace Sys2Proof

/-- A byte (R3). -/
abbrev Byte := BitVec 8
/-- A half (R3). -/
abbrev Half := BitVec 16
/-- A word (R3). -/
abbrev Word := BitVec 32
/-- A dword (R3). -/
abbrev DWord := BitVec 64

/-- The side a thread or a block belongs to: execute or access slice (R18). -/
inductive Side where
  | e
  | a
deriving DecidableEq, Repr, Inhabited

/-- Side as a number: 0 execute, 1 access (R158, R189). -/
def Side.num : Side → Nat
  | .e => 0
  | .a => 1

/-- The other side: the partner of a thread stands there (R64). -/
def Side.other : Side → Side
  | .e => .a
  | .a => .e

/-- A table from numbers to values, as a list of pairs. -/
abbrev KMap (α : Type) := List (Nat × α)

end Sys2Proof
end

