-- ==== Sys2Proof/Config.lean ====
section
/-! DEFINITION. What the spec leaves open and the model leaves free: constants without a body, so that nothing can be
proved of their values, and the few numbers an implementation fixes. -/

namespace Sys2Proof
namespace Config

/-- Free value. The choice among n permitted outcomes at the moment the state's counter stands at its first argument:
which enabled step the device takes next (R134), which of two permitted register values is read (R22, R89), which code
word a fetch returns (R28), which translation an access has (R121). Log 3. -/
opaque pick : Nat → Nat → Nat

/-- Free value. Which of the two neighbouring f32 values a special function delivers when the exact result lies within
0.002 ulp of their midpoint (R355): a function of the function's number and its operand. True is the greater magnitude.
Log 12. -/
opaque midpointUp : Nat → Word → Bool

/-- Free value. Whether an Ecide image, with the signature it carries, verifies under a key: RSASSA-PSS over SHA-512 with a
64-byte salt (R316). Log 13. -/
opaque verifyImage : List Byte → List Byte → Bool

/-- Free value. The RSASSA-PSS signature of a quote under the private part of the identity key (R316, R317). Log 13. -/
opaque sign : List Byte → List Byte → List Byte

/-- Free value. The configuration digest of a partition that a quote covers (R317). Log 13. -/
opaque configDigest : List Byte → List Byte

/-- Free value. The record types of telemetry records other than 0x21 and 0x30, which the spec does not number. Log 31. -/
opaque telemetryType : Nat → Byte

/-- Free value. The 256-bit key that two devices agree for a session, by the session's number (R313). Log 13. -/
opaque sessionKey : Nat → BitVec 256

/-- Free value. LENGTH of a context record, whose layout the spec does not give: by its type and its place in the image (R314). Log 102. -/
opaque recordLength : Nat → Nat → Word

end Config

/-- A core number that no core has: what the device reads itself passes through no core. -/
def Config.noCore : Nat := 65535
/-- Cycles after which a waiting narrow group fuses with those present (R73). -/
def Config.reconvergeCycles : Nat := 256
/-- Cycles after which a group that has not issued comes first (R91). -/
def Config.agingCycles : Nat := 1024
/-- Cycles for which a group that yielded is not ready (R404). -/
def Config.yieldCycles : Nat := 16
/-- Entries of a return stack (R333). -/
def Config.returnDepth : Nat := 16
/-- Split records a narrow group holds (R72). -/
def Config.splitDepth : Nat := 8
/-- Elements of a return queue and of a store-data queue (R96). -/
def Config.fixedDepth : Nat := 4
/-- Open streams a thread may hold (R346). -/
def Config.maxStreams : Nat := 4
/-- Sequence numbers of a receive window (R284). -/
def Config.flowWindow : Nat := 1024
/-- Bytes of a row of an unquantised transfer (R281). -/
def Config.rowBytes : Nat := 4096

end Sys2Proof
end

