-- ==== Sys2Proof/Syntax.lean ====
section
/-! DEFINITION. The instructions and events of the KX960: one constructor of Instr for each row of the opcode table.
Encoded rows carry their decoded fields (chapter 02); events carry what identifies the step (file 95). -/

namespace Sys2Proof

/-- A source operand (Table 2-10), before the side decides what a code means there. -/
inductive Src where
  /-- Codes 0x00 to 0x7F: v register, or x register below 0x20. -/
  | reg (n : BitVec 7)
  /-- Codes 0x80 to 0x9F: s register. -/
  | sreg (n : BitVec 5)
  /-- Codes 0xA0 to 0xAF: pop of a queue. -/
  | pop (q : BitVec 4)
  /-- Codes 0xB0 to 0xBF: peek of a queue. -/
  | peek (q : BitVec 4)
  /-- Codes 0xC0 to 0xDF: small immediate; the field is code minus 0xC0, the value code minus 0xD0 (R42). -/
  | imm (n : BitVec 5)
  /-- Codes 0xE0 to 0xEF: team register. -/
  | tr (n : BitVec 4)
  /-- Code 0xF0. -/
  | zero
  /-- Code 0xF1: thread index in the team. -/
  | thread
  /-- Code 0xF2: lane. -/
  | lane
  /-- Code 0xF3: group index. -/
  | group
  /-- Code 0xF4: team rank in the cluster. -/
  | rank
  /-- Code 0xFF: the value of the IMX prefix (R33), in B only. -/
  | imx (v : BitVec 24)
deriving DecidableEq, Repr, Inhabited

/-- The VX prefix (Table 2-6). -/
structure Vx where
  mask : BitVec 7
  zero : Bool
  rc : BitVec 3
  c : BitVec 8
  neg : Bool
deriving DecidableEq, Repr, Inhabited

/-- The MXA prefix (Table 2-8a). Bits of obs: 4 C, 3 E, 2 M, 1 P, 0 H. -/
structure Mxa where
  obs : BitVec 5
  order : BitVec 3
  hint : BitVec 2
  rope : Bool
deriving DecidableEq, Repr, Inhabited

/-- The VX and MXA prefixes of an instruction; an IMX prefix stands in the operand that reads it. -/
structure Pfx where
  vx : Option Vx
  mxa : Option Mxa
deriving DecidableEq, Repr, Inhabited

/-- The fields of the `mma` word and of its IMX prefix (Table 13-3) other than SEMI. -/
structure MmaArgs where
  afmt : BitVec 8
  bfmt : BitVec 8
  pbase : BitVec 8
  bank : BitVec 2
  kb : BitVec 2
  acc : BitVec 3
  atile : BitVec 6
  stage : Bool
  sp : Bool
  cv : BitVec 3
deriving DecidableEq, Repr, Inhabited

/-- The side or sides on which an instruction executes (Table 2-13). -/
inductive SideReq where
  | both
  | eOnly
  | aOnly
deriving DecidableEq, Repr, Inhabited

/-- What decoding found (R53). A bad operand is raised only after the side and privilege checks of its instruction, to the
threads for which its guard holds. -/
inductive DecErr where
  | illegalOp
  | badPfx
  | badOperand (side : SideReq) (priv : Bool) (vx : Option Vx)
  /-- A bad field of `rdsr` or `wrsr` on a register that is Ecide's alone: PRIV, in every mode (R384). -/
  | priv (vx : Option Vx)
deriving DecidableEq, Repr, Inhabited

/-- A bind record, as its four dwords (Table 8-6). -/
structure BindRec where
  tcb : DWord
  slots : DWord
  place : DWord
  ctx : DWord
deriving DecidableEq, Repr, Inhabited

/-- What an incoming task lacks on a core (R183). -/
structure Need where
  part : Nat
  prio : Nat
  slots : Nat
  eRegs : Nat
  aRegs : Nat
  qMem : Nat
  tiles : Nat
  accs : Nat
deriving DecidableEq, Repr, Inhabited

/-- A machine-check record (Table 5-4) without its stamp. -/
structure MachineCheck where
  source : Half
  array : Byte
  kind : Byte
  addr : DWord
  syndrome : Word
  count : Word
deriving DecidableEq, Repr, Inhabited

/-- A window exported to peers, or offered by one (R278). -/
structure Window where
  base : DWord
  size : Nat
  readOk : Bool
  writeOk : Bool
deriving DecidableEq, Repr, Inhabited

/-- An entry of the peer table (R278): the peer's windows and whether it offers reliable ordered delivery (Table 22-4). -/
structure Peer where
  rod : Bool
  rud : Bool
  windows : KMap Window
deriving DecidableEq, Repr, Inhabited

/-- The registers of one ring (Table 18-3), as Ecide writes them. -/
structure RingCfg where
  base : DWord
  deadline : Bool
  ssize : Nat
  logn : Nat
deriving DecidableEq, Repr, Inhabited

/-- What Ecide gives a partition when it creates it (R307, R308, R128). -/
structure PartCfg where
  cores : List Nat
  /-- Physical GiB indexes of the HBM grant. -/
  grant : List Nat
  share : Nat
  ptroot : DWord
  htab : DWord
  verWays : Nat
  shadowWays : Nat
  telCap : Nat
  peers : KMap Peer
  windows : KMap Window
  rings : KMap RingCfg
  /-- Pages fewer than which end the pre-copy rounds (R313). -/
  threshold : Nat
deriving DecidableEq, Repr, Inhabited

/-- What the fuses and the boot images hold at power good (R316, R321, R10). -/
structure BootCfg where
  /-- Physical column of the spare of each row. -/
  spareCol : KMap Nat
  /-- The key that Ecide images are verified with (R316). -/
  imageKey : List Byte
  /-- The identity key pair (R316). -/
  idPublic : List Byte
  idPrivate : List Byte
  /-- The two images, each with its signature. -/
  imageA : List Byte
  imageB : List Byte
deriving DecidableEq, Repr, Inhabited

/-- A row of a transfer as it arrives from a peer (R281, R284). -/
structure RemoteRow where
  part : Nat
  flow : Nat
  seq : Word
  win : Nat
  offset : DWord
  bytes : List Byte
  /-- Offset and bytes of the row's scales, for a quantised transfer. -/
  scaleAt : DWord
  scales : List Byte
  /-- Offset of the remote mb object, if any. -/
  rmb : Option DWord
  /-- The Lynx port it arrives at. -/
  port : Nat
deriving DecidableEq, Repr, Inhabited

/-- An outstanding remote operation that a peer or the transport ends (R277). -/
inductive RemoteOp where
  /-- The first unacknowledged row of a transfer. -/
  | send (id : Nat)
  /-- The `nget` in flight of a pair to a data queue. -/
  | get (tm tid q : Nat)
deriving DecidableEq, Repr, Inhabited

/-- The instructions and events of the opcode table. -/
inductive Instr where
  /-- BR: M 0, F 0. -/
  | br (off : BitVec 16)
  /-- BRP: M 0, F 1. -/
  | brp (pr : BitVec 7) (off : BitVec 16)
  /-- BRP_NOT: M 0, F 2. -/
  | brpNot (pr : BitVec 7) (off : BitVec 16)
  /-- CALL: M 0, F 3. -/
  | call (off : BitVec 16)
  /-- RET: M 1, F 0. -/
  | ret
  /-- BRX: M 1, F 1. -/
  | brx (a : Src)
  /-- EXIT: M 1, F 2. -/
  | exit
  /-- NOP: M 1, F 3. -/
  | nop
  /-- YIELD: M 1, F 4. -/
  | yield
  /-- BRK: M 1, F 5. -/
  | brk
  /-- TRAP: M 1, F 6. -/
  | trap (n : BitVec 3)
  /-- RFH_RETRY: M 1, F 7. -/
  | rfhRetry (p : Pfx)
  /-- RFH_SKIP: M 1, F 7. -/
  | rfhSkip (p : Pfx)
  /-- RFH_END: M 1, F 7. -/
  | rfhEnd (p : Pfx)
  /-- ENROL: M 2, F 0. -/
  | enrol (p : Pfx) (j : BitVec 4)
  /-- JOIN: M 2, F 1. -/
  | join (p : Pfx) (j : BitVec 4)
  /-- STRIKE: M 2, F 2. -/
  | strike (p : Pfx) (j : BitVec 4)
  /-- REFORM: M 2, F 3. -/
  | reform (p : Pfx)
  /-- JMASK: M 2, F 4. -/
  | jmask (p : Pfx) (d : BitVec 7) (j : BitVec 4) (b : Src)
  /-- JMASK_ARR: M 2, F 4. -/
  | jmaskArr (p : Pfx) (d : BitVec 7) (j : BitVec 4) (b : Src)
  /-- PLOG_AND: M 3, F 0. -/
  | plogAnd (p : Pfx) (d : BitVec 7) (a b : BitVec 8)
  /-- PLOG_OR: M 3, F 1. -/
  | plogOr (p : Pfx) (d : BitVec 7) (a b : BitVec 8)
  /-- PLOG_XOR: M 3, F 2. -/
  | plogXor (p : Pfx) (d : BitVec 7) (a b : BitVec 8)
  /-- PLOG_ANDN: M 3, F 3. -/
  | plogAndn (p : Pfx) (d : BitVec 7) (a b : BitVec 8)
  /-- PMOV: M 3, F 4. -/
  | pmov (p : Pfx) (d : BitVec 7) (a : BitVec 8)
  /-- PSET: M 3, F 5. -/
  | pset (p : Pfx) (d : BitVec 7) (b : Src)
  /-- BALLOT: M 3, F 6. -/
  | ballot (p : Pfx) (d : BitVec 7) (pr : BitVec 7)
  /-- CMP_EQ: M 4, F 0. -/
  | cmpEq (p : Pfx) (d : BitVec 7) (a b : Src)
  /-- CMP_NE: M 4, F 1. -/
  | cmpNe (p : Pfx) (d : BitVec 7) (a b : Src)
  /-- CMP_LT: M 4, F 2. -/
  | cmpLt (p : Pfx) (d : BitVec 7) (a b : Src)
  /-- CMP_LE: M 4, F 3. -/
  | cmpLe (p : Pfx) (d : BitVec 7) (a b : Src)
  /-- CMP_GT: M 4, F 4. -/
  | cmpGt (p : Pfx) (d : BitVec 7) (a b : Src)
  /-- CMP_GE: M 4, F 5. -/
  | cmpGe (p : Pfx) (d : BitVec 7) (a b : Src)
  /-- CMP_LTN: M 4, F 6. -/
  | cmpLtn (p : Pfx) (d : BitVec 7) (a b : Src)
  /-- CMP_GEN: M 4, F 7. -/
  | cmpGen (p : Pfx) (d : BitVec 7) (a b : Src)
  /-- FCMP_F32_EQ: M 5, F 0. -/
  | fcmpF32Eq (p : Pfx) (d : BitVec 7) (a b : Src)
  /-- FCMP_F32_NE: M 5, F 1. -/
  | fcmpF32Ne (p : Pfx) (d : BitVec 7) (a b : Src)
  /-- FCMP_F32_LT: M 5, F 2. -/
  | fcmpF32Lt (p : Pfx) (d : BitVec 7) (a b : Src)
  /-- FCMP_F32_LE: M 5, F 3. -/
  | fcmpF32Le (p : Pfx) (d : BitVec 7) (a b : Src)
  /-- FCMP_F32_GT: M 5, F 4. -/
  | fcmpF32Gt (p : Pfx) (d : BitVec 7) (a b : Src)
  /-- FCMP_F32_GE: M 5, F 5. -/
  | fcmpF32Ge (p : Pfx) (d : BitVec 7) (a b : Src)
  /-- FCMP_F32_UN: M 5, F 6. -/
  | fcmpF32Un (p : Pfx) (d : BitVec 7) (a b : Src)
  /-- FCMP_F32_OR: M 5, F 7. -/
  | fcmpF32Or (p : Pfx) (d : BitVec 7) (a b : Src)
  /-- FCMP_F64_EQ: M 6, F 0. -/
  | fcmpF64Eq (p : Pfx) (d : BitVec 7) (a b : Src)
  /-- FCMP_F64_NE: M 6, F 1. -/
  | fcmpF64Ne (p : Pfx) (d : BitVec 7) (a b : Src)
  /-- FCMP_F64_LT: M 6, F 2. -/
  | fcmpF64Lt (p : Pfx) (d : BitVec 7) (a b : Src)
  /-- FCMP_F64_LE: M 6, F 3. -/
  | fcmpF64Le (p : Pfx) (d : BitVec 7) (a b : Src)
  /-- FCMP_F64_GT: M 6, F 4. -/
  | fcmpF64Gt (p : Pfx) (d : BitVec 7) (a b : Src)
  /-- FCMP_F64_GE: M 6, F 5. -/
  | fcmpF64Ge (p : Pfx) (d : BitVec 7) (a b : Src)
  /-- FCMP_F64_UN: M 6, F 6. -/
  | fcmpF64Un (p : Pfx) (d : BitVec 7) (a b : Src)
  /-- FCMP_F64_OR: M 6, F 7. -/
  | fcmpF64Or (p : Pfx) (d : BitVec 7) (a b : Src)
  /-- ADD: M 7, F 0. -/
  | add (p : Pfx) (d : BitVec 7) (a b : Src)
  /-- SUB: M 7, F 1. -/
  | sub (p : Pfx) (d : BitVec 7) (a b : Src)
  /-- MUL: M 7, F 2. -/
  | mul (p : Pfx) (d : BitVec 7) (a b : Src)
  /-- MULH: M 7, F 3. -/
  | mulh (p : Pfx) (d : BitVec 7) (a b : Src)
  /-- MULH_N: M 7, F 4. -/
  | mulhN (p : Pfx) (d : BitVec 7) (a b : Src)
  /-- MIN: M 7, F 5. -/
  | min (p : Pfx) (d : BitVec 7) (a b : Src)
  /-- MAX: M 7, F 6. -/
  | max (p : Pfx) (d : BitVec 7) (a b : Src)
  /-- MIN_N: M 7, F 7. -/
  | minN (p : Pfx) (d : BitVec 7) (a b : Src)
  /-- DIV: M 8, F 0. -/
  | div (p : Pfx) (d : BitVec 7) (a b : Src)
  /-- DIV_N: M 8, F 1. -/
  | divN (p : Pfx) (d : BitVec 7) (a b : Src)
  /-- REM: M 8, F 2. -/
  | rem (p : Pfx) (d : BitVec 7) (a b : Src)
  /-- REM_N: M 8, F 3. -/
  | remN (p : Pfx) (d : BitVec 7) (a b : Src)
  /-- MAX_N: M 8, F 4. -/
  | maxN (p : Pfx) (d : BitVec 7) (a b : Src)
  /-- ABS: M 8, F 5. -/
  | abs (p : Pfx) (d : BitVec 7) (a : Src)
  /-- NEG: M 8, F 6. -/
  | neg (p : Pfx) (d : BitVec 7) (a : Src)
  /-- MAD: M 8, F 7. -/
  | mad (p : Pfx) (d : BitVec 7) (a b : Src)
  /-- AND: M 9, F 0. -/
  | and (p : Pfx) (d : BitVec 7) (a b : Src)
  /-- OR: M 9, F 1. -/
  | or (p : Pfx) (d : BitVec 7) (a b : Src)
  /-- XOR: M 9, F 2. -/
  | xor (p : Pfx) (d : BitVec 7) (a b : Src)
  /-- ANDN: M 9, F 3. -/
  | andn (p : Pfx) (d : BitVec 7) (a b : Src)
  /-- NOT: M 9, F 4. -/
  | not (p : Pfx) (d : BitVec 7) (a : Src)
  /-- SEL: M 9, F 5. -/
  | sel (p : Pfx) (d : BitVec 7) (a b : Src)
  /-- MOV: M 9, F 6. -/
  | mov (p : Pfx) (d : BitVec 7) (a : Src)
  /-- SMOV: M 9, F 7. -/
  | smov (p : Pfx) (d : BitVec 7) (a : Src)
  /-- SMOV_HI: M 9, F 7. -/
  | smovHi (p : Pfx) (d : BitVec 7) (a : Src)
  /-- SHL: M 10, F 0. -/
  | shl (p : Pfx) (d : BitVec 7) (a b : Src)
  /-- SHR: M 10, F 1. -/
  | shr (p : Pfx) (d : BitVec 7) (a b : Src)
  /-- SRA: M 10, F 2. -/
  | sra (p : Pfx) (d : BitVec 7) (a b : Src)
  /-- POPC: M 10, F 3. -/
  | popc (p : Pfx) (d : BitVec 7) (a : Src)
  /-- CLZ: M 10, F 4. -/
  | clz (p : Pfx) (d : BitVec 7) (a : Src)
  /-- BREV: M 10, F 5. -/
  | brev (p : Pfx) (d : BitVec 7) (a : Src)
  /-- BFE: M 11, F 0. -/
  | bfe (p : Pfx) (d : BitVec 7) (a b : Src)
  /-- BFE_N: M 11, F 1. -/
  | bfeN (p : Pfx) (d : BitVec 7) (a b : Src)
  /-- BFI: M 11, F 2. -/
  | bfi (p : Pfx) (d : BitVec 7) (a b : Src)
  /-- PERM: M 11, F 3. -/
  | perm (p : Pfx) (d : BitVec 7) (a b : Src)
  /-- ADD_I64: M 12, F 0. -/
  | addI64 (p : Pfx) (d : BitVec 7) (a b : Src)
  /-- SUB_I64: M 12, F 1. -/
  | subI64 (p : Pfx) (d : BitVec 7) (a b : Src)
  /-- MUL_I64: M 12, F 2. -/
  | mulI64 (p : Pfx) (d : BitVec 7) (a b : Src)
  /-- SHL_I64: M 12, F 3. -/
  | shlI64 (p : Pfx) (d : BitVec 7) (a b : Src)
  /-- SHR_I64: M 12, F 4. -/
  | shrI64 (p : Pfx) (d : BitVec 7) (a b : Src)
  /-- MOV_I64: M 12, F 5. -/
  | movI64 (p : Pfx) (d : BitVec 7) (a : Src)
  /-- FADD: M 13, F 0. -/
  | fadd (p : Pfx) (d : BitVec 7) (a b : Src)
  /-- FSUB: M 13, F 1. -/
  | fsub (p : Pfx) (d : BitVec 7) (a b : Src)
  /-- FMUL: M 13, F 2. -/
  | fmul (p : Pfx) (d : BitVec 7) (a b : Src)
  /-- FFMA: M 13, F 3. -/
  | ffma (p : Pfx) (d : BitVec 7) (a b : Src)
  /-- FMIN: M 13, F 4. -/
  | fmin (p : Pfx) (d : BitVec 7) (a b : Src)
  /-- FMAX: M 13, F 5. -/
  | fmax (p : Pfx) (d : BitVec 7) (a b : Src)
  /-- FABS: M 13, F 6. -/
  | fabs (p : Pfx) (d : BitVec 7) (a : Src)
  /-- FNEG: M 13, F 7. -/
  | fneg (p : Pfx) (d : BitVec 7) (a : Src)
  /-- FADD_F16X2: M 14, F 0. -/
  | faddF16x2 (p : Pfx) (d : BitVec 7) (a b : Src)
  /-- FSUB_F16X2: M 14, F 1. -/
  | fsubF16x2 (p : Pfx) (d : BitVec 7) (a b : Src)
  /-- FMUL_F16X2: M 14, F 2. -/
  | fmulF16x2 (p : Pfx) (d : BitVec 7) (a b : Src)
  /-- FFMA_F16X2: M 14, F 3. -/
  | ffmaF16x2 (p : Pfx) (d : BitVec 7) (a b : Src)
  /-- FMIN_F16X2: M 14, F 4. -/
  | fminF16x2 (p : Pfx) (d : BitVec 7) (a b : Src)
  /-- FMAX_F16X2: M 14, F 5. -/
  | fmaxF16x2 (p : Pfx) (d : BitVec 7) (a b : Src)
  /-- FABS_F16X2: M 14, F 6. -/
  | fabsF16x2 (p : Pfx) (d : BitVec 7) (a : Src)
  /-- FNEG_F16X2: M 14, F 7. -/
  | fnegF16x2 (p : Pfx) (d : BitVec 7) (a : Src)
  /-- FADD_BF16X2: M 15, F 0. -/
  | faddBf16x2 (p : Pfx) (d : BitVec 7) (a b : Src)
  /-- FSUB_BF16X2: M 15, F 1. -/
  | fsubBf16x2 (p : Pfx) (d : BitVec 7) (a b : Src)
  /-- FMUL_BF16X2: M 15, F 2. -/
  | fmulBf16x2 (p : Pfx) (d : BitVec 7) (a b : Src)
  /-- FFMA_BF16X2: M 15, F 3. -/
  | ffmaBf16x2 (p : Pfx) (d : BitVec 7) (a b : Src)
  /-- FMIN_BF16X2: M 15, F 4. -/
  | fminBf16x2 (p : Pfx) (d : BitVec 7) (a b : Src)
  /-- FMAX_BF16X2: M 15, F 5. -/
  | fmaxBf16x2 (p : Pfx) (d : BitVec 7) (a b : Src)
  /-- FABS_BF16X2: M 15, F 6. -/
  | fabsBf16x2 (p : Pfx) (d : BitVec 7) (a : Src)
  /-- FNEG_BF16X2: M 15, F 7. -/
  | fnegBf16x2 (p : Pfx) (d : BitVec 7) (a : Src)
  /-- FADD_F64: M 16, F 0. -/
  | faddF64 (p : Pfx) (d : BitVec 7) (a b : Src)
  /-- FSUB_F64: M 16, F 1. -/
  | fsubF64 (p : Pfx) (d : BitVec 7) (a b : Src)
  /-- FMUL_F64: M 16, F 2. -/
  | fmulF64 (p : Pfx) (d : BitVec 7) (a b : Src)
  /-- FFMA_F64: M 16, F 3. -/
  | ffmaF64 (p : Pfx) (d : BitVec 7) (a b : Src)
  /-- FMIN_F64: M 16, F 4. -/
  | fminF64 (p : Pfx) (d : BitVec 7) (a b : Src)
  /-- FMAX_F64: M 16, F 5. -/
  | fmaxF64 (p : Pfx) (d : BitVec 7) (a b : Src)
  /-- FABS_F64: M 16, F 6. -/
  | fabsF64 (p : Pfx) (d : BitVec 7) (a : Src)
  /-- FNEG_F64: M 16, F 7. -/
  | fnegF64 (p : Pfx) (d : BitVec 7) (a : Src)
  /-- FRCP: M 17, F 0. -/
  | frcp (p : Pfx) (d : BitVec 7) (a : Src)
  /-- FRSQ: M 17, F 1. -/
  | frsq (p : Pfx) (d : BitVec 7) (a : Src)
  /-- FSQRT: M 17, F 2. -/
  | fsqrt (p : Pfx) (d : BitVec 7) (a : Src)
  /-- FEXP2: M 17, F 3. -/
  | fexp2 (p : Pfx) (d : BitVec 7) (a : Src)
  /-- FLOG2: M 17, F 4. -/
  | flog2 (p : Pfx) (d : BitVec 7) (a : Src)
  /-- FDIV: M 17, F 5. -/
  | fdiv (p : Pfx) (d : BitVec 7) (a b : Src)
  /-- FRND: M 18, F 0. -/
  | frnd (p : Pfx) (d : BitVec 7) (a : Src)
  /-- FCLASS: M 18, F 1. -/
  | fclass (p : Pfx) (d : BitVec 7) (a b : Src)
  /-- FFLAG: M 18, F 2. -/
  | fflag (p : Pfx) (d : BitVec 7) (b : Src)
  /-- FSCL: M 18, F 3. -/
  | fscl (p : Pfx) (d : BitVec 7) (a b : Src)
  /-- FDOT_2: M 18, F 4. -/
  | fdot2 (p : Pfx) (d : BitVec 7) (a b : Src)
  /-- FDOT_4: M 18, F 5. -/
  | fdot4 (p : Pfx) (d : BitVec 7) (a b : Src)
  /-- FDOT_8: M 18, F 6. -/
  | fdot8 (p : Pfx) (d : BitVec 7) (a b : Src)
  /-- CVT: M 19. -/
  | cvt (p : Pfx) (rc : BitVec 3) (d : BitVec 7) (a : Src) (ty : BitVec 8)
  /-- CVTN_PK: M 20, F 0. -/
  | cvtnPk (p : Pfx) (d : BitVec 7) (a : Src) (fmt : BitVec 8)
  /-- CVTN_UP: M 20, F 1. -/
  | cvtnUp (p : Pfx) (d : BitVec 7) (a : Src) (fmt : BitVec 8)
  /-- CVTN_PK6: M 20, F 2. -/
  | cvtnPk6 (p : Pfx) (d : BitVec 7) (a : Src) (fmt : BitVec 8)
  /-- CVTN_UP6: M 20, F 3. -/
  | cvtnUp6 (p : Pfx) (d : BitVec 7) (a : Src) (fmt : BitVec 8)
  /-- MXSCALE: M 20, F 4. -/
  | mxscale (p : Pfx) (d : BitVec 7) (a : Src) (fmt : BitVec 8)
  /-- SHFL_I: M 21, F 0. -/
  | shflI (p : Pfx) (d : BitVec 7) (a b : Src)
  /-- SHFL_X: M 21, F 1. -/
  | shflX (p : Pfx) (d : BitVec 7) (a b : Src)
  /-- SHFL_D: M 21, F 2. -/
  | shflD (p : Pfx) (d : BitVec 7) (a b : Src)
  /-- BCAST: M 21, F 3. -/
  | bcast (p : Pfx) (d : BitVec 7) (a b : Src)
  /-- RED_ADD: M 21, F 4. -/
  | redAdd (p : Pfx) (d : BitVec 7) (a : Src) (ty : BitVec 2)
  /-- RED_MIN: M 21, F 5. -/
  | redMin (p : Pfx) (d : BitVec 7) (a : Src) (ty : BitVec 2)
  /-- RED_MAX: M 21, F 6. -/
  | redMax (p : Pfx) (d : BitVec 7) (a : Src) (ty : BitVec 2)
  /-- SCAN_ADD: M 21, F 7. -/
  | scanAdd (p : Pfx) (d : BitVec 7) (a : Src) (excl : Bool) (ty : BitVec 2)
  /-- SCAN_MIN: M 21, F 7. -/
  | scanMin (p : Pfx) (d : BitVec 7) (a : Src) (excl : Bool) (ty : BitVec 2)
  /-- SCAN_MAX: M 21, F 7. -/
  | scanMax (p : Pfx) (d : BitVec 7) (a : Src) (excl : Bool) (ty : BitVec 2)
  /-- TATOM_WR: M 22, F 0. -/
  | tatomWr (p : Pfx) (d : BitVec 7) (tr : BitVec 4) (b : Src)
  /-- TATOM_ADD: M 22, F 1. -/
  | tatomAdd (p : Pfx) (d : BitVec 7) (tr : BitVec 4) (b : Src)
  /-- TATOM_MAX: M 22, F 2. -/
  | tatomMax (p : Pfx) (d : BitVec 7) (tr : BitVec 4) (b : Src)
  /-- TATOM_CAS: M 22, F 3. -/
  | tatomCas (p : Pfx) (d : BitVec 7) (tr : BitVec 4) (b : Src)
  /-- SDQ: M 23, F 0. -/
  | sdq (p : Pfx) (d : BitVec 7) (a : Src)
  /-- SENDX: M 23, F 1. -/
  | sendx (p : Pfx) (d : BitVec 7) (a : Src)
  /-- QSTAT_E: M 23, F 2. -/
  | qstatE (p : Pfx) (d : BitVec 7) (q : BitVec 4)
  /-- QFLUSH_E: M 23, F 3. -/
  | qflushE (p : Pfx) (q : BitVec 4)
  /-- QEND: M 23, F 4. -/
  | qend (p : Pfx) (d : BitVec 7) (q : BitVec 4)
  /-- FEED: M 24, F 0. -/
  | feed (p : Pfx) (d : BitVec 7) (a : Src)
  /-- FEED_END: M 24, F 1. -/
  | feedEnd (p : Pfx) (d : BitVec 7) (a : Src)
  /-- RECVX: M 24, F 2. -/
  | recvx (p : Pfx) (d : BitVec 7) (q : BitVec 2)
  /-- QSTAT_A: M 24, F 3. -/
  | qstatA (p : Pfx) (d : BitVec 7) (q : BitVec 4)
  /-- QFLUSH_A: M 24, F 4. -/
  | qflushA (p : Pfx) (q : BitVec 4)
  /-- LDQ_B8: M 25, F 0. -/
  | ldqB8 (p : Pfx) (d : BitVec 7) (a b : Src)
  /-- LDQ_B16: M 25, F 1. -/
  | ldqB16 (p : Pfx) (d : BitVec 7) (a b : Src)
  /-- LDQ_B32: M 25, F 2. -/
  | ldqB32 (p : Pfx) (d : BitVec 7) (a b : Src)
  /-- LDQ_B64: M 25, F 3. -/
  | ldqB64 (p : Pfx) (d : BitVec 7) (a b : Src)
  /-- LDQ_K16: M 25, F 4. -/
  | ldqK16 (p : Pfx) (d : BitVec 7) (a b : Src)
  /-- LDQ_LINE: M 25, F 5. -/
  | ldqLine (p : Pfx) (d : BitVec 7) (a b : Src)
  /-- LD_I8: M 26, F 0. -/
  | ldI8 (p : Pfx) (d : BitVec 7) (a b : Src)
  /-- LD_N8: M 26, F 1. -/
  | ldN8 (p : Pfx) (d : BitVec 7) (a b : Src)
  /-- LD_I16: M 26, F 2. -/
  | ldI16 (p : Pfx) (d : BitVec 7) (a b : Src)
  /-- LD_N16: M 26, F 3. -/
  | ldN16 (p : Pfx) (d : BitVec 7) (a b : Src)
  /-- LD_I32: M 26, F 4. -/
  | ldI32 (p : Pfx) (d : BitVec 7) (a b : Src)
  /-- LD_N32: M 26, F 5. -/
  | ldN32 (p : Pfx) (d : BitVec 7) (a b : Src)
  /-- LD_B64: M 26, F 6. -/
  | ldB64 (p : Pfx) (d : BitVec 7) (a b : Src)
  /-- ST_B8: M 27, F 0. -/
  | stB8 (p : Pfx) (d : BitVec 7) (a b : Src)
  /-- ST_B16: M 27, F 1. -/
  | stB16 (p : Pfx) (d : BitVec 7) (a b : Src)
  /-- ST_B32: M 27, F 2. -/
  | stB32 (p : Pfx) (d : BitVec 7) (a b : Src)
  /-- ST_B64: M 27, F 3. -/
  | stB64 (p : Pfx) (d : BitVec 7) (a b : Src)
  /-- STA_B8: M 27, F 4. -/
  | staB8 (p : Pfx) (d : BitVec 7) (a b : Src)
  /-- STA_B16: M 27, F 5. -/
  | staB16 (p : Pfx) (d : BitVec 7) (a b : Src)
  /-- STA_B32: M 27, F 6. -/
  | staB32 (p : Pfx) (d : BitVec 7) (a b : Src)
  /-- STA_B64: M 27, F 7. -/
  | staB64 (p : Pfx) (d : BitVec 7) (a b : Src)
  /-- ATOM_ADD: M 28, F 0. -/
  | atomAdd (p : Pfx) (w : Bool) (d : BitVec 5) (a b : Src)
  /-- ATOM_MIN: M 28, F 1. -/
  | atomMin (p : Pfx) (w : Bool) (d : BitVec 5) (a b : Src)
  /-- ATOM_MIN_N: M 28, F 1. -/
  | atomMinN (p : Pfx) (w : Bool) (d : BitVec 5) (a b : Src)
  /-- ATOM_MAX: M 28, F 2. -/
  | atomMax (p : Pfx) (w : Bool) (d : BitVec 5) (a b : Src)
  /-- ATOM_MAX_N: M 28, F 2. -/
  | atomMaxN (p : Pfx) (w : Bool) (d : BitVec 5) (a b : Src)
  /-- ATOM_AND: M 28, F 3. -/
  | atomAnd (p : Pfx) (w : Bool) (d : BitVec 5) (a b : Src)
  /-- ATOM_OR: M 28, F 4. -/
  | atomOr (p : Pfx) (w : Bool) (d : BitVec 5) (a b : Src)
  /-- ATOM_XOR: M 28, F 5. -/
  | atomXor (p : Pfx) (w : Bool) (d : BitVec 5) (a b : Src)
  /-- ATOM_XCHG: M 28, F 6. -/
  | atomXchg (p : Pfx) (w : Bool) (d : BitVec 5) (a b : Src)
  /-- CAS: M 28, F 7. -/
  | cas (p : Pfx) (w : Bool) (d : BitVec 5) (a b : Src)
  /-- CRED_ADD_I32: M 29, F 0. -/
  | credAddI32 (p : Pfx) (d : BitVec 7) (a b : Src)
  /-- CRED_ADD_F32: M 29, F 1. -/
  | credAddF32 (p : Pfx) (d : BitVec 7) (a b : Src)
  /-- CRED_MIN_I32: M 29, F 2. -/
  | credMinI32 (p : Pfx) (d : BitVec 7) (a b : Src)
  /-- CRED_MAX_I32: M 29, F 3. -/
  | credMaxI32 (p : Pfx) (d : BitVec 7) (a b : Src)
  /-- CRED_OR_B32: M 29, F 4. -/
  | credOrB32 (p : Pfx) (d : BitVec 7) (a b : Src)
  /-- CRED_ADD_I64: M 29, F 5. -/
  | credAddI64 (p : Pfx) (d : BitVec 7) (a b : Src)
  /-- CRED_MAX_F32: M 29, F 6. -/
  | credMaxF32 (p : Pfx) (d : BitVec 7) (a b : Src)
  /-- FENCE: M 30, F 0. -/
  | fence (p : Pfx)
  /-- PREF: M 30, F 1. -/
  | pref (p : Pfx) (a b : Src)
  /-- TGIVE: M 30, F 2. -/
  | tgive (p : Pfx) (t : BitVec 6)
  /-- TCLAIM: M 30, F 3. -/
  | tclaim (p : Pfx) (t : BitVec 6)
  /-- TCHK: M 30, F 4. -/
  | tchk (p : Pfx) (d : BitVec 7) (t : BitVec 6)
  /-- FOPEN: M 31, F 0. -/
  | fopen (p : Pfx) (d : BitVec 7) (a b : Src)
  /-- FADV: M 31, F 1. -/
  | fadv (p : Pfx) (d : BitVec 7) (q : BitVec 4) (b : Src)
  /-- FEND: M 31, F 2. -/
  | fend (p : Pfx) (q : BitVec 4)
  /-- FCLOSE: M 31, F 3. -/
  | fclose (p : Pfx) (q : BitVec 4)
  /-- KINS: M 32, F 0. -/
  | kins (p : Pfx) (d : BitVec 7) (a b : Src)
  /-- KGET: M 32, F 1. -/
  | kget (p : Pfx) (d : BitVec 7) (a b : Src)
  /-- RING_CLAIM: M 32, F 2. -/
  | ringClaim (p : Pfx) (d : BitVec 7) (b : Src)
  /-- RING_POST: M 32, F 3. -/
  | ringPost (p : Pfx) (a b : Src)
  /-- RING_TAKE: M 32, F 4. -/
  | ringTake (p : Pfx) (d : BitVec 7) (b : Src)
  /-- RING_FREE: M 32, F 5. -/
  | ringFree (p : Pfx) (a b : Src)
  /-- KICK: M 33, F 0. -/
  | kick (p : Pfx) (d : BitVec 7) (a b : Src)
  /-- MBINIT: M 33, F 1. -/
  | mbinit (p : Pfx) (d : BitVec 7) (a b : Src)
  /-- MBEXP: M 33, F 2. -/
  | mbexp (p : Pfx) (d : BitVec 7) (a b : Src)
  /-- MBARR: M 33, F 3. -/
  | mbarr (p : Pfx) (a b : Src)
  /-- MBWAIT: M 33, F 4. -/
  | mbwait (p : Pfx) (d : BitVec 7) (a b : Src)
  /-- XFORM: M 33, F 5. -/
  | xform (p : Pfx) (d : BitVec 7) (a b : Src)
  /-- ARRIVE: M 34, F 0. -/
  | arrive (p : Pfx) (nb : BitVec 4) (b : Src)
  /-- ARWAIT: M 34, F 1. -/
  | arwait (p : Pfx) (nb : BitVec 4) (b : Src)
  /-- BWAIT: M 34, F 2. -/
  | bwait (p : Pfx) (nb : BitVec 4)
  /-- NGET_B32: M 35, F 0. -/
  | ngetB32 (p : Pfx) (d : BitVec 7) (a b : Src)
  /-- NSEND: M 35, F 1. -/
  | nsend (p : Pfx) (a b : Src)
  /-- NFENCE: M 35, F 2. -/
  | nfence (p : Pfx)
  /-- KVLK: M 36, F 0. -/
  | kvlk (p : Pfx) (d : BitVec 7) (a : Src)
  /-- KVINS: M 36, F 1. -/
  | kvins (p : Pfx) (d : BitVec 7) (a b : Src)
  /-- KVDEL: M 36, F 2. -/
  | kvdel (p : Pfx) (d : BitVec 7) (a : Src)
  /-- KVREF: M 36, F 3. -/
  | kvref (p : Pfx) (d : BitVec 7) (a b : Src)
  /-- KVPOS: M 36, F 4. -/
  | kvpos (p : Pfx) (d : BitVec 7) (a b : Src)
  /-- KVQ: M 36, F 5. -/
  | kvq (p : Pfx) (d : BitVec 7) (a b : Src)
  /-- MCV: M 37, F 0. -/
  | mcv (p : Pfx) (d : BitVec 7) (a : Src)
  /-- MMA: M 37, F 1. -/
  | mma (p : Pfx) (m : MmaArgs)
  /-- MMA_MINPLUS: M 37, F 1. -/
  | mmaMinplus (p : Pfx) (m : MmaArgs)
  /-- MMA_MAXTIMES: M 37, F 1. -/
  | mmaMaxtimes (p : Pfx) (m : MmaArgs)
  /-- MMA_ORAND: M 37, F 1. -/
  | mmaOrand (p : Pfx) (m : MmaArgs)
  /-- MMA_STAGE: M 37, F 1. -/
  | mmaStage (p : Pfx) (m : MmaArgs)
  /-- MZERO: M 37, F 2. -/
  | mzero (p : Pfx) (d : BitVec 7)
  /-- MRD_F32: M 37, F 3. -/
  | mrdF32 (p : Pfx) (d : BitVec 7) (t : BitVec 3) (h i : Bool)
  /-- MRD_ST: M 37, F 3. -/
  | mrdSt (p : Pfx) (d : BitVec 7) (t : BitVec 3) (i : Bool)
  /-- MWR_F32: M 37, F 4. -/
  | mwrF32 (p : Pfx) (d : BitVec 7) (t : BitVec 3) (h i : Bool)
  /-- MWR_ST: M 37, F 4. -/
  | mwrSt (p : Pfx) (d : BitVec 7) (t : BitVec 3) (i : Bool)
  /-- MCONT: M 37, F 5. -/
  | mcont (p : Pfx) (a : Src)
  /-- MSCL: M 37, F 6. -/
  | mscl (p : Pfx) (d : BitVec 7) (az : BitVec 3) (b : BitVec 8)
  /-- SMX: M 38, F 0. -/
  | smx (p : Pfx) (d : BitVec 7) (a : Src) (b : BitVec 8)
  /-- SMRG: M 38, F 1. -/
  | smrg (p : Pfx) (d : BitVec 7) (aS : BitVec 3)
  /-- SMFIN: M 38, F 2. -/
  | smfin (p : Pfx) (d : BitVec 7)
  /-- TENQ: M 39, F 0. -/
  | tenq (p : Pfx) (a : Src)
  /-- VABORT: M 39, F 1. -/
  | vabort (p : Pfx) (d : BitVec 7) (a : Src)
  /-- TSTAMP: M 39, F 2. -/
  | tstamp (p : Pfx) (d : BitVec 7)
  /-- RDSR: M 39, F 3. -/
  | rdsr (p : Pfx) (d : BitVec 7) (n : BitVec 7)
  /-- WRSR: M 39, F 4. -/
  | wrsr (p : Pfx) (n : BitVec 7) (a : Src)
  /-- TLBI: M 39, F 5. -/
  | tlbi (p : Pfx) (a : Src)
  /-- TLBI_ALL: M 39, F 5. -/
  | tlbiAll (p : Pfx)
  /-- MCALL_TELEMETRY: M 39, F 6. -/
  | mcallTelemetry (p : Pfx) (d : BitVec 7) (b : Src)
  /-- MCALL_LOCATE: M 39, F 6. -/
  | mcallLocate (p : Pfx) (d : BitVec 7)
  /-- MCALL_PEER: M 39, F 6. -/
  | mcallPeer (p : Pfx) (d : BitVec 7) (b : Src)
  /-- Event RECONVERGENCE_TIMEOUT. -/
  | reconvergenceTimeout (tm sid : Nat)
  /-- Event BIN_AGE_DRAW. -/
  | binAgeDraw (core bin : Nat)
  /-- Event YIELD_EXPIRY. -/
  | yieldExpiry (tm gid : Nat)
  /-- Event TASK_ENDED. -/
  | taskEnded (task : Nat)
  /-- Event DRAIN. -/
  | drain (tm tid : Nat)
  /-- Event MERGE. -/
  | merge (core line : Nat)
  /-- Event LDQ_FILL. -/
  | ldqFill (tm tid q : Nat)
  /-- Event TRANSLATION_COMPLETE. -/
  | translationComplete (tm tid : Nat)
  /-- Event PENDING_FAULT_DELIVERY. -/
  | pendingFaultDelivery (tm tid : Nat)
  /-- Event QUEUE_DEADLOCK. -/
  | queueDeadlock (tm tid : Nat)
  /-- Event STREAM_ELEMENT. -/
  | streamElement (tm tid q : Nat)
  /-- Event MMA_COMPLETE. -/
  | mmaComplete (core : Nat)
  /-- Event BEAR_COMMAND_COMPLETE. -/
  | bearCommandComplete (core : Nat)
  /-- Event BEAR_FAULT. -/
  | bearFault (core blocks : Nat)
  /-- Event COPY_ROW. -/
  | copyRow (id : Nat)
  /-- Event SETT_PAIR_PASS. -/
  | settPairPass (id sett : Nat)
  /-- Event RETURN_MERGE. -/
  | returnMerge (id : Nat)
  /-- Event KVQ_COMPLETE. -/
  | kvqComplete (id : Nat)
  /-- Event KVQ_FAIL. -/
  | kvqFail (id : Nat)
  /-- Event NSEND_ROW. -/
  | nsendRow (id : Nat)
  /-- Event ROW_ACK. -/
  | rowAck (id : Nat)
  /-- Event REMOTE_ROW_ARRIVAL. -/
  | remoteRowArrival (row : RemoteRow)
  /-- Event REMOTE_TIMEOUT. -/
  | remoteTimeout (op : RemoteOp)
  /-- Event REMOTE_READ. -/
  | remoteRead (part win : Nat) (off : BitVec 64)
  /-- Event NGET_RESPONSE. -/
  | ngetResponse (tm tid q : Nat) (w : BitVec 32)
  /-- Event MCALL_ANSWER. -/
  | mcallAnswer (tm tid : Nat)
  /-- Event EXPERT_STARVED. -/
  | expertStarved (tm tid : Nat)
  /-- Event BREAKPOINT_MATCH. -/
  | breakpointMatch (tm gid : Nat)
  /-- Event CONTINUE. -/
  | resume (part : Nat)
  /-- Event STEP. -/
  | stepGroup (tm gid : Nat)
  /-- Event SUBMIT. -/
  | submit (part : Nat) (va : BitVec 64)
  /-- Event REGISTER_WRITE. -/
  | registerWrite (part off width : Nat) (value : BitVec 64)
  /-- Event HOST_APERTURE_WRITE. -/
  | hostApertureWrite (part off : Nat) (bytes : List Byte)
  /-- Event HOST_APERTURE_READ. -/
  | hostApertureRead (part off n : Nat)
  /-- Event COMMIT. -/
  | commit (task : Nat)
  /-- Event SUCCESSOR_DECREMENT. -/
  | successorDecrement (task : Nat)
  /-- Event BIND_RECORD. -/
  | bindRecord (core idx : Nat) (r : BindRec)
  /-- Event TEAM_START. -/
  | teamStart (cluster : Nat)
  /-- Event EVICTION. -/
  | eviction (core : Nat) (need : Need)
  /-- Event GROUP_SAVE. -/
  | groupSave (tm slot : Nat)
  /-- Event THERMAL_MIGRATION. -/
  | thermalMigration (cluster : Nat)
  /-- Event LENT_TILE_DRAIN. -/
  | lentTileDrain (core : Nat)
  /-- Event L2_WRITE_BACK. -/
  | l2WriteBack (part frame : Nat)
  /-- Event SCRUB_ERROR. -/
  | scrubError (part : Nat) (rec : MachineCheck)
  /-- Event DIRTY_HARVEST. -/
  | dirtyHarvest (part dword : Nat)
  /-- Event SWAP_OUT. -/
  | swapOut (part : Nat)
  /-- Event SWAP_IN. -/
  | swapIn (part : Nat)
  /-- Event MIGRATION_ROUND. -/
  | migrationRound (part : Nat)
  /-- Event PRECOPY_FRAME. -/
  | precopyFrame (part frame : Nat) (bytes : List Byte) (tagOk : Bool)
  /-- Event PARTITION_HEADER. -/
  | partitionHeader (part : Nat)
  /-- Event TEAM_CONTEXT. -/
  | teamContext (part tm : Nat)
  /-- Event TASK_RECORD. -/
  | taskRecord (part task : Nat)
  /-- Event BEAR_CONTINUATION. -/
  | bearContinuation (part core : Nat)
  /-- Event LYNX_FLOWS. -/
  | lynxFlows (part : Nat)
  /-- Event TIME_RECORD. -/
  | timeRecord (part : Nat)
  /-- Event TELEMETRY_RING_TAIL. -/
  | telemetryRingTail (part : Nat)
  /-- Event BEAR_CHECK_STATISTICS. -/
  | bearCheckStatistics (part : Nat)
  /-- Event END_OF_IMAGE. -/
  | endOfImage (part : Nat)
  /-- Event UNKNOWN_RECORD. -/
  | unknownRecord (part : Nat) (head : BitVec 64)
  /-- Event QUOTE. -/
  | quote (part : Nat) (nonce : BitVec 512)
  /-- Event ECIDE_HANDOVER. -/
  | ecideHandover (component : List Byte) (ok : Bool)
  /-- Event PARTITION_CREATE. -/
  | partitionCreate (part : Nat) (cfg : PartCfg)
  /-- Event PARTITION_RESIZE. -/
  | partitionResize (part : Nat) (cores : List Nat) (grant : List Nat)
  /-- Event PARTITION_DELETE. -/
  | partitionDelete (part : Nat)
  /-- Event CORE_RETIREMENT. -/
  | coreRetirement (core : Nat)
  /-- Event PSEUDO_CHANNEL_RETIREMENT. -/
  | pseudoChannelRetirement (stack channel : Nat)
  /-- Event LYNX_LANE_DEGRADE. -/
  | lynxLaneDegrade (port lanes : Nat)
  /-- Event PCIE_DEGRADE. -/
  | pcieDegrade (width : Nat)
  /-- Event HBM_RECALIBRATION. -/
  | hbmRecalibration (stack channel : Nat)
  /-- Event POWER_CAP. -/
  | powerCap (sixteenths : Nat)
  /-- Event COOLANT_OVER_LIMIT. -/
  | coolantOverLimit
  /-- Event POWER_GOOD. -/
  | powerGood (boot : BootCfg)
  /-- Event POWER_REMOVED. -/
  | powerRemoved
  /-- Event DECODE_FAULT. -/
  | decodeFault (e : DecErr)
  /-- Event GTC_INCREMENT. -/
  | gtcIncrement
  /-- Event HOST_STORE_COMPLETION. -/
  | hostStoreCompletion (tm tid : Nat)
  /-- Event REMOTE_REFUSED. -/
  | remoteRefused (op : RemoteOp)
  /-- Event IMAGE_REFUSED. -/
  | imageRefused (part : Nat) (head : BitVec 64)
  /-- Event TILRAX_DBG_SESSION. -/
  | tilraxDbgSession (part : Nat) (on : Bool)
deriving DecidableEq, Repr

end Sys2Proof
end

