-- ==== Sys2Proof/Machine/State.lean ====
section
/-! DEFINITION. The state of the KX960 as plain data: everything the spec gives the machine (INVENTORY.md, State), and the
state after reset. Identifiers of teams, groups and requests are numbers handed out in order of creation. -/

namespace Sys2Proof.Machine

/-- Why the machine stops. -/
inductive Fault where
  /-- Raised by any instruction or event but POWER_GOOD while the module has no power (R8, R320): the device has no state to
  act on. Safe: the machine stops where the hardware does nothing. -/
  | poweredOff
deriving DecidableEq, Repr

/-- Why an instruction or an event has no step at this state. -/
inductive Refusal where
  /-- An instruction of the opcode table that has no meaning yet; named by its mnemonic. Safe. -/
  | notModelled (mnemonic : String)
  /-- An encoded instruction while no group is issuing (an instruction is executed only at an issue, R69). Safe: no program
  reaches this. -/
  | noIssuer
  /-- An event whose condition does not hold at this state (Table 6-2, R134), named by its mnemonic. Safe: the machine takes
  a step only when its condition holds. -/
  | notEnabled (mnemonic : String)
deriving DecidableEq, Repr

/-- The cause codes (Table 9-3). -/
inductive Cause where
  | none
  | illegalOp
  | badPrefix
  | badOperand
  | sideMismatch
  | badTarget
  | priv
  | badHeader
  | xlate
  | perm
  | align
  | race
  | versionOverflow
  | owner
  | integrity
  | cvtPolicy
  | divZero
  | queueFullExit
  | queueDeadlock
  | queueUnderflow
  | mmaFormat
  | badContinuation
  | cvMismatch
  | kvPageQuarantined
  | kvDirectoryFull
  | remoteTimeout
  | expertStarved
  | remoteRefused
  | trap (n : BitVec 3)
  | brk
  | step
  | abortRequested
  | ended
  | machineCheck
deriving DecidableEq, Repr, Inhabited

/-- A vector clock: for each agent, how many of its accesses are known to happen before (R140). -/
abbrev Clock := KMap Nat

/-- One access to a word, kept for race detection (R142, R143, Table 6-9). -/
structure Acc where
  /-- Event order (R16). -/
  seq : Nat
  agent : Nat
  epoch : Nat
  write : Bool
  strong : Bool
  /-- The task whose version holds this plain store (R141). -/
  verTask : Option Nat
  gtc : DWord
  source : Nat
  kind : Nat
  thread : Nat
  teamNo : Nat
  taskId : DWord
  /-- The task, by the number the model gives it. -/
  task : Nat
deriving DecidableEq, Repr, Inhabited

/-- What a strong access that wrote a word carries to an acquire that reads it (R138). -/
structure RelTag where
  clk : Clock
  mask : BitVec 5
  /-- Bit of the writer's class in a mask: 4 C, 3 E, 2 M, 1 P, 0 H. -/
  cls : Nat
deriving DecidableEq, Repr, Inhabited

/-- Where an access goes (R116, R120): a team's scratchpad, HBM or host memory. -/
inductive Loc where
  | scratch (tm off : Nat)
  | hbm (pa : Nat)
  | host (pa : Nat)
deriving DecidableEq, Repr, Inhabited

/-- An entry of a store buffer B[t] (Table 6-1). -/
structure SbEntry where
  loc : Loc
  bytes : List Byte
  order : BitVec 3
  mask : BitVec 5
  clk : Clock
deriving DecidableEq, Repr, Inhabited

/-- A condition that a thread waits on at its instruction, which it then attempts again (R92, R99, R100). -/
inductive Cond where
  /-- Pop or peek of a data queue: the place that it needs, by its position from the head, is not poppable. -/
  | popQ (q i : Nat)
  /-- Pop, peek or `recvx`: return queue empty. -/
  | popRq (q : Nat)
  /-- Push to a full data queue: places needed. -/
  | pushQ (q n : Nat)
  /-- `sendx` to a full return queue. -/
  | pushRq (q : Nat)
  /-- `sdq` to a full store-data queue. -/
  | pushSq (q : Nat)
  /-- `sta`: elements the store-data queue must hold. -/
  | fewSq (q n : Nat)
  /-- Absent scratchpad line of a team (R124). -/
  | line (tm line : Nat)
  /-- The store buffer must be empty and the earlier accesses must have reached the classes of a mask (Table 6-3). -/
  | reach (mask : BitVec 5)
  /-- An owner-bit wait: engine commands still name the tile (R399). -/
  | tile (t : Nat)
  /-- `mbwait`: the phase at the object is still this one. -/
  | mb (loc : Loc) (phase : Word)
  /-- `ring.claim` of a full ring. -/
  | ringFull (ring : Nat)
  /-- `ring.take` of an empty ring. -/
  | ringEmpty (ring : Nat)
  /-- `mma`: the position is signed already (R223). -/
  | signed (cv pos : Nat)
  /-- A Bear command waits until every operation on the tile whose signatures come before it has issued; that of the convergence register
  `own` is the command itself (R235). -/
  | unissued (acc : Nat) (own : Option Nat)
  /-- `fclose`: the stream has not reserved and filled its last place (R349). -/
  | stream (q : Nat)
  /-- An arrival waits for the loads of earlier `nget` (R289). -/
  | loads
deriving DecidableEq, Repr, Inhabited

/-- Whether and on what a thread is parked. -/
inductive Park where
  | none
  /-- At its instruction; it attempts it again when the condition ends. -/
  | retry (c : Cond)
  /-- At the instruction after a `join` (R76). -/
  | joined (j : Nat)
  /-- At the instruction after `arwait` or `bwait`, in a group of threads parked so: barrier number and phase (R85, R290). -/
  | phase (nb : Nat) (n : Word)
  /-- At the instruction after an `ldq` or `nget`, until its translation has completed (R212); the flight's number. -/
  | translating (flight : Nat)
  /-- At an `ldq` or `nget` that holds a pending-fault record (R110); the queue. -/
  | pending (q : Nat)
  /-- At an instruction that waits for the Bear's command of this number (R225, R238). -/
  | bear (cmd : Nat)
  /-- At an `mma` that it has signed, while others of its group wait to sign (R90, R223). -/
  | signedOn
  /-- At `mcall`, until the answer arrives (R371): service and argument. -/
  | answer (svc : Nat) (arg : DWord) (d : BitVec 7)
  /-- Stopped by the debugger, with what the thread reports and whether a breakpoint register matched (R204, R205). -/
  | stopped (cause : Cause) (byMatch : Bool)
deriving DecidableEq, Repr, Inhabited

/-- A deferred cause of a copy, a `kvq` or a transfer (R261, R268, R286). -/
structure Deferred where
  /-- Issue order of the request. -/
  id : Nat
  cause : Cause
  faddr : DWord
  /-- The mb object it names, if any. -/
  mb : Option Loc
  /-- The address of that object, which an `mbwait` may name although the object itself cannot be reached (R261). -/
  mbVa : Option DWord
  /-- The tile of a `kvq`. -/
  tile : Option Nat
  /-- Lines a copy left absent, as team and line. -/
  lines : List (Nat × Nat)
  /-- An `nsend`: delivered at `nfence` too. -/
  send : Bool
  /-- Of a RACE, the earlier access and whether the later one writes (R143). -/
  race : Option (Acc × Bool)
deriving DecidableEq, Repr, Inhabited

/-- The handler registers of a thread (Table 9-1). -/
structure HRegs where
  cause : Cause
  done : Bool
  defer : Bool
  fpc : DWord
  fhdr : DWord
  faddr : DWord
  fgtc : DWord
  other : DWord
  otask : DWord
  fcount : Nat
  hscr : DWord
  /-- An instruction was completed outside handler code since the last entry (R193). -/
  progressed : Bool
  /-- The last entry was a breakpoint register's match (R193, R203). -/
  byMatch : Bool
  /-- Queue of a delivered pending-fault place, which a retry fills and a skip removes (R111, R349). -/
  place : Option Nat
deriving DecidableEq, Repr, Inhabited

/-- A wait that is counted in ns: from a stamp on; or, while its thread is stopped or saved, the time it had waited (R306). -/
inductive Timer where
  | runs (stamp : DWord)
  | held (waited : DWord)
deriving DecidableEq, Repr, Inhabited

/-- A thread of one side of a team (R63, R67). -/
structure Thread where
  v : KMap Word
  x : KMap DWord
  preds : BitVec 128
  slot : Nat
  lane : Nat
  exited : Bool
  park : Park
  gen : DWord
  flags : BitVec 5
  mode : DWord
  rstack : List DWord
  h : HRegs
  /-- The next issue at this address does not match a breakpoint again (R193, R203). -/
  passOnce : Option DWord
  deferred : List Deferred
  clk : Clock
  sb : List SbEntry
  /-- Outstanding transfers and host stores O[t], by number. -/
  out : List Nat
  /-- The wait that a parked `ring.take` counts (R306). -/
  since : Option Timer
  /-- Registers with an uncorrectable error not yet overwritten, by number: v of an execute thread, x of an access thread (R131). -/
  bad : List Nat
deriving DecidableEq, Repr, Inhabited

/-- A place of a data queue (R99, R110). -/
inductive Place where
  /-- An element: its word, its end tag, what its push knew, and whether the word holds an uncorrectable error (R131). -/
  | full (w : Word) (tag : Bool) (clk : Clock) (bad : Bool)
  | wait (flight : Nat)
  /-- A pending fault; of a stream's fault the address of its element (R349), of a stream's RACE the earlier access and whether
  the later one writes. -/
  | pend (cause : Cause) (faddr : DWord) (elem : Option DWord) (race : Option (Acc × Bool))
deriving DecidableEq, Repr, Inhabited

/-- An open stream (R346 to R350). -/
structure Stream where
  addr : DWord
  stride : DWord
  esz : BitVec 2
  rem : Nat
  /-- An end element is still due. -/
  tail : Bool
  order : BitVec 3
  mask : BitVec 5
  /-- Stopped on a pending-fault place. -/
  stopped : Bool
deriving DecidableEq, Repr, Inhabited

/-- A data queue (R96, R103, R107). -/
structure Queue where
  places : List Place
  flushed : Bool
  endSeen : Bool
  stream : Option Stream
deriving DecidableEq, Repr, Inhabited

/-- An element of a return or store-data queue. -/
structure Elem where
  w : Word
  clk : Clock
  /-- The word holds an uncorrectable error (R131). -/
  bad : Bool
deriving DecidableEq, Repr, Inhabited

/-- What an `ldq` or `nget` in flight brings (R365, R279): data, the fault its translation found, or a remote word awaited. -/
inductive Cargo where
  | data (ws : List Word)
  | fault (cause : Cause) (faddr : DWord)
  | remote (peer : DWord) (off : DWord)
  /-- Places reserved by an `ldq` that is parked on an absent scratchpad line (R365). -/
  | held
deriving DecidableEq, Repr, Inhabited

/-- An `ldq` or `nget` in flight. -/
structure Flight where
  id : Nat
  q : Nat
  clk : Clock
  cargo : Cargo
  /-- Its translation has completed. -/
  translated : Bool
  /-- Address and block of the instruction. -/
  fpc : DWord
  fhdr : DWord
deriving DecidableEq, Repr, Inhabited

/-- What the two threads of a pair share (R64, R113). -/
structure Pair where
  q : KMap Queue
  rq : KMap (List Elem)
  sq : KMap (List Elem)
  flights : List Flight
  afull : Nat
  eempty : Nat
  awaitrq : Nat
  nrecv : Nat
deriving DecidableEq, Repr, Inhabited

/-- A split record (R72, R73). -/
structure Split where
  hdr : DWord
  members : List Nat
  /-- Cycle in which the first sibling arrived. -/
  first : Option Nat
deriving DecidableEq, Repr, Inhabited

/-- A group or narrow group (R69). Every member stands at the same next instruction. -/
structure Group where
  tm : Nat
  side : Side
  slot : Nat
  /-- Thread indices, by ascending lane. -/
  members : List Nat
  /-- Next instruction, or the header about to be entered. -/
  pc : DWord
  hdr : DWord
  /-- LEN of the block, once it is entered. -/
  len : Nat
  entering : Bool
  /-- In handler code (R190). -/
  priv : Bool
  /-- Split records, the top first. -/
  stack : List Nat
  lastIssue : Nat
  /-- Not ready before this cycle (R84). -/
  readyAt : Nat
  /-- Cycle of a `yield` in effect (R404). -/
  yielded : Option Nat
  /-- Saved by a partial eviction (R184). -/
  saved : Bool
deriving DecidableEq, Repr, Inhabited

/-- A team register or s register: its value and what stood before the writes of recent cycles (R89). -/
structure UReg where
  cur : DWord
  /-- Cycle of a write and the value before that cycle, the latest first. -/
  hist : List (Nat × DWord)
deriving DecidableEq, Repr, Inhabited

/-- A rejoin mask (R74). -/
structure JMask where
  enrolled : BitVec 1024
  arrived : BitVec 1024
  /-- Clock of the arrivals (R78). -/
  clk : Clock
deriving DecidableEq, Repr, Inhabited

/-- A named barrier (R85 to R87). -/
structure Barrier where
  phase : Word
  arrived : Nat
  expected : Option Nat
  /-- Threads that arrived in this phase (for exits, R86). -/
  who : List Nat
  clk : Clock
deriving DecidableEq, Repr, Inhabited

/-- A convergence register (R222, R223). -/
structure Cv where
  declared : List Nat
  /-- First signer's IMX word and `mma` word. -/
  first : Option (Word × Word)
  /-- Position signed to the B registers latched, the signer and the count that its clock had for itself then. -/
  signed : KMap (List Word × Nat × Nat)
  clk : Clock
deriving DecidableEq, Repr, Inhabited

/-- The accuracy check of a tile (R244). -/
structure Shadow where
  s : KMap Word
  ops : Nat
deriving DecidableEq, Repr, Inhabited

/-- An accumulator tile: elements and rows m, l as fx40; unlisted elements are +0, m −∞, l +0 (R238, R373). -/
structure AccTile where
  elem : KMap (BitVec 40)
  m : KMap (BitVec 40)
  l : KMap (BitVec 40)
  empty : BitVec 64
  flags : BitVec 5
  shadow : Option Shadow
deriving DecidableEq, Repr, Inhabited

/-- Resources of a team (Table 8-1, 0x60 on). -/
structure Limits where
  vregs : Nat
  xregs : Nat
  nq : Nat
  depth : Nat
  tiles : Nat
  accs : Nat
deriving DecidableEq, Repr, Inhabited

/-- How a team stands (R93, R180, R204). -/
inductive TeamMode where
  /-- Accepted, waiting for the other ranks. -/
  | placed
  | running
  /-- Stopped by the debugger. -/
  | stopped
  /-- Saved as a whole. -/
  | saved
  /-- Every thread has exited; its store buffers may still drain (R94, R343). -/
  | retired
deriving DecidableEq, Repr, Inhabited

/-- A thread in a bin, with the cycle in which it was filed (R80). -/
structure Filed where
  thread : Nat
  cycle : Nat
deriving DecidableEq, Repr, Inhabited

/-- A reform bin (R80). -/
structure Bin where
  tm : Nat
  key : DWord
  priv : Bool
  filed : List Filed
deriving DecidableEq, Repr, Inhabited

/-- A team (R63 to R68). -/
structure Team where
  part : Nat
  task : Nat
  no : Nat
  cluster : Nat
  rank : Nat
  core : Nat
  /-- Granted group slots, ascending by group index (R66). -/
  slots : List Nat
  tpg : Nat
  gpt : Nat
  lim : Limits
  tbase : Nat
  abase : Nat
  qbase : Nat
  mode : TeamMode
  sE : KMap UReg
  sA : KMap UReg
  tr : KMap UReg
  jm : KMap JMask
  /-- nb1 to nb14 by number; nb0 of the execute side at 0 and of the access side at 15. -/
  nb : KMap Barrier
  cv : KMap Cv
  accs : KMap AccTile
  /-- Bit t set: tile t is engine-owned (R123). -/
  owner : BitVec 64
  /-- What the last `tgive` of a tile knew, which the commands given the tile learn (Table 6-7). -/
  gives : KMap Clock
  /-- What the commands that used a tile knew when it flipped to threads, which a `tclaim` learns (Table 6-7). -/
  flips : KMap Clock
  /-- Lines absent, as 128 × tile + line (R124). -/
  absent : List Nat
  /-- What the write that last set a line's presence bit knew, by line. -/
  lineClk : KMap Clock
  scratch : KMap Byte
  mcb : DWord
  /-- Stamp of the last start or restore (R187). -/
  since : DWord
  /-- Stamp of the start, which a restore leaves (R183). -/
  born : DWord
  /-- Threads selected for one step each (R205). -/
  stepping : List Nat
  /-- Group indices saved by partial eviction, whose slots are not held (R184). -/
  evicted : List Nat
  /-- Bin membership of saved threads: keys and, for each thread, the cycles it had waited (R93). -/
  savedBins : List Bin
deriving DecidableEq, Repr, Inhabited

/-- A cluster (R63, R65). -/
structure Cluster where
  task : Nat
  no : Nat
  nb15E : Barrier
  nb15A : Barrier
  teams : List Nat
  /-- Whether it restores saved contexts. -/
  restore : Bool
  started : Bool
  /-- Its teams are being saved, every one of them (R185). -/
  saving : Bool
deriving DecidableEq, Repr, Inhabited

/-- A submitted task: what the device keeps of its TCB (R171). -/
structure Task where
  part : Nat
  /-- Physical address of the TCB, and its virtual address. -/
  pa : Nat
  va : DWord
  codeA : DWord
  codeE : DWord
  args : DWord
  argv : List DWord
  cw : Nat
  ch : Nat
  tpg : Nat
  gpt : Nat
  teams : Nat
  lim : Limits
  preempt : Bool
  migr : Bool
  vers : Bool
  prio : Nat
  budget : Nat
  taskId : DWord
  /-- STATE as the device knows it (Table 8-3). -/
  state : Nat
  /-- DEPS as the device counts it while the task waits (R171, R175). -/
  deps : Nat
  /-- Ready-queue key: stamp, source, order of enqueue (R176). -/
  tenq : DWord
  source : Nat
  order : Nat
  bound : Nat
  retired : Nat
  strong : Nat
  /-- V[T] by physical address. -/
  ver : KMap Byte
  /-- Version lines allocated. -/
  vlines : List Nat
  /-- Bytes as they stood at the start of the task, for those written since, with the task that wrote last (R28). -/
  oldCode : KMap (Byte × Option Nat)
  clk : Clock
  /-- Successors still to decrement, as list positions (R178). -/
  succs : List DWord
deriving DecidableEq, Repr, Inhabited

/-- What a Bear command does (R235). -/
inductive BearOp where
  /-- `mma`: semiring, fields, its words, latched B by position, k-blocks done; a continuation brings the tile it starts from. -/
  | mma (semi : Nat) (m : MmaArgs) (word imx : Word) (b : KMap (List Word)) (done : Nat) (load : Option AccTile)
  | mzero (t : Nat)
  /-- `mrd.f32`: `zs` are the inactive threads whose destinations are written 0. -/
  | mrdF (t h i : Nat) (threads zs : List Nat) (d : Nat) (rc : Nat) (policy : Byte)
  | mrdS (t i : Nat) (threads zs : List Nat) (d : Nat) (rc : Nat) (policy : Byte)
  /-- `mwr.f32`: row, first column and words of each thread. -/
  | mwrF (t h i : Nat) (rows : KMap (List Word))
  | mwrS (t i : Nat) (rows : KMap (List Word))
  | mscl (d z tile : Nat) (f32 : Bool) (rc : Nat)
  | smx (o sc tile fmt : Nat) (c : Word) (rc : Nat)
  | smrg (d sc : Nat)
  | smfin (o : Nat)
deriving DecidableEq, Repr, Inhabited

/-- A command in a Bear's order (R235, R236). -/
structure BearCmd where
  id : Nat
  tm : Nat
  /-- Thread key of the issuer, or of the holder. -/
  thread : Nat
  gid : Nat
  mode : DWord
  /-- The Bear's generator for this command, whose seed the spec does not give: a free value. -/
  gen : DWord
  clk : Clock
  op : BearOp
  /-- Scratchpad tiles that it names. -/
  tiles : List Nat
  /-- A pre-emption has split it, and the Bear resumes it before any later command of its team (R198, R199). -/
  split : Bool
deriving DecidableEq, Repr, Inhabited

/-- An update-only partial of a word (R126): form of the `cred`, and the partial (fx40 for the float forms). -/
structure Partial where
  form : Nat
  val : DWord
  /-- The tasks whose contributions it holds. -/
  tasks : List Nat
  /-- What releasing contributions carry to an acquire that reads the merged word (R138). -/
  tag : Option RelTag
deriving DecidableEq, Repr, Inhabited

/-- A core of the logical mesh (R10). -/
structure Core where
  part : Option Nat
  age : DWord
  bins : KMap Bin
  /-- Threads filed in the cycle that runs, which enter their bins at its end (R80): each as a bin of one entry. -/
  filing : List Bin
  /-- The slot table (R179). -/
  table : KMap BindRec
  bear : List BearCmd
  /-- U[c] by word key. -/
  upd : KMap Partial
  /-- Tiles whose lending to L1 is being drained (R125). -/
  lent : List Nat
  /-- Pending requests that need eviction (R197). -/
  needs : List Need
  /-- Retired, or its position is absent (R11). -/
  absent : Bool
  /-- Cycle of the last issue on each side, for `yield` (R404). -/
  lastE : Nat
  lastA : Nat
  /-- The Fox issues an instruction to the lanes of one group until this cycle (R90). -/
  foxUntil : Nat
deriving DecidableEq, Repr, Inhabited

/-- A record of a telemetry ring: 32 bytes as four dwords. -/
structure TelRec where
  gtc : DWord
  w1 : DWord
  w2 : DWord
  w3 : DWord
deriving DecidableEq, Repr, Inhabited

/-- A flow of this device to a peer, or from one (R281, R284). -/
structure Flow where
  id : Nat
  next : Word
  /-- First sequence number not yet acknowledged. -/
  unacked : Word
  /-- Receiver: accepted numbers at or above the window's base. -/
  base : Word
  accepted : List Word
deriving DecidableEq, Repr, Inhabited

/-- A copy request (R264, R265). -/
structure Copy where
  id : Nat
  core : Nat
  tm : Nat
  thread : Nat
  recAddr : DWord
  crc : Bool
  tr : Bool
  rope : Bool
  plane : Nat
  esz : Nat
  src : DWord
  dst : DWord
  policy : Byte
  dstr : Nat
  sstr : Nat
  rows : Nat
  len : Nat
  dfmt : Byte
  /-- Address of the mb object, if the record names one. -/
  mb : Option DWord
  sfmt : Nat
  mode : DWord
  /-- Destination rows written. -/
  row : Nat
  /-- Running register of the checksum (R273). -/
  sum : Nat
  /-- Source bytes as they stood at acceptance, where source and destination overlap (R269). -/
  snap : KMap Byte
  /-- Destination lines of the local scratchpad, as team and line, still absent. -/
  lines : List (Nat × Nat)
  clk : Clock
deriving DecidableEq, Repr, Inhabited

/-- A triple (m, l, o[0..127]) of a Sett (R258). -/
structure Triple where
  m : BitVec 40
  l : BitVec 40
  o : KMap (BitVec 40)
  flags : BitVec 5
  n : Nat
deriving DecidableEq, Repr, Inhabited

/-- A pair of a `kvq` with what its pass needs: descriptor addresses of the key and the value page. -/
structure KvPair where
  key : DWord
  val : DWord
deriving DecidableEq, Repr, Inhabited

/-- A `kvq` request (R257). -/
structure Kvq where
  id : Nat
  tm : Nat
  thread : Nat
  tile : Nat
  qrec : DWord
  list : DWord
  /-- Address of the mb object that the list names, if it names one. -/
  mb : Option DWord
  /-- Descriptors pinned. -/
  pins : List DWord
  /-- Pairs still to process, by Sett. -/
  todo : KMap (List KvPair)
  triples : KMap Triple
  /-- The triple merged so far by the return network. -/
  merged : Option Triple
  /-- Why it failed: the cause, the address reported, and of a RACE the earlier access and whether this one wrote. -/
  failed : Option (Cause × DWord × Option (Acc × Bool))
  clk : Clock
deriving DecidableEq, Repr, Inhabited

/-- A transfer of `nsend` (R280, R281). -/
structure Send where
  id : Nat
  tm : Nat
  thread : Nat
  recAddr : DWord
  src : DWord
  roff : DWord
  len : Nat
  peer : DWord
  resid : DWord
  rmb : Option DWord
  lmb : Option DWord
  policy : Byte
  e5 : Bool
  rsr : Bool
  rfmt : Nat
  sf : Nat
  quant : Nat
  /-- The issuer's `sr.mode` at the step (R160). -/
  mode : DWord
  peerIx : Nat
  /-- Source number of the Lynx port. -/
  port : Nat
  flow : Nat
  seq : Word
  nrows : Nat
  started : Nat
  acked : Nat
  flags : BitVec 5
  /-- New residuals of rows not yet acknowledged, by row: the bytes for RESID (R283). -/
  pending : KMap (List Byte)
  /-- Rows as sent, by row: the bytes of the row. -/
  sent : KMap (List Byte)
  /-- It has failed: no row starts any more, and it ends when those in flight are acknowledged (R286). -/
  dead : Bool
  clk : Clock
deriving DecidableEq, Repr, Inhabited

/-- A team's saved context (R93, R115), with its cluster and its transfers. -/
structure TeamImage where
  no : Nat
  team : Team
  cluster : Option Cluster
  threads : KMap Thread
  pairs : KMap Pair
  groups : KMap Group
  splits : KMap Split
  sends : List Send
  /-- The cycle of the source, from which the cycle numbers of the groups and records count. -/
  cycle : Nat
deriving DecidableEq, Repr, Inhabited

/-- What a context record holds (Table 19-4). The spec names the contents and gives no layout. -/
inductive ImgBody where
  /-- Grant size, register values of R307 and cluster shapes; and how many numbers the records' teams, groups and tasks take. -/
  | header (grant ids : Nat) (regs : List DWord) (bp : KMap DWord) (shapes : List (Nat × Nat))
  | team (t : TeamImage)
  /-- A TCB in states 1 to 3 with its place in the ready queues, stamps included. -/
  | task (no : Nat) (t : Task)
  | bear (core : Nat) (cmds : List BearCmd)
  | flows (out : KMap Flow) (back : KMap Flow)
  | time (gtc : DWord)
  | tail (head tail : DWord) (recs : List TelRec)
  | check (bchk : DWord) (mzeros : Nat)
  | fin
  /-- The payload of a record of another release. -/
  | other (bytes : List Byte)
deriving DecidableEq, Repr, Inhabited

/-- A context record (Table 19-3): its header's fields and its payload. -/
structure ImgRec where
  typ : BitVec 15
  mand : Bool
  version : Half
  /-- Payload bytes before padding. -/
  length : Word
  body : ImgBody
deriving DecidableEq, Repr, Inhabited

/-- How a partition stands in a swap or migration (R311, R313). -/
inductive PartMode where
  | active
  /-- Swapped out to shadow storage, or restorable from an image taken in whole. -/
  | swapped
  /-- Receiving frames and an image (R313, R314): the first number that its teams, groups and tasks take and the first beyond them, and
  the record types taken so far. -/
  | receiving (base top : Nat) (seen : List Nat)
deriving DecidableEq, Repr, Inhabited

/-- A partition (R307). -/
structure Part where
  cfg : PartCfg
  mode : PartMode
  ptroot : DWord
  htab : DWord
  seed : DWord
  minres : DWord
  eddl : DWord
  bchk : DWord
  kvfreq : DWord
  kvsalt : DWord
  kvdir : DWord
  bp : KMap DWord
  subDropped : Word
  subTaken : Word
  apbase : DWord
  telHead : DWord
  telTail : DWord
  tel : List TelRec
  /-- Flows to peers, by peer index. -/
  flows : KMap Flow
  /-- Flows from peers, by flow id. -/
  rflows : KMap Flow
  debug : Bool
  /-- Tiles cleared by `mzero`, counted for R244. -/
  mzeros : Nat
  /-- The dirty bitmap: dwords by index (R312). -/
  dirty : KMap DWord
  /-- Frames with lines dirty in L2 (R312). -/
  l2dirty : List Nat
  /-- Frames of the running pre-copy round still to send, and the round (R313). -/
  toSend : List Nat
  round : Nat
  migrating : Bool
  /-- Frames that the round before the running one named (R313). -/
  named : Nat
  /-- Number of the session, which selects its key; frames sealed or opened in it; failures of the frame being sent (R313). -/
  session : Nat
  frames : Nat
  fails : Nat
  /-- Records of the image written; at a destination that refused an image, the record that it reports to the source (R314). -/
  image : List ImgRec
  /-- The source's GTC at the halt, in a partition restored from an image (R315). -/
  srcGtc : Option DWord
deriving DecidableEq, Repr, Inhabited

/-- A ring of a Sett (R302). -/
structure Ring where
  part : Nat
  cfg : RingCfg
  tail : Word
  pub : Word
  head : Word
  rel : Word
  posted : List Word
  freed : List Word
  /-- Clocks of posts and frees, by slot number (R304). -/
  postClk : KMap Clock
  freeClk : KMap Clock
deriving DecidableEq, Repr, Inhabited

/-- A translation held by a TLB or a Sett cache (R121): page base and size, frame, U, X, W. -/
structure TlbEnt where
  part : Nat
  va : Nat
  size : Nat
  pa : Nat
  u : Bool
  x : Bool
  w : Bool
deriving DecidableEq, Repr, Inhabited

/-- A valid page-table entry that a write replaced: its address, its value, and the moment (R121). -/
structure OldPte where
  pa : Nat
  val : Nat
  at_ : Nat
deriving DecidableEq, Repr, Inhabited

/-- A completed invalidation: its partition, the address it covers or all of them, and the moment (R121, R401). -/
structure Purge where
  part : Nat
  va : Option Nat
  at_ : Nat
deriving DecidableEq, Repr, Inhabited

/-- A quote (R317). -/
structure Quote where
  part : Nat
  log : BitVec 512
  nonce : BitVec 512
  gtc : DWord
  body : List Byte
deriving DecidableEq, Repr, Inhabited

/-- Something decided outside the machine's own steps, in order: which group issues, or an event of Ecide, the host or a
peer (log 29). -/
inductive Act where
  | issue (gid : Nat)
  | ev (i : Instr)
  /-- `tlbi` on the management core's behalf (R52, R210): of the page at an address, or of every page. -/
  | tlbi (part : Nat) (va : Option DWord)
  /-- The debugger sets or clears a breakpoint register (Table 9-8). -/
  | breakpoint (part n : Nat) (value : DWord)
  /-- A host read of a register of the port: of a partition's function, or of physical function 0 (R309, R321). -/
  | registerRead (fn : Option Nat) (off width : Nat)
  /-- An uncorrectable error in a group's program counter or split records (Table 9-3, MACHINE_CHECK). -/
  | groupError (gid : Nat)
  /-- A record of a context image arrives at a receiving partition (R314). -/
  | record (part : Nat) (r : ImgRec)
deriving DecidableEq, Repr

/-- The issue in progress (R69): the group, its team and side, the address of the instruction's first word, its block, the
address after its last word, and whether that is the end of the block. -/
structure Cur where
  tm : Nat
  side : Side
  gid : Nat
  pc : DWord
  hdr : DWord
  len : Nat
  next : DWord
  last : Bool
deriving DecidableEq, Repr, Inhabited

/-- The state of the device. -/
structure State where
  power : Bool
  /-- Physical function 0 is visible (R321). -/
  up : Bool
  recovery : Bool
  gtc : DWord
  gphase : Nat
  cycle : Nat
  cap : Nat
  fuses : BootCfg
  /-- Logical cores whose place the spare of their row has taken (R11). -/
  spareUsed : List Nat
  identSpares : Nat
  mlog : BitVec 512
  /-- The Ecide image that runs is image B, and the two image slots (R316, R318). -/
  slotB : Bool
  imageA : List Byte
  imageB : List Byte
  /-- The new image of a handover in progress (R318). -/
  handover : Option (List Byte)
  quotes : List Quote
  lanes : KMap Nat
  pcieWidth : Nat
  channels : List (Nat × Nat)
  mclog : List TelRec
  /-- Corrected errors since boot, by 16 × source number + array (R130, Table 5-4). -/
  errs : KMap Nat
  dups : KMap Nat
  /-- The last value the host read through a register or the aperture. -/
  hostRead : List Byte
  /-- The last word that a peer's `nget` took from a window of this device. -/
  peerRead : Word
  mem : List Host.Cell
  /-- Words with an uncorrectable error not yet overwritten, by word key (R131). -/
  bad : List Nat
  /-- Words with one in a core's L1, and in its instruction cache: core and word key (R131). -/
  badL1 : List (Nat × Nat)
  badCode : List (Nat × Nat)
  /-- Accumulator tiles with one: team and tile (R131). -/
  badAcc : List (Nat × Nat)
  acc : KMap (List Acc)
  rel : KMap RelTag
  tlb : List TlbEnt
  /-- Page-table entries replaced, the oldest first, and the invalidations completed (R121). -/
  oldPtes : List OldPte
  purges : List Purge
  /-- Last check of a KV page: frame and CRC-32C found good (R263). -/
  checked : List Nat
  parts : KMap Part
  tasks : KMap Task
  cores : KMap Core
  clusters : KMap Cluster
  teams : KMap Team
  threads : KMap Thread
  pairs : KMap Pair
  groups : KMap Group
  splits : KMap Split
  copies : List Copy
  kvqs : List Kvq
  sends : List Send
  /-- Rows that a partition may still start on a port in this round of the round robin, by 32 × port + partition (R308). -/
  credits : KMap Nat
  /-- The last frame sealed for a destination: its ciphertext and tag (R313). -/
  sealed : List Byte
  rings : KMap Ring
  /-- Saved contexts by CTX address: the team. -/
  ctxs : KMap Nat
  /-- The next number to hand out. -/
  nextId : Nat
  /-- The model's own: the counter the free values are applied to. -/
  tick : Nat
  /-- The model's own: acts chosen from outside, in order. -/
  agenda : List Act
  /-- The model's own: groups chosen to issue in this cycle, in the order of R89. -/
  due : List Nat
  /-- The model's own: the steps of one GTC value in event order (R16): the value, the source number reached, the cycles still to
  come as core and cycle number, and the core whose cycle runs. -/
  turnGtc : DWord
  turn : Nat
  plan : List (Nat × Nat)
  cycleOf : Option Nat
  cur : Option Cur
deriving DecidableEq, Repr

/-- The fuses before POWER_GOOD has read them (log 2). -/
def noFuses : BootCfg := { spareCol := [], imageKey := [], idPublic := [], idPrivate := [], imageA := [], imageB := [] }

/-- The machine when reset is released: GTC 0 (R14), nothing loaded, no partition, no team, memory with nothing listed. The
start-up of R321 follows as POWER_GOOD. -/
def State.reset : State :=
  { power := true, up := false, recovery := false, gtc := 0, gphase := 0, cycle := 0, cap := 0,
    fuses := noFuses, spareUsed := [], identSpares := 0, mlog := 0, slotB := false, imageA := [], imageB := [], handover := none,
    quotes := [], lanes := [], pcieWidth := 16,
    channels := [], mclog := [], errs := [], dups := [], hostRead := [], peerRead := 0, mem := [], bad := [],
    badL1 := [], badCode := [], badAcc := [], acc := [], rel := [], tlb := [], oldPtes := [], purges := [], checked := [],
    parts := [], tasks := [], cores := [], clusters := [], teams := [], threads := [], pairs := [], groups := [],
    splits := [], copies := [], kvqs := [], sends := [], credits := [], sealed := [], rings := [], ctxs := [], nextId := 0,
    tick := 0, agenda := [], due := [], turnGtc := 0, turn := 0, plan := [], cycleOf := none, cur := none }

end Sys2Proof.Machine
end

