-- ==== Sys2Proof/Machine/Table.lean ====
section
/-! DEFINITION. Operations on the sparse tables of the state, and small helpers on numbers and lists of bytes that every
other file uses (R2: little-endian). -/

namespace Sys2Proof.Machine

/-- The entry at a key, if any. -/
def kget {α : Type} (m : KMap α) (k : Nat) : Option α :=
  match m with
  | [] => none
  | (k', v) :: t => if k' = k then some v else kget t k

/-- The entry at a key, or the default that an unlisted key stands for. -/
def kgetD {α : Type} (m : KMap α) (k : Nat) (d : α) : α := (kget m k).getD d

/-- Sets the entry at a key, keeping the list ascending. -/
def kput {α : Type} (m : KMap α) (k : Nat) (v : α) : KMap α :=
  match m with
  | [] => [(k, v)]
  | (k', v') :: t =>
    if k' = k then (k, v) :: t
    else if k < k' then (k, v) :: (k', v') :: t
    else (k', v') :: kput t k v

/-- Removes every entry at a key. -/
def kdel {α : Type} (m : KMap α) (k : Nat) : KMap α := m.filter (fun e => e.1 != k)

/-- Changes the entry at a key, if there is one. -/
def kmod {α : Type} (m : KMap α) (k : Nat) (f : α → α) : KMap α :=
  match kget m k with
  | some v => kput m k (f v)
  | none => m

/-- Sets an entry in canonical form: an entry equal to the default is not listed. -/
def kputD {α : Type} [DecidableEq α] (m : KMap α) (k : Nat) (d v : α) : KMap α :=
  if v = d then kdel m k else kput m k v

/-- The keys listed. -/
def kkeys {α : Type} (m : KMap α) : List Nat := m.map (·.1)

/-- A number as n bytes, least significant first (R2). -/
def leBytes (n : Nat) (w : Nat) : List Byte :=
  match n with
  | 0 => []
  | n + 1 => BitVec.ofNat 8 w :: leBytes n (w / 256)

/-- The number that bytes hold, least significant first (R2). -/
def leNat (bs : List Byte) : Nat :=
  match bs with
  | [] => 0
  | b :: t => b.toNat + 256 * leNat t

/-- The bytes of a list of words, each little-endian. -/
def wordBytes (ws : List Word) : List Byte := ws.flatMap (fun w => leBytes 4 w.toNat)

/-- Bytes in words of four. -/
def bytesWords (n : Nat) (bs : List Byte) : List Word :=
  match n with
  | 0 => []
  | n + 1 => BitVec.ofNat 32 (leNat (bs.take 4)) :: bytesWords n (bs.drop 4)

/-- Bits [lo + n − 1 : lo] of a number. -/
def bitsOf (w lo n : Nat) : Nat := (w / 2 ^ lo) % 2 ^ n

/-- Sign extension from a narrower word. -/
def sext {w : Nat} (v : Nat) (x : BitVec w) : BitVec v := x.signExtend v

/-- Insertion sort by a Bool order; earlier elements first where neither is before the other. -/
def insertBy {α : Type} (lt : α → α → Bool) (x : α) (l : List α) : List α :=
  match l with
  | [] => [x]
  | y :: t => if lt y x then y :: insertBy lt x t else x :: y :: t

/-- The list in ascending order. -/
def sortBy {α : Type} (lt : α → α → Bool) (l : List α) : List α :=
  match l with
  | [] => []
  | x :: t => insertBy lt x (sortBy lt t)

/-- Numbers in ascending order without repeats. -/
def insertNat (x : Nat) (l : List Nat) : List Nat :=
  match l with
  | [] => [x]
  | y :: t => if x = y then y :: t else if x < y then x :: y :: t else y :: insertNat x t

/-- The positions of the set bits, from bit i on, of the first n bits. -/
def bitsList {w : Nat} (b : BitVec w) : List Nat := (List.range w).filter (fun i => b.getLsbD i)

/-- Sets or clears one bit. -/
def setBit {w : Nat} (b : BitVec w) (i : Nat) (v : Bool) : BitVec w :=
  if v then b ||| (1#w <<< i) else b &&& ~~~(1#w <<< i)

/-- Ceiling of a quotient. -/
def ceilDiv (a b : Nat) : Nat := (a + b - 1) / b

/-- Joins two vector clocks: what either knows. -/
def clkJoin (a b : Clock) : Clock :=
  b.foldl (fun c e => kput c e.1 (max (kgetD c e.1 0) e.2)) a

/-- Every element of a list that passes, replaced; the first that matches only. -/
def modFirst {α : Type} (p : α → Bool) (f : α → α) (l : List α) : List α :=
  match l with
  | [] => []
  | x :: t => if p x then f x :: t else x :: modFirst p f t

/-- What a fault with DEFER pays off when it is delivered: a request's deferred cause, by number, or a stream's, by queue
(R261, R268, R349, R350). -/
inductive Owed where
  | none
  | request (id : Nat)
  | stream (q : Nat)
deriving DecidableEq, Repr

/-- Outcome of an attempt of an instruction for one thread: done, parked on a condition, or a cause with its address. -/
inductive Try (α : Type) where
  | ok (v : α)
  | park (c : Cond)
  | trap (c : Cause) (faddr : DWord)
  /-- RACE carries the earlier access (R143). -/
  | raced (faddr : DWord) (e : Acc) (write : Bool)
  /-- A cause delivered late, with DEFER; of a RACE the earlier access and whether the later one wrote. -/
  | late (c : Cause) (faddr : DWord) (what : Owed) (race : Option (Acc × Bool))
deriving Repr

/-- Goes on with the value of an attempt. -/
def tryThen {α β : Type} (t : Try α) (f : α → Try β) : Try β :=
  match t with
  | .ok v => f v
  | .park c => .park c
  | .trap c a => .trap c a
  | .raced a e w => .raced a e w
  | .late c a x e => .late c a x e

end Sys2Proof.Machine
end

