-- ==== Sys2Proof/Machine/Cipher.lean ====
section
/-! DEFINITION. AES-256-GCM (Table 0-3), with which the frames of a migration are sealed (R313). -/

namespace Sys2Proof.Machine

/-- Multiplication by x in the field of AES. -/
def aesX (a : Byte) : Byte := (a <<< 1) ^^^ (if a.getLsbD 7 then 0x1B else 0)

/-- Multiplication in the field of AES: the first n bits of a. -/
def aesMul (n : Nat) (a b : Byte) : Byte :=
  match n with
  | 0 => 0
  | n + 1 => (if a.getLsbD 0 then b else 0) ^^^ aesMul n (a >>> 1) (aesX b)

/-- A power in the field of AES. -/
def aesPow (n : Nat) (a : Byte) : Byte :=
  match n with
  | 0 => 1
  | n + 1 => aesMul 8 a (aesPow n a)

/-- The substitution of a byte: the inverse, then the affine map. -/
def aesSub (a : Byte) : Byte :=
  let b := aesPow 254 a
  b ^^^ b.rotateLeft 1 ^^^ b.rotateLeft 2 ^^^ b.rotateLeft 3 ^^^ b.rotateLeft 4 ^^^ 0x63

/-- Bytewise exclusive or of two lists. -/
def xorBytes (a b : List Byte) : List Byte := (a.zip b).map (fun e => e.1 ^^^ e.2)

/-- The key schedule: n more words in front of those made so far, the newest first; the next is word i. -/
def aesExtend (n i : Nat) (r : List (List Byte)) : List (List Byte) :=
  match n with
  | 0 => r
  | n + 1 =>
    let t := r.headD []
    let u := if i % 8 = 0 then xorBytes ((t.tail ++ t.take 1).map aesSub) [1#8 <<< (i / 8 - 1), 0, 0, 0]
      else if i % 8 = 4 then t.map aesSub else t
    aesExtend n (i + 1) (xorBytes (r.getD 7 []) u :: r)

/-- The sixty words of the schedule of a 256-bit key. -/
def aesKeys (key : BitVec 256) : List (List Byte) :=
  let k := beBytes 32 key.toNat
  (aesExtend 52 8 ((List.range 8).map (fun i => (k.drop (4 * i)).take 4)).reverse).reverse

/-- The round key of a round. -/
def aesRoundKey (ks : List (List Byte)) (r : Nat) : List Byte := ((ks.drop (4 * r)).take 4).flatten

/-- The shift of the rows of a state of sixteen bytes, column by column. -/
def aesShift (s : List Byte) : List Byte := (List.range 16).map (fun i => s.getD ((i + 4 * (i % 4)) % 16) 0)

/-- The mixing of one column. -/
def aesMixCol (c : List Byte) : List Byte :=
  (List.range 4).map (fun i =>
    let g := fun j => c.getD ((i + j) % 4) 0
    aesX (g 0) ^^^ aesX (g 1) ^^^ g 1 ^^^ g 2 ^^^ g 3)

/-- The mixing of the columns. -/
def aesMix (s : List Byte) : List Byte := (List.range 4).flatMap (fun i => aesMixCol ((s.drop (4 * i)).take 4))

/-- The encryption of a block of sixteen bytes: fourteen rounds. -/
def aesBlock (ks : List (List Byte)) (b : List Byte) : List Byte :=
  (List.range 14).foldl (fun s r =>
    let t := aesShift (s.map aesSub)
    xorBytes (if r = 13 then t else aesMix t) (aesRoundKey ks (r + 1))) (xorBytes b (aesRoundKey ks 0))

/-- The product of GHASH: n bits of x from bit n − 1 down, with v for the next one. -/
def ghashMul (n : Nat) (x v z : BitVec 128) : BitVec 128 :=
  match n with
  | 0 => z
  | n + 1 =>
    ghashMul n x ((v >>> 1) ^^^ (if v.getLsbD 0 then 0xE1000000000000000000000000000000#128 else 0))
      (if x.getLsbD n then z ^^^ v else z)

/-- Sixteen-byte blocks of a list, the last padded with zeros. -/
def blocks16 (bs : List Byte) : List (List Byte) :=
  (List.range (ceilDiv bs.length 16)).map (fun i => let b := (bs.drop (16 * i)).take 16; b ++ List.replicate (16 - b.length) 0)

/-- The counter block of a 96-bit nonce. -/
def gcmCounter (nonce : BitVec 96) (i : Nat) : List Byte := beBytes 12 nonce.toNat ++ beBytes 4 i

/-- The key stream applied to a list of bytes. -/
def gcmStream (ks : List (List Byte)) (nonce : BitVec 96) (bs : List Byte) : List Byte :=
  ((blocks16 bs).zipIdx.flatMap (fun e => xorBytes e.1 (aesBlock ks (gcmCounter nonce (e.2 + 2))))).take bs.length

/-- The tag of a ciphertext, with no further data. -/
def gcmTag (ks : List (List Byte)) (nonce : BitVec 96) (c : List Byte) : List Byte :=
  let h := BitVec.ofNat 128 (beNat (aesBlock ks (List.replicate 16 0)))
  let y := (blocks16 c ++ [beBytes 8 0 ++ beBytes 8 (8 * c.length)]).foldl
    (fun y b => ghashMul 128 (y ^^^ BitVec.ofNat 128 (beNat b)) h 0) 0
  xorBytes (beBytes 16 y.toNat) (aesBlock ks (gcmCounter nonce 1))

/-- A frame sealed: its ciphertext, then the tag. -/
def sealBytes (key : BitVec 256) (nonce : BitVec 96) (bs : List Byte) : List Byte :=
  let ks := aesKeys key
  let c := gcmStream ks nonce bs
  c ++ gcmTag ks nonce c

/-- The frame that sealed bytes hold; none where the tag check fails. -/
def openBytes (key : BitVec 256) (nonce : BitVec 96) (bs : List Byte) : Option (List Byte) :=
  let ks := aesKeys key
  let c := bs.take (bs.length - 16)
  if bs.drop (bs.length - 16) = gcmTag ks nonce c then some (gcmStream ks nonce c) else none

end Sys2Proof.Machine
end

