-- ==== Sys2Proof/WellFormed.lean ====
section
/-! DEFINITION. Which instructions are well formed: the prefixes an instruction accepts (Table 2-8b, R36, R37, R136 and the
reference entries), and where an IMX value may stand (R35, R43). -/

namespace Sys2Proof

/-- What an entry accepts in VX: the guard and, after it, zero, C and rounding. -/
inductive VxKind where
  | no
  | g
  | gz
  | gzc
  | gzr
  | gzrc
  | gr
deriving DecidableEq, Repr

/-- What an entry accepts in MXA. -/
inductive MxaKind where
  | none
  | ld
  | ldqk16
  | st
  | atom
  | fence
  | plain
  | fopen
  | nget
  | nsend
  | kget
deriving DecidableEq, Repr

/-- The VX fields that an entry does not accept are 0 (R37, R74 and the entries). -/
def Vx.ok (k : VxKind) (v : Vx) : Bool :=
  match k with
  | .no => false
  | .g => !v.zero && v.rc == 0 && v.c == 0
  | .gz => v.rc == 0 && v.c == 0
  | .gzc => v.rc == 0
  | .gzr => v.c == 0
  | .gzrc => true
  | .gr => !v.zero && v.c == 0

/-- The order and the mask agree, and the order is assigned (R34). -/
def Mxa.agrees (m : Mxa) : Bool :=
  decide (m.order.toNat ≤ 4) && (m.order == 0) == (m.obs == 0)

/-- The orders an entry accepts (Table 6-4, R276, R279, R281, R300, R346). -/
def Mxa.ok (k : MxaKind) (m : Mxa) : Bool :=
  m.agrees && (!m.rope || k == .ldqk16) &&
  match k with
  | .none => false
  | .ld | .ldqk16 | .kget => m.order == 0 || m.order == 1 || m.order == 4
  | .st => m.order == 0 || m.order == 2 || m.order == 4
  | .atom => true
  | .fence => m.order != 0
  | .plain => m.order == 0
  | .fopen => m.order == 0 || (m.order == 1 && m.obs == 0x10#5)
  | .nget => (m.order == 0 && m.hint == 0) || (m.order == 1 && m.obs.getLsbD 1)
  | .nsend => m.order == 0 || (m.order == 2 && m.obs.getLsbD 1)

/-- The prefixes an entry accepts. -/
def Pfx.ok (k : VxKind) (mk : MxaKind) (p : Pfx) : Bool :=
  (match p.vx with | .none => true | .some v => v.ok k) &&
  (match p.mxa with | .none => true | .some m => m.ok mk)

/-- Not the IMX value: code 0xFF never stands in A (R43). -/
def Src.noImx : Src → Bool
  | .imx _ => false
  | _ => true

/-- An IMX value for a packed pair has bits 23 to 16 zero (R33). -/
def Src.pairImx : Src → Bool
  | .imx v => v.extractLsb' 16 8 == 0
  | _ => true

/-- Well formed: every field stands at a value that the encoding of the constructor can hold. Events are well formed. -/
def Instr.wf : Instr → Bool
  | .br _ => true
  | .brp _ _ => true
  | .brpNot _ _ => true
  | .call _ => true
  | .ret => true
  | .brx a => a.noImx
  | .exit => true
  | .nop => true
  | .yield => true
  | .brk => true
  | .trap _ => true
  | .rfhRetry p => p.ok .g .none
  | .rfhSkip p => p.ok .g .none
  | .rfhEnd p => p.ok .g .none
  | .enrol p _ => p.ok .g .none
  | .join p _ => p.ok .g .none
  | .strike p _ => p.ok .g .none
  | .reform p => p.ok .g .none
  | .jmask p _ _ _ => p.ok .gz .none
  | .jmaskArr p _ _ _ => p.ok .gz .none
  | .plogAnd p _ _ _ => p.ok .gz .none
  | .plogOr p _ _ _ => p.ok .gz .none
  | .plogXor p _ _ _ => p.ok .gz .none
  | .plogAndn p _ _ _ => p.ok .gz .none
  | .pmov p _ _ => p.ok .gz .none
  | .pset p _ _ => p.ok .gz .none
  | .ballot p _ _ => p.ok .g .none
  | .cmpEq p _ a _ => p.ok .gz .none && a.noImx
  | .cmpNe p _ a _ => p.ok .gz .none && a.noImx
  | .cmpLt p _ a _ => p.ok .gz .none && a.noImx
  | .cmpLe p _ a _ => p.ok .gz .none && a.noImx
  | .cmpGt p _ a _ => p.ok .gz .none && a.noImx
  | .cmpGe p _ a _ => p.ok .gz .none && a.noImx
  | .cmpLtn p _ a _ => p.ok .gz .none && a.noImx
  | .cmpGen p _ a _ => p.ok .gz .none && a.noImx
  | .fcmpF32Eq p _ a _ => p.ok .gz .none && a.noImx
  | .fcmpF32Ne p _ a _ => p.ok .gz .none && a.noImx
  | .fcmpF32Lt p _ a _ => p.ok .gz .none && a.noImx
  | .fcmpF32Le p _ a _ => p.ok .gz .none && a.noImx
  | .fcmpF32Gt p _ a _ => p.ok .gz .none && a.noImx
  | .fcmpF32Ge p _ a _ => p.ok .gz .none && a.noImx
  | .fcmpF32Un p _ a _ => p.ok .gz .none && a.noImx
  | .fcmpF32Or p _ a _ => p.ok .gz .none && a.noImx
  | .fcmpF64Eq p _ a _ => p.ok .gz .none && a.noImx
  | .fcmpF64Ne p _ a _ => p.ok .gz .none && a.noImx
  | .fcmpF64Lt p _ a _ => p.ok .gz .none && a.noImx
  | .fcmpF64Le p _ a _ => p.ok .gz .none && a.noImx
  | .fcmpF64Gt p _ a _ => p.ok .gz .none && a.noImx
  | .fcmpF64Ge p _ a _ => p.ok .gz .none && a.noImx
  | .fcmpF64Un p _ a _ => p.ok .gz .none && a.noImx
  | .fcmpF64Or p _ a _ => p.ok .gz .none && a.noImx
  | .add p _ a _ => p.ok .gz .none && a.noImx
  | .sub p _ a _ => p.ok .gz .none && a.noImx
  | .mul p _ a _ => p.ok .gz .none && a.noImx
  | .mulh p _ a _ => p.ok .gz .none && a.noImx
  | .mulhN p _ a _ => p.ok .gz .none && a.noImx
  | .min p _ a _ => p.ok .gz .none && a.noImx
  | .max p _ a _ => p.ok .gz .none && a.noImx
  | .minN p _ a _ => p.ok .gz .none && a.noImx
  | .div p _ a _ => p.ok .gz .none && a.noImx
  | .divN p _ a _ => p.ok .gz .none && a.noImx
  | .rem p _ a _ => p.ok .gz .none && a.noImx
  | .remN p _ a _ => p.ok .gz .none && a.noImx
  | .maxN p _ a _ => p.ok .gz .none && a.noImx
  | .abs p _ a => p.ok .gz .none && a.noImx
  | .neg p _ a => p.ok .gz .none && a.noImx
  | .mad p _ a _ => p.ok .gzc .none && a.noImx
  | .and p _ a _ => p.ok .gz .none && a.noImx
  | .or p _ a _ => p.ok .gz .none && a.noImx
  | .xor p _ a _ => p.ok .gz .none && a.noImx
  | .andn p _ a _ => p.ok .gz .none && a.noImx
  | .not p _ a => p.ok .gz .none && a.noImx
  | .sel p _ a _ => p.ok .gzc .none && a.noImx
  | .mov p _ a => p.ok .gz .none && a.noImx
  | .smov p _ a => p.ok .g .none && a.noImx
  | .smovHi p _ a => p.ok .g .none && a.noImx
  | .shl p _ a _ => p.ok .gz .none && a.noImx
  | .shr p _ a _ => p.ok .gz .none && a.noImx
  | .sra p _ a _ => p.ok .gz .none && a.noImx
  | .popc p _ a => p.ok .gz .none && a.noImx
  | .clz p _ a => p.ok .gz .none && a.noImx
  | .brev p _ a => p.ok .gz .none && a.noImx
  | .bfe p _ a _ => p.ok .gz .none && a.noImx
  | .bfeN p _ a _ => p.ok .gz .none && a.noImx
  | .bfi p _ a _ => p.ok .gz .none && a.noImx
  | .perm p _ a _ => p.ok .gzc .none && a.noImx
  | .addI64 p _ a _ => p.ok .gz .none && a.noImx
  | .subI64 p _ a _ => p.ok .gz .none && a.noImx
  | .mulI64 p _ a _ => p.ok .gz .none && a.noImx
  | .shlI64 p _ a _ => p.ok .gz .none && a.noImx
  | .shrI64 p _ a _ => p.ok .gz .none && a.noImx
  | .movI64 p _ a => p.ok .gz .none && a.noImx
  | .fadd p _ a _ => p.ok .gzr .none && a.noImx
  | .fsub p _ a _ => p.ok .gzr .none && a.noImx
  | .fmul p _ a _ => p.ok .gzr .none && a.noImx
  | .ffma p _ a _ => p.ok .gzrc .none && a.noImx
  | .fmin p _ a _ => p.ok .gzr .none && a.noImx
  | .fmax p _ a _ => p.ok .gzr .none && a.noImx
  | .fabs p _ a => p.ok .gzr .none && a.noImx
  | .fneg p _ a => p.ok .gzr .none && a.noImx
  | .faddF16x2 p _ a b => p.ok .gzr .none && a.noImx && b.pairImx
  | .fsubF16x2 p _ a b => p.ok .gzr .none && a.noImx && b.pairImx
  | .fmulF16x2 p _ a b => p.ok .gzr .none && a.noImx && b.pairImx
  | .ffmaF16x2 p _ a b => p.ok .gzrc .none && a.noImx && b.pairImx
  | .fminF16x2 p _ a b => p.ok .gzr .none && a.noImx && b.pairImx
  | .fmaxF16x2 p _ a b => p.ok .gzr .none && a.noImx && b.pairImx
  | .fabsF16x2 p _ a => p.ok .gzr .none && a.noImx
  | .fnegF16x2 p _ a => p.ok .gzr .none && a.noImx
  | .faddBf16x2 p _ a b => p.ok .gzr .none && a.noImx && b.pairImx
  | .fsubBf16x2 p _ a b => p.ok .gzr .none && a.noImx && b.pairImx
  | .fmulBf16x2 p _ a b => p.ok .gzr .none && a.noImx && b.pairImx
  | .ffmaBf16x2 p _ a b => p.ok .gzrc .none && a.noImx && b.pairImx
  | .fminBf16x2 p _ a b => p.ok .gzr .none && a.noImx && b.pairImx
  | .fmaxBf16x2 p _ a b => p.ok .gzr .none && a.noImx && b.pairImx
  | .fabsBf16x2 p _ a => p.ok .gzr .none && a.noImx
  | .fnegBf16x2 p _ a => p.ok .gzr .none && a.noImx
  | .faddF64 p _ a _ => p.ok .gzr .none && a.noImx
  | .fsubF64 p _ a _ => p.ok .gzr .none && a.noImx
  | .fmulF64 p _ a _ => p.ok .gzr .none && a.noImx
  | .ffmaF64 p _ a _ => p.ok .gzrc .none && a.noImx
  | .fminF64 p _ a _ => p.ok .gzr .none && a.noImx
  | .fmaxF64 p _ a _ => p.ok .gzr .none && a.noImx
  | .fabsF64 p _ a => p.ok .gzr .none && a.noImx
  | .fnegF64 p _ a => p.ok .gzr .none && a.noImx
  | .frcp p _ a => p.ok .gzr .none && a.noImx
  | .frsq p _ a => p.ok .gzr .none && a.noImx
  | .fsqrt p _ a => p.ok .gzr .none && a.noImx
  | .fexp2 p _ a => p.ok .gzr .none && a.noImx
  | .flog2 p _ a => p.ok .gzr .none && a.noImx
  | .fdiv p _ a _ => p.ok .gzr .none && a.noImx
  | .frnd p _ a => p.ok .gzr .none && a.noImx
  | .fclass p _ a _ => p.ok .gz .none && a.noImx
  | .fflag p _ _ => p.ok .gz .none
  | .fscl p _ a _ => p.ok .gzr .none && a.noImx
  | .fdot2 p _ a _ => p.ok .gzrc .none && a.noImx
  | .fdot4 p _ a _ => p.ok .gzrc .none && a.noImx
  | .fdot8 p _ a _ => p.ok .gzrc .none && a.noImx
  | .cvt p _ _ a _ => p.ok .gzc .none && a.noImx
  | .cvtnPk p _ a _ => p.ok .gzrc .none && a.noImx
  | .cvtnUp p _ a _ => p.ok .gzrc .none && a.noImx
  | .cvtnPk6 p _ a _ => p.ok .gzrc .none && a.noImx
  | .cvtnUp6 p _ a _ => p.ok .gzrc .none && a.noImx
  | .mxscale p _ a _ => p.ok .gzc .none && a.noImx
  | .shflI p _ a _ => p.ok .gz .none && a.noImx
  | .shflX p _ a _ => p.ok .gz .none && a.noImx
  | .shflD p _ a _ => p.ok .gz .none && a.noImx
  | .bcast p _ a _ => p.ok .gz .none && a.noImx
  | .redAdd p _ a _ => p.ok .gz .none && a.noImx
  | .redMin p _ a _ => p.ok .gz .none && a.noImx
  | .redMax p _ a _ => p.ok .gz .none && a.noImx
  | .scanAdd p _ a _ _ => p.ok .gz .none && a.noImx
  | .scanMin p _ a _ _ => p.ok .gz .none && a.noImx
  | .scanMax p _ a _ _ => p.ok .gz .none && a.noImx
  | .tatomWr p _ _ _ => p.ok .gz .none
  | .tatomAdd p _ _ _ => p.ok .gz .none
  | .tatomMax p _ _ _ => p.ok .gz .none
  | .tatomCas p _ _ _ => p.ok .gzc .none
  | .sdq p _ a => p.ok .g .none && a.noImx
  | .sendx p _ a => p.ok .g .none && a.noImx
  | .qstatE p _ _ => p.ok .gz .none
  | .qflushE p _ => p.ok .g .none
  | .qend p _ _ => p.ok .gz .none
  | .feed p _ a => p.ok .g .none && a.noImx
  | .feedEnd p _ a => p.ok .g .none && a.noImx
  | .recvx p _ _ => p.ok .gz .none
  | .qstatA p _ _ => p.ok .gz .none
  | .qflushA p _ => p.ok .g .none
  | .ldqB8 p _ a _ => p.ok .g .ld && a.noImx
  | .ldqB16 p _ a _ => p.ok .g .ld && a.noImx
  | .ldqB32 p _ a _ => p.ok .g .ld && a.noImx
  | .ldqB64 p _ a _ => p.ok .g .ld && a.noImx
  | .ldqK16 p _ a _ => p.ok .g .ldqk16 && a.noImx
  | .ldqLine p _ a _ => p.ok .g .ld && a.noImx
  | .ldI8 p _ a _ => p.ok .gz .ld && a.noImx
  | .ldN8 p _ a _ => p.ok .gz .ld && a.noImx
  | .ldI16 p _ a _ => p.ok .gz .ld && a.noImx
  | .ldN16 p _ a _ => p.ok .gz .ld && a.noImx
  | .ldI32 p _ a _ => p.ok .gz .ld && a.noImx
  | .ldN32 p _ a _ => p.ok .gz .ld && a.noImx
  | .ldB64 p _ a _ => p.ok .gz .ld && a.noImx
  | .stB8 p _ a _ => p.ok .g .st && a.noImx
  | .stB16 p _ a _ => p.ok .g .st && a.noImx
  | .stB32 p _ a _ => p.ok .g .st && a.noImx
  | .stB64 p _ a _ => p.ok .g .st && a.noImx
  | .staB8 p _ a _ => p.ok .g .st && a.noImx
  | .staB16 p _ a _ => p.ok .g .st && a.noImx
  | .staB32 p _ a _ => p.ok .g .st && a.noImx
  | .staB64 p _ a _ => p.ok .g .st && a.noImx
  | .atomAdd p _ _ a _ => p.ok .gz .atom && a.noImx
  | .atomMin p _ _ a _ => p.ok .gz .atom && a.noImx
  | .atomMinN p _ _ a _ => p.ok .gz .atom && a.noImx
  | .atomMax p _ _ a _ => p.ok .gz .atom && a.noImx
  | .atomMaxN p _ _ a _ => p.ok .gz .atom && a.noImx
  | .atomAnd p _ _ a _ => p.ok .gz .atom && a.noImx
  | .atomOr p _ _ a _ => p.ok .gz .atom && a.noImx
  | .atomXor p _ _ a _ => p.ok .gz .atom && a.noImx
  | .atomXchg p _ _ a _ => p.ok .gz .atom && a.noImx
  | .cas p _ _ a _ => p.ok .gz .atom && a.noImx
  | .credAddI32 p _ a _ => p.ok .g .atom && a.noImx
  | .credAddF32 p _ a _ => p.ok .g .atom && a.noImx
  | .credMinI32 p _ a _ => p.ok .g .atom && a.noImx
  | .credMaxI32 p _ a _ => p.ok .g .atom && a.noImx
  | .credOrB32 p _ a _ => p.ok .g .atom && a.noImx
  | .credAddI64 p _ a _ => p.ok .g .atom && a.noImx
  | .credMaxF32 p _ a _ => p.ok .g .atom && a.noImx
  | .fence p => p.ok .g .fence
  | .pref p a _ => p.ok .g .ld && a.noImx
  | .tgive p _ => p.ok .g .none
  | .tclaim p _ => p.ok .g .none
  | .tchk p _ _ => p.ok .gz .none
  | .fopen p _ a _ => p.ok .g .fopen && a.noImx
  | .fadv p _ _ _ => p.ok .g .none
  | .fend p _ => p.ok .g .none
  | .fclose p _ => p.ok .g .none
  | .kins p _ a _ => p.ok .g .atom && a.noImx
  | .kget p _ a _ => p.ok .g .kget && a.noImx
  | .ringClaim p _ _ => p.ok .g .atom
  | .ringPost p a _ => p.ok .g .atom && a.noImx
  | .ringTake p _ _ => p.ok .g .atom
  | .ringFree p a _ => p.ok .g .atom && a.noImx
  | .kick p _ a _ => p.ok .g .plain && a.noImx
  | .mbinit p _ a _ => p.ok .g .plain && a.noImx
  | .mbexp p _ a _ => p.ok .g .plain && a.noImx
  | .mbarr p a _ => p.ok .g .plain && a.noImx
  | .mbwait p _ a _ => p.ok .g .plain && a.noImx
  | .xform p _ a _ => p.ok .g .plain && a.noImx
  | .arrive p _ _ => p.ok .g .none
  | .arwait p _ _ => p.ok .g .none
  | .bwait p _ => p.ok .g .none
  | .ngetB32 p _ a _ => p.ok .g .nget && a.noImx
  | .nsend p a _ => p.ok .g .nsend && a.noImx
  | .nfence p => p.ok .g .none
  | .kvlk p _ a => p.ok .gz .atom && a.noImx
  | .kvins p _ a _ => p.ok .gz .atom && a.noImx
  | .kvdel p _ a => p.ok .gz .atom && a.noImx
  | .kvref p _ a _ => p.ok .gz .atom && a.noImx
  | .kvpos p _ a _ => p.ok .gz .atom && a.noImx
  | .kvq p _ a _ => p.ok .gz .plain && a.noImx
  | .mcv p _ a => p.ok .g .none && a.noImx
  | .mma p m => p.ok .g .none && !m.stage
  | .mmaMinplus p _ => p.ok .g .none
  | .mmaMaxtimes p _ => p.ok .g .none
  | .mmaOrand p _ => p.ok .g .none
  | .mmaStage p m => p.ok .g .none && m.stage
  | .mzero p _ => p.ok .g .none
  | .mrdF32 p _ _ _ _ => p.ok .gzrc .none
  | .mrdSt p _ _ _ => p.ok .gzrc .none
  | .mwrF32 p _ _ _ _ => p.ok .g .none
  | .mwrSt p _ _ _ => p.ok .g .none
  | .mcont p a => p.ok .g .none && a.noImx
  | .mscl p _ _ _ => p.ok .gr .none
  | .smx p _ a _ => p.ok .gr .none && a.noImx
  | .smrg p _ _ => p.ok .g .none
  | .smfin p _ => p.ok .g .none
  | .tenq p a => p.ok .g .none && a.noImx
  | .vabort p _ a => p.ok .g .none && a.noImx
  | .tstamp p _ => p.ok .gz .none
  | .rdsr p _ _ => p.ok .gz .none
  | .wrsr p _ a => p.ok .g .none && a.noImx
  | .tlbi p a => p.ok .g .none && a.noImx
  | .tlbiAll p => p.ok .g .none
  | .mcallTelemetry p _ _ => p.ok .gz .none
  | .mcallLocate p _ => p.ok .gz .none
  | .mcallPeer p _ _ => p.ok .gz .none
  | .reconvergenceTimeout _ _ => true
  | .binAgeDraw _ _ => true
  | .yieldExpiry _ _ => true
  | .taskEnded _ => true
  | .drain _ _ => true
  | .merge _ _ => true
  | .ldqFill _ _ _ => true
  | .translationComplete _ _ => true
  | .pendingFaultDelivery _ _ => true
  | .queueDeadlock _ _ => true
  | .streamElement _ _ _ => true
  | .mmaComplete _ => true
  | .bearCommandComplete _ => true
  | .bearFault _ _ => true
  | .copyRow _ => true
  | .settPairPass _ _ => true
  | .returnMerge _ => true
  | .kvqComplete _ => true
  | .kvqFail _ => true
  | .nsendRow _ => true
  | .rowAck _ => true
  | .remoteRowArrival _ => true
  | .remoteTimeout _ => true
  | .remoteRead _ _ _ => true
  | .ngetResponse _ _ _ _ => true
  | .mcallAnswer _ _ => true
  | .expertStarved _ _ => true
  | .breakpointMatch _ _ => true
  | .resume _ => true
  | .stepGroup _ _ => true
  | .submit _ _ => true
  | .registerWrite _ _ _ _ => true
  | .hostApertureWrite _ _ _ => true
  | .hostApertureRead _ _ _ => true
  | .commit _ => true
  | .successorDecrement _ => true
  | .bindRecord _ _ _ => true
  | .teamStart _ => true
  | .eviction _ _ => true
  | .groupSave _ _ => true
  | .thermalMigration _ => true
  | .lentTileDrain _ => true
  | .l2WriteBack _ _ => true
  | .scrubError _ _ => true
  | .dirtyHarvest _ _ => true
  | .swapOut _ => true
  | .swapIn _ => true
  | .migrationRound _ => true
  | .precopyFrame _ _ _ _ => true
  | .partitionHeader _ => true
  | .teamContext _ _ => true
  | .taskRecord _ _ => true
  | .bearContinuation _ _ => true
  | .lynxFlows _ => true
  | .timeRecord _ => true
  | .telemetryRingTail _ => true
  | .bearCheckStatistics _ => true
  | .endOfImage _ => true
  | .unknownRecord _ _ => true
  | .quote _ _ => true
  | .ecideHandover _ _ => true
  | .partitionCreate _ _ => true
  | .partitionResize _ _ _ => true
  | .partitionDelete _ => true
  | .coreRetirement _ => true
  | .pseudoChannelRetirement _ _ => true
  | .lynxLaneDegrade _ _ => true
  | .pcieDegrade _ => true
  | .hbmRecalibration _ _ => true
  | .powerCap _ => true
  | .coolantOverLimit => true
  | .powerGood _ => true
  | .powerRemoved => true
  | .decodeFault _ => true
  | .gtcIncrement => true
  | .hostStoreCompletion _ _ => true
  | .remoteRefused _ => true
  | .imageRefused _ _ => true
  | .tilraxDbgSession _ _ => true

end Sys2Proof
end

