-- ==== Sys2Proof/Decode.lean ====
section
/-! DEFINITION. Decoding of instruction words (chapter 02 and the encodings of chapters 20 to 23), total on any words and
rejecting by name, and the encoder of the same tables after it. -/

namespace Sys2Proof

/-- The fields of one instruction: its prefixes and the fields of format R (Table 2-3). For format B, D is P and A, B are
the high and the low byte of OFF (Table 2-4). -/
structure Raw where
  vx : Option Vx
  imx : Option (BitVec 24)
  mxa : Option Mxa
  m : BitVec 6
  f : BitVec 3
  d : BitVec 7
  a : BitVec 8
  b : BitVec 8
deriving DecidableEq, Repr

/-- The code of a source operand (Table 2-10). -/
def Src.code : Src → BitVec 8
  | .reg n => 0#1 ++ n
  | .sreg n => 4#3 ++ n
  | .pop q => 0xA#4 ++ q
  | .peek q => 0xB#4 ++ q
  | .imm n => 6#3 ++ n
  | .tr n => 0xE#4 ++ n
  | .zero => 0xF0
  | .thread => 0xF1
  | .lane => 0xF2
  | .group => 0xF3
  | .rank => 0xF4
  | .imx _ => 0xFF

/-- The IMX prefix that a B operand needs. -/
def Src.imm24 : Src → Option (BitVec 24)
  | .imx v => some v
  | _ => none

/-- The source operand of a code (Table 2-10); none for 0xF5 to 0xFE, and for 0xFF without an IMX value (R43). -/
def srcOf (c : BitVec 8) (im : Option (BitVec 24)) : Option Src :=
  let n := c.toNat
  if n < 0x80 then some (.reg (c.extractLsb' 0 7))
  else if n < 0xA0 then some (.sreg (c.extractLsb' 0 5))
  else if n < 0xB0 then some (.pop (c.extractLsb' 0 4))
  else if n < 0xC0 then some (.peek (c.extractLsb' 0 4))
  else if n < 0xE0 then some (.imm (c.extractLsb' 0 5))
  else if n < 0xF0 then some (.tr (c.extractLsb' 0 4))
  else if n = 0xF0 then some .zero
  else if n = 0xF1 then some .thread
  else if n = 0xF2 then some .lane
  else if n = 0xF3 then some .group
  else if n = 0xF4 then some .rank
  else if n = 0xFF then im.map .imx
  else none

/-- The prefixes of an instruction, if its entry accepts them (R35, R36, R37); an IMX prefix needs an operand B, and B = 0xFF. -/
def Raw.pfx (r : Raw) (k : VxKind) (im : Bool) (mk : MxaKind) : Option Pfx :=
  let p : Pfx := { vx := r.vx, mxa := r.mxa }
  if p.ok k mk && (r.imx.isNone || (im && r.b == 0xFF)) then some p else none

/-- The three raw fields, in the cases where a form leaves them 0 (R46). -/
def Raw.dz (r : Raw) : Bool := r.d == 0
/-- A is 0. -/
def Raw.az (r : Raw) : Bool := r.a == 0
/-- B is 0. -/
def Raw.bz (r : Raw) : Bool := r.b == 0

/-- Accept the prefixes, then go on; BAD_PREFIX comes before every BAD_OPERAND (R53). -/
def Raw.with (r : Raw) (k : VxKind) (im : Bool) (mk : MxaKind) (go : Pfx → Except DecErr Instr) : Except DecErr Instr :=
  match r.pfx k im mk with
  | none => .error .badPfx
  | some p => go p

/-- BAD_OPERAND unless the check holds. -/
def check (s : SideReq) (pv : Bool) (c : Bool) (i : Instr) : Except DecErr Instr :=
  if c then .ok i else .error (.badOperand s pv none)

/-- One source operand, or BAD_OPERAND. -/
def withSrc (s : SideReq) (pv : Bool) (c : BitVec 8) (im : Option (BitVec 24)) (go : Src → Except DecErr Instr) :
    Except DecErr Instr :=
  match srcOf c im with
  | some v => go v
  | none => .error (.badOperand s pv none)

/-- Operand B of a packed instruction, whose IMX value must lie in its low 16 bits; a wrong one is BAD_PREFIX (R33). -/
def withPair (c : BitVec 8) (im : Option (BitVec 24)) (go : Src → Except DecErr Instr) : Except DecErr Instr :=
  withSrc .eOnly false c im fun b => if b.pairImx then go b else .error .badPfx

/-- The fourth operand field, 0 without VX. -/
def Raw.c (r : Raw) : BitVec 8 := match r.vx with | some v => v.c | none => 0

/-- Accept guard, zero and C, and IMX, for a function of M 12 (R372); none of them reads C, so that it must be 0 (R46). -/
def Raw.withC (r : Raw) (go : Pfx → Except DecErr Instr) : Except DecErr Instr :=
  r.with .gzc true .none fun p => if r.c == 0 then go p else .error (.badOperand .eOnly false none)

/-- Whether a register's read class is privileged (Table 23-3). -/
def srReadPriv (n : Nat) : Bool :=
  n == 0x04 || (decide (0x08 ≤ n) && decide (n ≤ 0x10)) || n == 0x1C || n == 0x1D || (decide (0x28 ≤ n) && decide (n ≤ 0x2F))

/-- Whether only Ecide reads a register (Table 23-3). -/
def srReadEcide (n : Nat) : Bool := n == 0x11

/-- Whether only Ecide writes a register (Table 23-3). -/
def srWriteEcide (n : Nat) : Bool := n == 0x11 || n == 0x1C || n == 0x1D

/-- PRIV comes before a bad field for a register that is Ecide's alone (R384, R53). -/
def srField (ecide : Bool) (x : Except DecErr Instr) : Except DecErr Instr :=
  match x with
  | .ok i => .ok i
  | .error e => .error (if ecide then .priv none else e)

/-- `mma` (Table 13-3): IMX is required, bits 7 to 5 are reserved, SEMI and STAGE choose the constructor. -/
def decodeMma (r : Raw) : Except DecErr Instr :=
  match r.imx with
  | none => .error .badPfx
  | some im =>
    let p : Pfx := { vx := r.vx, mxa := r.mxa }
    if !p.ok .g .none then .error .badPfx
    else if r.b.extractLsb' 5 3 != 0 then .error (.badOperand .eOnly false none)
    else
      let m : MmaArgs :=
        { afmt := im.extractLsb' 16 8, bfmt := im.extractLsb' 8 8, pbase := im.extractLsb' 0 8,
          bank := r.d.extractLsb' 5 2, kb := r.d.extractLsb' 3 2, acc := r.d.extractLsb' 0 3,
          atile := r.a.extractLsb' 0 6, stage := r.b.getLsbD 4, sp := r.b.getLsbD 3, cv := r.b.extractLsb' 0 3 }
      match (r.a.extractLsb' 6 2).toNat with
      | 0 => .ok (if m.stage then .mmaStage p m else .mma p m)
      | 1 => .ok (.mmaMinplus p m)
      | 2 => .ok (.mmaMaxtimes p m)
      | _ => .ok (.mmaOrand p m)

/-- Major opcode 0 (Table 2-13). -/
def decode0 (r : Raw) : Except DecErr Instr :=
  match r.f.toNat with
  | 0 => r.with .no false .none fun _ => check .both false r.dz (.br (r.a ++ r.b))
  | 1 => r.with .no false .none fun _ => .ok (.brp r.d (r.a ++ r.b))
  | 2 => r.with .no false .none fun _ => .ok (.brpNot r.d (r.a ++ r.b))
  | 3 => r.with .no false .none fun _ => check .both false r.dz (.call (r.a ++ r.b))
  | _ => .error .illegalOp

/-- Major opcode 1 (Table 2-13). -/
def decode1 (r : Raw) : Except DecErr Instr :=
  match r.f.toNat with
  | 0 => r.with .no false .none fun _ => check .both false (r.dz && r.az && r.bz) .ret
  | 1 => r.with .no false .none fun _ => withSrc .both false r.a none fun a => check .both false (r.dz && r.bz) (.brx a)
  | 2 => r.with .no false .none fun _ => check .both false (r.dz && r.az && r.bz) .exit
  | 3 => r.with .no false .none fun _ => check .both false (r.dz && r.az && r.bz) .nop
  | 4 => r.with .no false .none fun _ => check .both false (r.dz && r.az && r.bz) .yield
  | 5 => r.with .no false .none fun _ => check .both false (r.dz && r.az && r.bz) .brk
  | 6 => r.with .no false .none fun _ => check .both false (r.dz && r.az && r.b.extractLsb' 3 5 == 0) (.trap (r.b.extractLsb' 0 3))
  | _ => r.with .g false .none fun p => check .both true (r.dz && r.bz && decide (r.a.toNat < 3)) (if r.a == 0 then .rfhRetry p else if r.a == 1 then .rfhSkip p else .rfhEnd p)

/-- Major opcode 2 (Table 2-13). -/
def decode2 (r : Raw) : Except DecErr Instr :=
  match r.f.toNat with
  | 0 => r.with .g false .none fun p => check .eOnly false (r.dz && r.bz && r.a.extractLsb' 4 4 == 0) (.enrol p (r.a.extractLsb' 0 4))
  | 1 => r.with .g false .none fun p => check .eOnly false (r.dz && r.bz && r.a.extractLsb' 4 4 == 0) (.join p (r.a.extractLsb' 0 4))
  | 2 => r.with .g false .none fun p => check .eOnly false (r.dz && r.bz && r.a.extractLsb' 4 4 == 0) (.strike p (r.a.extractLsb' 0 4))
  | 3 => r.with .g false .none fun p => check .eOnly false (r.dz && r.az && r.bz) (.reform p)
  | 4 => r.with .gz true .none fun p => withSrc .eOnly false r.b r.imx fun b => check .eOnly false (r.a.extractLsb' 5 3 == 0) (if r.a.getLsbD 4 then .jmaskArr p r.d (r.a.extractLsb' 0 4) b else .jmask p r.d (r.a.extractLsb' 0 4) b)
  | _ => .error .illegalOp

/-- Major opcode 3 (Table 2-13). -/
def decode3 (r : Raw) : Except DecErr Instr :=
  match r.f.toNat with
  | 0 => r.with .gz false .none fun p => .ok (.plogAnd p r.d r.a r.b)
  | 1 => r.with .gz false .none fun p => .ok (.plogOr p r.d r.a r.b)
  | 2 => r.with .gz false .none fun p => .ok (.plogXor p r.d r.a r.b)
  | 3 => r.with .gz false .none fun p => .ok (.plogAndn p r.d r.a r.b)
  | 4 => r.with .gz false .none fun p => check .both false r.bz (.pmov p r.d r.a)
  | 5 => r.with .gz true .none fun p => withSrc .both false r.b r.imx fun b => check .both false r.az (.pset p r.d b)
  | 6 => r.with .g false .none fun p => check .both false (r.bz && !r.a.getLsbD 7) (.ballot p r.d (r.a.extractLsb' 0 7))
  | _ => .error .illegalOp

/-- Major opcode 4 (Table 2-13). -/
def decode4 (r : Raw) : Except DecErr Instr :=
  match r.f.toNat with
  | 0 => r.with .gz true .none fun p => withSrc .both false r.a none fun a => withSrc .both false r.b r.imx fun b => .ok (.cmpEq p r.d a b)
  | 1 => r.with .gz true .none fun p => withSrc .both false r.a none fun a => withSrc .both false r.b r.imx fun b => .ok (.cmpNe p r.d a b)
  | 2 => r.with .gz true .none fun p => withSrc .both false r.a none fun a => withSrc .both false r.b r.imx fun b => .ok (.cmpLt p r.d a b)
  | 3 => r.with .gz true .none fun p => withSrc .both false r.a none fun a => withSrc .both false r.b r.imx fun b => .ok (.cmpLe p r.d a b)
  | 4 => r.with .gz true .none fun p => withSrc .both false r.a none fun a => withSrc .both false r.b r.imx fun b => .ok (.cmpGt p r.d a b)
  | 5 => r.with .gz true .none fun p => withSrc .both false r.a none fun a => withSrc .both false r.b r.imx fun b => .ok (.cmpGe p r.d a b)
  | 6 => r.with .gz true .none fun p => withSrc .both false r.a none fun a => withSrc .both false r.b r.imx fun b => .ok (.cmpLtn p r.d a b)
  | _ => r.with .gz true .none fun p => withSrc .both false r.a none fun a => withSrc .both false r.b r.imx fun b => .ok (.cmpGen p r.d a b)

/-- Major opcode 5 (Table 2-13). -/
def decode5 (r : Raw) : Except DecErr Instr :=
  match r.f.toNat with
  | 0 => r.with .gz true .none fun p => withSrc .eOnly false r.a none fun a => withSrc .eOnly false r.b r.imx fun b => .ok (.fcmpF32Eq p r.d a b)
  | 1 => r.with .gz true .none fun p => withSrc .eOnly false r.a none fun a => withSrc .eOnly false r.b r.imx fun b => .ok (.fcmpF32Ne p r.d a b)
  | 2 => r.with .gz true .none fun p => withSrc .eOnly false r.a none fun a => withSrc .eOnly false r.b r.imx fun b => .ok (.fcmpF32Lt p r.d a b)
  | 3 => r.with .gz true .none fun p => withSrc .eOnly false r.a none fun a => withSrc .eOnly false r.b r.imx fun b => .ok (.fcmpF32Le p r.d a b)
  | 4 => r.with .gz true .none fun p => withSrc .eOnly false r.a none fun a => withSrc .eOnly false r.b r.imx fun b => .ok (.fcmpF32Gt p r.d a b)
  | 5 => r.with .gz true .none fun p => withSrc .eOnly false r.a none fun a => withSrc .eOnly false r.b r.imx fun b => .ok (.fcmpF32Ge p r.d a b)
  | 6 => r.with .gz true .none fun p => withSrc .eOnly false r.a none fun a => withSrc .eOnly false r.b r.imx fun b => .ok (.fcmpF32Un p r.d a b)
  | _ => r.with .gz true .none fun p => withSrc .eOnly false r.a none fun a => withSrc .eOnly false r.b r.imx fun b => .ok (.fcmpF32Or p r.d a b)

/-- Major opcode 6 (Table 2-13). -/
def decode6 (r : Raw) : Except DecErr Instr :=
  match r.f.toNat with
  | 0 => r.with .gz true .none fun p => withSrc .eOnly false r.a none fun a => withSrc .eOnly false r.b r.imx fun b => .ok (.fcmpF64Eq p r.d a b)
  | 1 => r.with .gz true .none fun p => withSrc .eOnly false r.a none fun a => withSrc .eOnly false r.b r.imx fun b => .ok (.fcmpF64Ne p r.d a b)
  | 2 => r.with .gz true .none fun p => withSrc .eOnly false r.a none fun a => withSrc .eOnly false r.b r.imx fun b => .ok (.fcmpF64Lt p r.d a b)
  | 3 => r.with .gz true .none fun p => withSrc .eOnly false r.a none fun a => withSrc .eOnly false r.b r.imx fun b => .ok (.fcmpF64Le p r.d a b)
  | 4 => r.with .gz true .none fun p => withSrc .eOnly false r.a none fun a => withSrc .eOnly false r.b r.imx fun b => .ok (.fcmpF64Gt p r.d a b)
  | 5 => r.with .gz true .none fun p => withSrc .eOnly false r.a none fun a => withSrc .eOnly false r.b r.imx fun b => .ok (.fcmpF64Ge p r.d a b)
  | 6 => r.with .gz true .none fun p => withSrc .eOnly false r.a none fun a => withSrc .eOnly false r.b r.imx fun b => .ok (.fcmpF64Un p r.d a b)
  | _ => r.with .gz true .none fun p => withSrc .eOnly false r.a none fun a => withSrc .eOnly false r.b r.imx fun b => .ok (.fcmpF64Or p r.d a b)

/-- Major opcode 7 (Table 2-13). -/
def decode7 (r : Raw) : Except DecErr Instr :=
  match r.f.toNat with
  | 0 => r.with .gz true .none fun p => withSrc .both false r.a none fun a => withSrc .both false r.b r.imx fun b => .ok (.add p r.d a b)
  | 1 => r.with .gz true .none fun p => withSrc .both false r.a none fun a => withSrc .both false r.b r.imx fun b => .ok (.sub p r.d a b)
  | 2 => r.with .gz true .none fun p => withSrc .both false r.a none fun a => withSrc .both false r.b r.imx fun b => .ok (.mul p r.d a b)
  | 3 => r.with .gz true .none fun p => withSrc .both false r.a none fun a => withSrc .both false r.b r.imx fun b => .ok (.mulh p r.d a b)
  | 4 => r.with .gz true .none fun p => withSrc .both false r.a none fun a => withSrc .both false r.b r.imx fun b => .ok (.mulhN p r.d a b)
  | 5 => r.with .gz true .none fun p => withSrc .both false r.a none fun a => withSrc .both false r.b r.imx fun b => .ok (.min p r.d a b)
  | 6 => r.with .gz true .none fun p => withSrc .both false r.a none fun a => withSrc .both false r.b r.imx fun b => .ok (.max p r.d a b)
  | _ => r.with .gz true .none fun p => withSrc .both false r.a none fun a => withSrc .both false r.b r.imx fun b => .ok (.minN p r.d a b)

/-- Major opcode 8 (Table 2-13). -/
def decode8 (r : Raw) : Except DecErr Instr :=
  match r.f.toNat with
  | 0 => r.with .gz true .none fun p => withSrc .both false r.a none fun a => withSrc .both false r.b r.imx fun b => .ok (.div p r.d a b)
  | 1 => r.with .gz true .none fun p => withSrc .both false r.a none fun a => withSrc .both false r.b r.imx fun b => .ok (.divN p r.d a b)
  | 2 => r.with .gz true .none fun p => withSrc .both false r.a none fun a => withSrc .both false r.b r.imx fun b => .ok (.rem p r.d a b)
  | 3 => r.with .gz true .none fun p => withSrc .both false r.a none fun a => withSrc .both false r.b r.imx fun b => .ok (.remN p r.d a b)
  | 4 => r.with .gz true .none fun p => withSrc .both false r.a none fun a => withSrc .both false r.b r.imx fun b => .ok (.maxN p r.d a b)
  | 5 => r.with .gz true .none fun p => withSrc .both false r.a none fun a => check .both false r.bz (.abs p r.d a)
  | 6 => r.with .gz true .none fun p => withSrc .both false r.a none fun a => check .both false r.bz (.neg p r.d a)
  | _ => r.with .gzc true .none fun p => withSrc .both false r.a none fun a => withSrc .both false r.b r.imx fun b => .ok (.mad p r.d a b)

/-- Major opcode 9 (Table 2-13). -/
def decode9 (r : Raw) : Except DecErr Instr :=
  match r.f.toNat with
  | 0 => r.with .gz true .none fun p => withSrc .both false r.a none fun a => withSrc .both false r.b r.imx fun b => .ok (.and p r.d a b)
  | 1 => r.with .gz true .none fun p => withSrc .both false r.a none fun a => withSrc .both false r.b r.imx fun b => .ok (.or p r.d a b)
  | 2 => r.with .gz true .none fun p => withSrc .both false r.a none fun a => withSrc .both false r.b r.imx fun b => .ok (.xor p r.d a b)
  | 3 => r.with .gz true .none fun p => withSrc .both false r.a none fun a => withSrc .both false r.b r.imx fun b => .ok (.andn p r.d a b)
  | 4 => r.with .gz true .none fun p => withSrc .both false r.a none fun a => check .both false r.bz (.not p r.d a)
  | 5 => r.with .gzc true .none fun p => withSrc .both false r.a none fun a => withSrc .both false r.b r.imx fun b => .ok (.sel p r.d a b)
  | 6 => r.with .gz true .none fun p => withSrc .both false r.a none fun a => check .both false r.bz (.mov p r.d a)
  | _ => r.with .g false .none fun p => withSrc .both false r.a none fun a => check .both false (r.b.extractLsb' 1 7 == 0) (if r.b.getLsbD 0 then .smovHi p r.d a else .smov p r.d a)

/-- Major opcode 10 (Table 2-13). -/
def decode10 (r : Raw) : Except DecErr Instr :=
  match r.f.toNat with
  | 0 => r.with .gz true .none fun p => withSrc .both false r.a none fun a => withSrc .both false r.b r.imx fun b => .ok (.shl p r.d a b)
  | 1 => r.with .gz true .none fun p => withSrc .both false r.a none fun a => withSrc .both false r.b r.imx fun b => .ok (.shr p r.d a b)
  | 2 => r.with .gz true .none fun p => withSrc .both false r.a none fun a => withSrc .both false r.b r.imx fun b => .ok (.sra p r.d a b)
  | 3 => r.with .gz true .none fun p => withSrc .both false r.a none fun a => check .both false r.bz (.popc p r.d a)
  | 4 => r.with .gz true .none fun p => withSrc .both false r.a none fun a => check .both false r.bz (.clz p r.d a)
  | 5 => r.with .gz true .none fun p => withSrc .both false r.a none fun a => check .both false r.bz (.brev p r.d a)
  | _ => .error .illegalOp

/-- Major opcode 11 (Table 2-13). -/
def decode11 (r : Raw) : Except DecErr Instr :=
  match r.f.toNat with
  | 0 => r.with .gz true .none fun p => withSrc .both false r.a none fun a => withSrc .both false r.b r.imx fun b => .ok (.bfe p r.d a b)
  | 1 => r.with .gz true .none fun p => withSrc .both false r.a none fun a => withSrc .both false r.b r.imx fun b => .ok (.bfeN p r.d a b)
  | 2 => r.with .gz true .none fun p => withSrc .both false r.a none fun a => withSrc .both false r.b r.imx fun b => .ok (.bfi p r.d a b)
  | 3 => r.with .gzc true .none fun p => withSrc .both false r.a none fun a => withSrc .both false r.b r.imx fun b => .ok (.perm p r.d a b)
  | _ => .error .illegalOp

/-- Major opcode 12 (Table 2-13). -/
def decode12 (r : Raw) : Except DecErr Instr :=
  match r.f.toNat with
  | 0 => r.withC fun p => withSrc .eOnly false r.a none fun a => withSrc .eOnly false r.b r.imx fun b => .ok (.addI64 p r.d a b)
  | 1 => r.withC fun p => withSrc .eOnly false r.a none fun a => withSrc .eOnly false r.b r.imx fun b => .ok (.subI64 p r.d a b)
  | 2 => r.withC fun p => withSrc .eOnly false r.a none fun a => withSrc .eOnly false r.b r.imx fun b => .ok (.mulI64 p r.d a b)
  | 3 => r.withC fun p => withSrc .eOnly false r.a none fun a => withSrc .eOnly false r.b r.imx fun b => .ok (.shlI64 p r.d a b)
  | 4 => r.withC fun p => withSrc .eOnly false r.a none fun a => withSrc .eOnly false r.b r.imx fun b => .ok (.shrI64 p r.d a b)
  | 5 => r.withC fun p => withSrc .eOnly false r.a none fun a => check .eOnly false r.bz (.movI64 p r.d a)
  | _ => .error .illegalOp

/-- Major opcode 13 (Table 2-13). -/
def decode13 (r : Raw) : Except DecErr Instr :=
  match r.f.toNat with
  | 0 => r.with .gzr true .none fun p => withSrc .eOnly false r.a none fun a => withSrc .eOnly false r.b r.imx fun b => .ok (.fadd p r.d a b)
  | 1 => r.with .gzr true .none fun p => withSrc .eOnly false r.a none fun a => withSrc .eOnly false r.b r.imx fun b => .ok (.fsub p r.d a b)
  | 2 => r.with .gzr true .none fun p => withSrc .eOnly false r.a none fun a => withSrc .eOnly false r.b r.imx fun b => .ok (.fmul p r.d a b)
  | 3 => r.with .gzrc true .none fun p => withSrc .eOnly false r.a none fun a => withSrc .eOnly false r.b r.imx fun b => .ok (.ffma p r.d a b)
  | 4 => r.with .gzr true .none fun p => withSrc .eOnly false r.a none fun a => withSrc .eOnly false r.b r.imx fun b => .ok (.fmin p r.d a b)
  | 5 => r.with .gzr true .none fun p => withSrc .eOnly false r.a none fun a => withSrc .eOnly false r.b r.imx fun b => .ok (.fmax p r.d a b)
  | 6 => r.with .gzr true .none fun p => withSrc .eOnly false r.a none fun a => check .eOnly false r.bz (.fabs p r.d a)
  | _ => r.with .gzr true .none fun p => withSrc .eOnly false r.a none fun a => check .eOnly false r.bz (.fneg p r.d a)

/-- Major opcode 14 (Table 2-13). -/
def decode14 (r : Raw) : Except DecErr Instr :=
  match r.f.toNat with
  | 0 => r.with .gzr true .none fun p => withPair r.b r.imx fun b => withSrc .eOnly false r.a none fun a => .ok (.faddF16x2 p r.d a b)
  | 1 => r.with .gzr true .none fun p => withPair r.b r.imx fun b => withSrc .eOnly false r.a none fun a => .ok (.fsubF16x2 p r.d a b)
  | 2 => r.with .gzr true .none fun p => withPair r.b r.imx fun b => withSrc .eOnly false r.a none fun a => .ok (.fmulF16x2 p r.d a b)
  | 3 => r.with .gzrc true .none fun p => withPair r.b r.imx fun b => withSrc .eOnly false r.a none fun a => .ok (.ffmaF16x2 p r.d a b)
  | 4 => r.with .gzr true .none fun p => withPair r.b r.imx fun b => withSrc .eOnly false r.a none fun a => .ok (.fminF16x2 p r.d a b)
  | 5 => r.with .gzr true .none fun p => withPair r.b r.imx fun b => withSrc .eOnly false r.a none fun a => .ok (.fmaxF16x2 p r.d a b)
  | 6 => r.with .gzr true .none fun p => withSrc .eOnly false r.a none fun a => check .eOnly false r.bz (.fabsF16x2 p r.d a)
  | _ => r.with .gzr true .none fun p => withSrc .eOnly false r.a none fun a => check .eOnly false r.bz (.fnegF16x2 p r.d a)

/-- Major opcode 15 (Table 2-13). -/
def decode15 (r : Raw) : Except DecErr Instr :=
  match r.f.toNat with
  | 0 => r.with .gzr true .none fun p => withPair r.b r.imx fun b => withSrc .eOnly false r.a none fun a => .ok (.faddBf16x2 p r.d a b)
  | 1 => r.with .gzr true .none fun p => withPair r.b r.imx fun b => withSrc .eOnly false r.a none fun a => .ok (.fsubBf16x2 p r.d a b)
  | 2 => r.with .gzr true .none fun p => withPair r.b r.imx fun b => withSrc .eOnly false r.a none fun a => .ok (.fmulBf16x2 p r.d a b)
  | 3 => r.with .gzrc true .none fun p => withPair r.b r.imx fun b => withSrc .eOnly false r.a none fun a => .ok (.ffmaBf16x2 p r.d a b)
  | 4 => r.with .gzr true .none fun p => withPair r.b r.imx fun b => withSrc .eOnly false r.a none fun a => .ok (.fminBf16x2 p r.d a b)
  | 5 => r.with .gzr true .none fun p => withPair r.b r.imx fun b => withSrc .eOnly false r.a none fun a => .ok (.fmaxBf16x2 p r.d a b)
  | 6 => r.with .gzr true .none fun p => withSrc .eOnly false r.a none fun a => check .eOnly false r.bz (.fabsBf16x2 p r.d a)
  | _ => r.with .gzr true .none fun p => withSrc .eOnly false r.a none fun a => check .eOnly false r.bz (.fnegBf16x2 p r.d a)

/-- Major opcode 16 (Table 2-13). -/
def decode16 (r : Raw) : Except DecErr Instr :=
  match r.f.toNat with
  | 0 => r.with .gzr true .none fun p => withSrc .eOnly false r.a none fun a => withSrc .eOnly false r.b r.imx fun b => .ok (.faddF64 p r.d a b)
  | 1 => r.with .gzr true .none fun p => withSrc .eOnly false r.a none fun a => withSrc .eOnly false r.b r.imx fun b => .ok (.fsubF64 p r.d a b)
  | 2 => r.with .gzr true .none fun p => withSrc .eOnly false r.a none fun a => withSrc .eOnly false r.b r.imx fun b => .ok (.fmulF64 p r.d a b)
  | 3 => r.with .gzrc true .none fun p => withSrc .eOnly false r.a none fun a => withSrc .eOnly false r.b r.imx fun b => .ok (.ffmaF64 p r.d a b)
  | 4 => r.with .gzr true .none fun p => withSrc .eOnly false r.a none fun a => withSrc .eOnly false r.b r.imx fun b => .ok (.fminF64 p r.d a b)
  | 5 => r.with .gzr true .none fun p => withSrc .eOnly false r.a none fun a => withSrc .eOnly false r.b r.imx fun b => .ok (.fmaxF64 p r.d a b)
  | 6 => r.with .gzr true .none fun p => withSrc .eOnly false r.a none fun a => check .eOnly false r.bz (.fabsF64 p r.d a)
  | _ => r.with .gzr true .none fun p => withSrc .eOnly false r.a none fun a => check .eOnly false r.bz (.fnegF64 p r.d a)

/-- Major opcode 17 (Table 2-13). -/
def decode17 (r : Raw) : Except DecErr Instr :=
  match r.f.toNat with
  | 0 => r.with .gzr false .none fun p => withSrc .eOnly false r.a none fun a => check .eOnly false r.bz (.frcp p r.d a)
  | 1 => r.with .gzr false .none fun p => withSrc .eOnly false r.a none fun a => check .eOnly false r.bz (.frsq p r.d a)
  | 2 => r.with .gzr false .none fun p => withSrc .eOnly false r.a none fun a => check .eOnly false r.bz (.fsqrt p r.d a)
  | 3 => r.with .gzr false .none fun p => withSrc .eOnly false r.a none fun a => check .eOnly false r.bz (.fexp2 p r.d a)
  | 4 => r.with .gzr false .none fun p => withSrc .eOnly false r.a none fun a => check .eOnly false r.bz (.flog2 p r.d a)
  | 5 => r.with .gzr true .none fun p => withSrc .eOnly false r.a none fun a => withSrc .eOnly false r.b r.imx fun b => .ok (.fdiv p r.d a b)
  | _ => .error .illegalOp

/-- Major opcode 18 (Table 2-13). -/
def decode18 (r : Raw) : Except DecErr Instr :=
  match r.f.toNat with
  | 0 => r.with .gzr false .none fun p => withSrc .eOnly false r.a none fun a => check .eOnly false r.bz (.frnd p r.d a)
  | 1 => r.with .gz true .none fun p => withSrc .eOnly false r.a none fun a => withSrc .eOnly false r.b r.imx fun b => .ok (.fclass p r.d a b)
  | 2 => r.with .gz true .none fun p => withSrc .eOnly false r.b r.imx fun b => check .eOnly false r.az (.fflag p r.d b)
  | 3 => r.with .gzr true .none fun p => withSrc .eOnly false r.a none fun a => withSrc .eOnly false r.b r.imx fun b => .ok (.fscl p r.d a b)
  | 4 => r.with .gzrc true .none fun p => withSrc .eOnly false r.a none fun a => withSrc .eOnly false r.b r.imx fun b => .ok (.fdot2 p r.d a b)
  | 5 => r.with .gzrc true .none fun p => withSrc .eOnly false r.a none fun a => withSrc .eOnly false r.b r.imx fun b => .ok (.fdot4 p r.d a b)
  | 6 => r.with .gzrc true .none fun p => withSrc .eOnly false r.a none fun a => withSrc .eOnly false r.b r.imx fun b => .ok (.fdot8 p r.d a b)
  | _ => .error .illegalOp

/-- Major opcode 19 (Table 2-13). -/
def decode19 (r : Raw) : Except DecErr Instr :=
  r.with .gzc false .none fun p => withSrc .both false r.a none fun a => .ok (.cvt p r.f r.d a r.b)

/-- Major opcode 20 (Table 2-13). -/
def decode20 (r : Raw) : Except DecErr Instr :=
  match r.f.toNat with
  | 0 => r.with .gzrc false .none fun p => withSrc .eOnly false r.a none fun a => .ok (.cvtnPk p r.d a r.b)
  | 1 => r.with .gzrc false .none fun p => withSrc .eOnly false r.a none fun a => .ok (.cvtnUp p r.d a r.b)
  | 2 => r.with .gzrc false .none fun p => withSrc .eOnly false r.a none fun a => .ok (.cvtnPk6 p r.d a r.b)
  | 3 => r.with .gzrc false .none fun p => withSrc .eOnly false r.a none fun a => .ok (.cvtnUp6 p r.d a r.b)
  | 4 => r.with .gzc false .none fun p => withSrc .eOnly false r.a none fun a => .ok (.mxscale p r.d a r.b)
  | _ => .error .illegalOp

/-- Major opcode 21 (Table 2-13). -/
def decode21 (r : Raw) : Except DecErr Instr :=
  match r.f.toNat with
  | 0 => r.with .gz true .none fun p => withSrc .eOnly false r.a none fun a => withSrc .eOnly false r.b r.imx fun b => .ok (.shflI p r.d a b)
  | 1 => r.with .gz true .none fun p => withSrc .eOnly false r.a none fun a => withSrc .eOnly false r.b r.imx fun b => .ok (.shflX p r.d a b)
  | 2 => r.with .gz true .none fun p => withSrc .eOnly false r.a none fun a => withSrc .eOnly false r.b r.imx fun b => .ok (.shflD p r.d a b)
  | 3 => r.with .gz true .none fun p => withSrc .eOnly false r.a none fun a => withSrc .eOnly false r.b r.imx fun b => .ok (.bcast p r.d a b)
  | 4 => r.with .gz false .none fun p => withSrc .eOnly false r.a none fun a => check .eOnly false (r.b.extractLsb' 0 2 == 0 && r.b.extractLsb' 4 4 == 0) (.redAdd p r.d a (r.b.extractLsb' 2 2))
  | 5 => r.with .gz false .none fun p => withSrc .eOnly false r.a none fun a => check .eOnly false (r.b.extractLsb' 0 2 == 0 && r.b.extractLsb' 4 4 == 0) (.redMin p r.d a (r.b.extractLsb' 2 2))
  | 6 => r.with .gz false .none fun p => withSrc .eOnly false r.a none fun a => check .eOnly false (r.b.extractLsb' 0 2 == 0 && r.b.extractLsb' 4 4 == 0) (.redMax p r.d a (r.b.extractLsb' 2 2))
  | _ => r.with .gz false .none fun p => withSrc .eOnly false r.a none fun a => check .eOnly false (r.b.extractLsb' 5 3 == 0 && r.b.extractLsb' 0 2 != 3) (if r.b.extractLsb' 0 2 == 0 then .scanAdd p r.d a (r.b.getLsbD 4) (r.b.extractLsb' 2 2) else if r.b.extractLsb' 0 2 == 1 then .scanMin p r.d a (r.b.getLsbD 4) (r.b.extractLsb' 2 2) else .scanMax p r.d a (r.b.getLsbD 4) (r.b.extractLsb' 2 2))

/-- Major opcode 22 (Table 2-13). -/
def decode22 (r : Raw) : Except DecErr Instr :=
  match r.f.toNat with
  | 0 => r.with .gz true .none fun p => withSrc .both false r.b r.imx fun b => check .both false (r.a.extractLsb' 4 4 == 0) (.tatomWr p r.d (r.a.extractLsb' 0 4) b)
  | 1 => r.with .gz true .none fun p => withSrc .both false r.b r.imx fun b => check .both false (r.a.extractLsb' 4 4 == 0) (.tatomAdd p r.d (r.a.extractLsb' 0 4) b)
  | 2 => r.with .gz true .none fun p => withSrc .both false r.b r.imx fun b => check .both false (r.a.extractLsb' 4 4 == 0) (.tatomMax p r.d (r.a.extractLsb' 0 4) b)
  | 3 => r.with .gzc true .none fun p => withSrc .both false r.b r.imx fun b => check .both false (r.a.extractLsb' 4 4 == 0) (.tatomCas p r.d (r.a.extractLsb' 0 4) b)
  | _ => .error .illegalOp

/-- Major opcode 23 (Table 2-13). -/
def decode23 (r : Raw) : Except DecErr Instr :=
  match r.f.toNat with
  | 0 => r.with .g false .none fun p => withSrc .eOnly false r.a none fun a => check .eOnly false r.bz (.sdq p r.d a)
  | 1 => r.with .g false .none fun p => withSrc .eOnly false r.a none fun a => check .eOnly false r.bz (.sendx p r.d a)
  | 2 => r.with .gz false .none fun p => check .eOnly false (r.bz && r.a.extractLsb' 4 4 == 0) (.qstatE p r.d (r.a.extractLsb' 0 4))
  | 3 => r.with .g false .none fun p => check .eOnly false (r.dz && r.bz && r.a.extractLsb' 4 4 == 0) (.qflushE p (r.a.extractLsb' 0 4))
  | 4 => r.with .gz false .none fun p => check .eOnly false (r.bz && r.a.extractLsb' 4 4 == 0) (.qend p r.d (r.a.extractLsb' 0 4))
  | _ => .error .illegalOp

/-- Major opcode 24 (Table 2-13). -/
def decode24 (r : Raw) : Except DecErr Instr :=
  match r.f.toNat with
  | 0 => r.with .g false .none fun p => withSrc .aOnly false r.a none fun a => check .aOnly false r.bz (.feed p r.d a)
  | 1 => r.with .g false .none fun p => withSrc .aOnly false r.a none fun a => check .aOnly false r.bz (.feedEnd p r.d a)
  | 2 => r.with .gz false .none fun p => check .aOnly false (r.bz && r.a.extractLsb' 2 6 == 0) (.recvx p r.d (r.a.extractLsb' 0 2))
  | 3 => r.with .gz false .none fun p => check .aOnly false (r.bz && r.a.extractLsb' 4 4 == 0) (.qstatA p r.d (r.a.extractLsb' 0 4))
  | 4 => r.with .g false .none fun p => check .aOnly false (r.dz && r.bz && r.a.extractLsb' 4 4 == 0) (.qflushA p (r.a.extractLsb' 0 4))
  | _ => .error .illegalOp

/-- Major opcode 25 (Table 2-13). -/
def decode25 (r : Raw) : Except DecErr Instr :=
  match r.f.toNat with
  | 0 => r.with .g true .ld fun p => withSrc .aOnly false r.a none fun a => withSrc .aOnly false r.b r.imx fun b => .ok (.ldqB8 p r.d a b)
  | 1 => r.with .g true .ld fun p => withSrc .aOnly false r.a none fun a => withSrc .aOnly false r.b r.imx fun b => .ok (.ldqB16 p r.d a b)
  | 2 => r.with .g true .ld fun p => withSrc .aOnly false r.a none fun a => withSrc .aOnly false r.b r.imx fun b => .ok (.ldqB32 p r.d a b)
  | 3 => r.with .g true .ld fun p => withSrc .aOnly false r.a none fun a => withSrc .aOnly false r.b r.imx fun b => .ok (.ldqB64 p r.d a b)
  | 4 => r.with .g true .ldqk16 fun p => withSrc .aOnly false r.a none fun a => withSrc .aOnly false r.b r.imx fun b => .ok (.ldqK16 p r.d a b)
  | 5 => r.with .g true .ld fun p => withSrc .aOnly false r.a none fun a => withSrc .aOnly false r.b r.imx fun b => .ok (.ldqLine p r.d a b)
  | _ => .error .illegalOp

/-- Major opcode 26 (Table 2-13). -/
def decode26 (r : Raw) : Except DecErr Instr :=
  match r.f.toNat with
  | 0 => r.with .gz true .ld fun p => withSrc .aOnly false r.a none fun a => withSrc .aOnly false r.b r.imx fun b => .ok (.ldI8 p r.d a b)
  | 1 => r.with .gz true .ld fun p => withSrc .aOnly false r.a none fun a => withSrc .aOnly false r.b r.imx fun b => .ok (.ldN8 p r.d a b)
  | 2 => r.with .gz true .ld fun p => withSrc .aOnly false r.a none fun a => withSrc .aOnly false r.b r.imx fun b => .ok (.ldI16 p r.d a b)
  | 3 => r.with .gz true .ld fun p => withSrc .aOnly false r.a none fun a => withSrc .aOnly false r.b r.imx fun b => .ok (.ldN16 p r.d a b)
  | 4 => r.with .gz true .ld fun p => withSrc .aOnly false r.a none fun a => withSrc .aOnly false r.b r.imx fun b => .ok (.ldI32 p r.d a b)
  | 5 => r.with .gz true .ld fun p => withSrc .aOnly false r.a none fun a => withSrc .aOnly false r.b r.imx fun b => .ok (.ldN32 p r.d a b)
  | 6 => r.with .gz true .ld fun p => withSrc .aOnly false r.a none fun a => withSrc .aOnly false r.b r.imx fun b => .ok (.ldB64 p r.d a b)
  | _ => .error .illegalOp

/-- Major opcode 27 (Table 2-13). -/
def decode27 (r : Raw) : Except DecErr Instr :=
  match r.f.toNat with
  | 0 => r.with .g true .st fun p => withSrc .aOnly false r.a none fun a => withSrc .aOnly false r.b r.imx fun b => .ok (.stB8 p r.d a b)
  | 1 => r.with .g true .st fun p => withSrc .aOnly false r.a none fun a => withSrc .aOnly false r.b r.imx fun b => .ok (.stB16 p r.d a b)
  | 2 => r.with .g true .st fun p => withSrc .aOnly false r.a none fun a => withSrc .aOnly false r.b r.imx fun b => .ok (.stB32 p r.d a b)
  | 3 => r.with .g true .st fun p => withSrc .aOnly false r.a none fun a => withSrc .aOnly false r.b r.imx fun b => .ok (.stB64 p r.d a b)
  | 4 => r.with .g true .st fun p => withSrc .aOnly false r.a none fun a => withSrc .aOnly false r.b r.imx fun b => .ok (.staB8 p r.d a b)
  | 5 => r.with .g true .st fun p => withSrc .aOnly false r.a none fun a => withSrc .aOnly false r.b r.imx fun b => .ok (.staB16 p r.d a b)
  | 6 => r.with .g true .st fun p => withSrc .aOnly false r.a none fun a => withSrc .aOnly false r.b r.imx fun b => .ok (.staB32 p r.d a b)
  | _ => r.with .g true .st fun p => withSrc .aOnly false r.a none fun a => withSrc .aOnly false r.b r.imx fun b => .ok (.staB64 p r.d a b)

/-- Major opcode 28 (Table 2-13). -/
def decode28 (r : Raw) : Except DecErr Instr :=
  match r.f.toNat with
  | 0 => r.with .gz true .atom fun p => withSrc .aOnly false r.a none fun a => withSrc .aOnly false r.b r.imx fun b => check .aOnly false (!r.d.getLsbD 5) (.atomAdd p (r.d.getLsbD 6) (r.d.extractLsb' 0 5) a b)
  | 1 => r.with .gz true .atom fun p => withSrc .aOnly false r.a none fun a => withSrc .aOnly false r.b r.imx fun b => .ok (if r.d.getLsbD 5 then .atomMinN p (r.d.getLsbD 6) (r.d.extractLsb' 0 5) a b else .atomMin p (r.d.getLsbD 6) (r.d.extractLsb' 0 5) a b)
  | 2 => r.with .gz true .atom fun p => withSrc .aOnly false r.a none fun a => withSrc .aOnly false r.b r.imx fun b => .ok (if r.d.getLsbD 5 then .atomMaxN p (r.d.getLsbD 6) (r.d.extractLsb' 0 5) a b else .atomMax p (r.d.getLsbD 6) (r.d.extractLsb' 0 5) a b)
  | 3 => r.with .gz true .atom fun p => withSrc .aOnly false r.a none fun a => withSrc .aOnly false r.b r.imx fun b => check .aOnly false (!r.d.getLsbD 5) (.atomAnd p (r.d.getLsbD 6) (r.d.extractLsb' 0 5) a b)
  | 4 => r.with .gz true .atom fun p => withSrc .aOnly false r.a none fun a => withSrc .aOnly false r.b r.imx fun b => check .aOnly false (!r.d.getLsbD 5) (.atomOr p (r.d.getLsbD 6) (r.d.extractLsb' 0 5) a b)
  | 5 => r.with .gz true .atom fun p => withSrc .aOnly false r.a none fun a => withSrc .aOnly false r.b r.imx fun b => check .aOnly false (!r.d.getLsbD 5) (.atomXor p (r.d.getLsbD 6) (r.d.extractLsb' 0 5) a b)
  | 6 => r.with .gz true .atom fun p => withSrc .aOnly false r.a none fun a => withSrc .aOnly false r.b r.imx fun b => check .aOnly false (!r.d.getLsbD 5) (.atomXchg p (r.d.getLsbD 6) (r.d.extractLsb' 0 5) a b)
  | _ => r.with .gz true .atom fun p => withSrc .aOnly false r.a none fun a => withSrc .aOnly false r.b r.imx fun b => check .aOnly false (!r.d.getLsbD 5) (.cas p (r.d.getLsbD 6) (r.d.extractLsb' 0 5) a b)

/-- Major opcode 29 (Table 2-13). -/
def decode29 (r : Raw) : Except DecErr Instr :=
  match r.f.toNat with
  | 0 => r.with .g true .atom fun p => withSrc .aOnly false r.a none fun a => withSrc .aOnly false r.b r.imx fun b => .ok (.credAddI32 p r.d a b)
  | 1 => r.with .g true .atom fun p => withSrc .aOnly false r.a none fun a => withSrc .aOnly false r.b r.imx fun b => .ok (.credAddF32 p r.d a b)
  | 2 => r.with .g true .atom fun p => withSrc .aOnly false r.a none fun a => withSrc .aOnly false r.b r.imx fun b => .ok (.credMinI32 p r.d a b)
  | 3 => r.with .g true .atom fun p => withSrc .aOnly false r.a none fun a => withSrc .aOnly false r.b r.imx fun b => .ok (.credMaxI32 p r.d a b)
  | 4 => r.with .g true .atom fun p => withSrc .aOnly false r.a none fun a => withSrc .aOnly false r.b r.imx fun b => .ok (.credOrB32 p r.d a b)
  | 5 => r.with .g true .atom fun p => withSrc .aOnly false r.a none fun a => withSrc .aOnly false r.b r.imx fun b => .ok (.credAddI64 p r.d a b)
  | 6 => r.with .g true .atom fun p => withSrc .aOnly false r.a none fun a => withSrc .aOnly false r.b r.imx fun b => .ok (.credMaxF32 p r.d a b)
  | _ => .error .illegalOp

/-- Major opcode 30 (Table 2-13). -/
def decode30 (r : Raw) : Except DecErr Instr :=
  match r.f.toNat with
  | 0 => r.with .g false .fence fun p => check .aOnly false (r.dz && r.az && r.bz) (.fence p)
  | 1 => r.with .g true .ld fun p => withSrc .aOnly false r.a none fun a => withSrc .aOnly false r.b r.imx fun b => check .aOnly false r.dz (.pref p a b)
  | 2 => r.with .g false .none fun p => check .aOnly false (r.dz && r.bz && r.a.extractLsb' 6 2 == 0) (.tgive p (r.a.extractLsb' 0 6))
  | 3 => r.with .g false .none fun p => check .aOnly false (r.dz && r.bz && r.a.extractLsb' 6 2 == 0) (.tclaim p (r.a.extractLsb' 0 6))
  | 4 => r.with .gz false .none fun p => check .aOnly false (r.bz && r.a.extractLsb' 6 2 == 0) (.tchk p r.d (r.a.extractLsb' 0 6))
  | _ => .error .illegalOp

/-- Major opcode 31 (Table 2-13). -/
def decode31 (r : Raw) : Except DecErr Instr :=
  match r.f.toNat with
  | 0 => r.with .g true .fopen fun p => withSrc .aOnly false r.a none fun a => withSrc .aOnly false r.b r.imx fun b => .ok (.fopen p r.d a b)
  | 1 => r.with .g true .none fun p => withSrc .aOnly false r.b r.imx fun b => check .aOnly false (r.a.extractLsb' 4 4 == 0) (.fadv p r.d (r.a.extractLsb' 0 4) b)
  | 2 => r.with .g true .none fun p => check .aOnly false (r.dz && r.bz && r.a.extractLsb' 4 4 == 0) (.fend p (r.a.extractLsb' 0 4))
  | 3 => r.with .g true .none fun p => check .aOnly false (r.dz && r.bz && r.a.extractLsb' 4 4 == 0) (.fclose p (r.a.extractLsb' 0 4))
  | _ => .error .illegalOp

/-- Major opcode 32 (Table 2-13). -/
def decode32 (r : Raw) : Except DecErr Instr :=
  match r.f.toNat with
  | 0 => r.with .g true .atom fun p => withSrc .aOnly false r.a none fun a => withSrc .aOnly false r.b r.imx fun b => .ok (.kins p r.d a b)
  | 1 => r.with .g true .kget fun p => withSrc .aOnly false r.a none fun a => withSrc .aOnly false r.b r.imx fun b => .ok (.kget p r.d a b)
  | 2 => r.with .g true .atom fun p => withSrc .aOnly false r.b r.imx fun b => check .aOnly false r.az (.ringClaim p r.d b)
  | 3 => r.with .g true .atom fun p => withSrc .aOnly false r.a none fun a => withSrc .aOnly false r.b r.imx fun b => check .aOnly false r.dz (.ringPost p a b)
  | 4 => r.with .g true .atom fun p => withSrc .aOnly false r.b r.imx fun b => check .aOnly false r.az (.ringTake p r.d b)
  | 5 => r.with .g true .atom fun p => withSrc .aOnly false r.a none fun a => withSrc .aOnly false r.b r.imx fun b => check .aOnly false r.dz (.ringFree p a b)
  | _ => .error .illegalOp

/-- Major opcode 33 (Table 2-13). -/
def decode33 (r : Raw) : Except DecErr Instr :=
  match r.f.toNat with
  | 0 => r.with .g true .plain fun p => withSrc .aOnly false r.a none fun a => withSrc .aOnly false r.b r.imx fun b => .ok (.kick p r.d a b)
  | 1 => r.with .g true .plain fun p => withSrc .aOnly false r.a none fun a => withSrc .aOnly false r.b r.imx fun b => .ok (.mbinit p r.d a b)
  | 2 => r.with .g true .plain fun p => withSrc .aOnly false r.a none fun a => withSrc .aOnly false r.b r.imx fun b => .ok (.mbexp p r.d a b)
  | 3 => r.with .g true .plain fun p => withSrc .aOnly false r.a none fun a => withSrc .aOnly false r.b r.imx fun b => check .aOnly false r.dz (.mbarr p a b)
  | 4 => r.with .g true .plain fun p => withSrc .aOnly false r.a none fun a => withSrc .aOnly false r.b r.imx fun b => .ok (.mbwait p r.d a b)
  | 5 => r.with .g true .plain fun p => withSrc .aOnly false r.a none fun a => withSrc .aOnly false r.b r.imx fun b => .ok (.xform p r.d a b)
  | _ => .error .illegalOp

/-- Major opcode 34 (Table 2-13). -/
def decode34 (r : Raw) : Except DecErr Instr :=
  match r.f.toNat with
  | 0 => r.with .g true .none fun p => withSrc .both false r.b r.imx fun b => check .both false (r.dz && r.a.extractLsb' 4 4 == 0) (.arrive p (r.a.extractLsb' 0 4) b)
  | 1 => r.with .g true .none fun p => withSrc .both false r.b r.imx fun b => check .both false (r.dz && r.a.extractLsb' 4 4 == 0) (.arwait p (r.a.extractLsb' 0 4) b)
  | 2 => r.with .g true .none fun p => check .both false (r.dz && r.bz && r.a.extractLsb' 4 4 == 0) (.bwait p (r.a.extractLsb' 0 4))
  | _ => .error .illegalOp

/-- Major opcode 35 (Table 2-13). -/
def decode35 (r : Raw) : Except DecErr Instr :=
  match r.f.toNat with
  | 0 => r.with .g true .nget fun p => withSrc .aOnly false r.a none fun a => withSrc .aOnly false r.b r.imx fun b => .ok (.ngetB32 p r.d a b)
  | 1 => r.with .g true .nsend fun p => withSrc .aOnly false r.a none fun a => withSrc .aOnly false r.b r.imx fun b => check .aOnly false r.dz (.nsend p a b)
  | 2 => r.with .g false .none fun p => check .aOnly false (r.dz && r.az && r.bz) (.nfence p)
  | _ => .error .illegalOp

/-- Major opcode 36 (Table 2-13). -/
def decode36 (r : Raw) : Except DecErr Instr :=
  match r.f.toNat with
  | 0 => r.with .gz true .atom fun p => withSrc .aOnly false r.a none fun a => check .aOnly false r.bz (.kvlk p r.d a)
  | 1 => r.with .gz true .atom fun p => withSrc .aOnly false r.a none fun a => withSrc .aOnly false r.b r.imx fun b => .ok (.kvins p r.d a b)
  | 2 => r.with .gz true .atom fun p => withSrc .aOnly false r.a none fun a => check .aOnly false r.bz (.kvdel p r.d a)
  | 3 => r.with .gz true .atom fun p => withSrc .aOnly false r.a none fun a => withSrc .aOnly false r.b r.imx fun b => .ok (.kvref p r.d a b)
  | 4 => r.with .gz true .atom fun p => withSrc .aOnly false r.a none fun a => withSrc .aOnly false r.b r.imx fun b => .ok (.kvpos p r.d a b)
  | 5 => r.with .gz true .plain fun p => withSrc .aOnly false r.a none fun a => withSrc .aOnly false r.b r.imx fun b => .ok (.kvq p r.d a b)
  | _ => .error .illegalOp

/-- Major opcode 37 (Table 2-13). -/
noncomputable def decode37 (r : Raw) : Except DecErr Instr :=
  match r.f.toNat with
  | 0 => r.with .g false .none fun p => withSrc .eOnly false r.a none fun a => check .eOnly false r.bz (.mcv p r.d a)
  | 1 => decodeMma r
  | 2 => r.with .g false .none fun p => check .eOnly false (r.az && r.bz) (.mzero p r.d)
  | 3 => r.with .gzrc false .none fun p => check .eOnly false (r.bz && r.a.extractLsb' 6 2 == 0 && !(r.a.getLsbD 5 && r.a.getLsbD 3)) (if r.a.getLsbD 5 then .mrdSt p r.d (r.a.extractLsb' 0 3) (r.a.getLsbD 4) else .mrdF32 p r.d (r.a.extractLsb' 0 3) (r.a.getLsbD 3) (r.a.getLsbD 4))
  | 4 => r.with .g false .none fun p => check .eOnly false (r.bz && r.a.extractLsb' 6 2 == 0 && !(r.a.getLsbD 5 && r.a.getLsbD 3)) (if r.a.getLsbD 5 then .mwrSt p r.d (r.a.extractLsb' 0 3) (r.a.getLsbD 4) else .mwrF32 p r.d (r.a.extractLsb' 0 3) (r.a.getLsbD 3) (r.a.getLsbD 4))
  | 5 => r.with .g false .none fun p => withSrc .eOnly false r.a none fun a => check .eOnly false (r.dz && r.bz) (.mcont p a)
  | 6 => r.with .gr false .none fun p => check .eOnly false (r.a.extractLsb' 3 5 == 0) (.mscl p r.d (r.a.extractLsb' 0 3) r.b)
  | _ => .error .illegalOp

/-- Major opcode 38 (Table 2-13). -/
noncomputable def decode38 (r : Raw) : Except DecErr Instr :=
  match r.f.toNat with
  | 0 => r.with .gr false .none fun p => withSrc .eOnly false r.a none fun a => .ok (.smx p r.d a r.b)
  | 1 => r.with .g false .none fun p => check .eOnly false (r.bz && r.a.extractLsb' 3 5 == 0) (.smrg p r.d (r.a.extractLsb' 0 3))
  | 2 => r.with .g false .none fun p => check .eOnly false (r.az && r.bz) (.smfin p r.d)
  | _ => .error .illegalOp

/-- Major opcode 39 (Table 2-13). -/
noncomputable def decode39 (r : Raw) : Except DecErr Instr :=
  match r.f.toNat with
  | 0 => r.with .g false .none fun p => withSrc .both false r.a none fun a => check .both false (r.dz && r.bz) (.tenq p a)
  | 1 => r.with .g false .none fun p => withSrc .both false r.a none fun a => check .both false r.bz (.vabort p r.d a)
  | 2 => r.with .gz false .none fun p => check .both false (r.az && r.bz) (.tstamp p r.d)
  | 3 => r.with .gz false .none fun p => srField (srReadEcide (r.a.toNat % 128)) <|
    check .both (srReadPriv (r.a.toNat % 128)) (r.bz && !r.a.getLsbD 7) (.rdsr p r.d (r.a.extractLsb' 0 7))
  | 4 => r.with .g false .none fun p => srField (srWriteEcide r.d.toNat) <|
    withSrc .both true r.a none fun a => check .both true r.bz (.wrsr p r.d a)
  | 5 => r.with .g false .none fun p => if r.b == 0 then withSrc .both true r.a none fun a => check .both true r.dz (.tlbi p a) else check .both true (r.b == 1 && r.dz && r.az) (.tlbiAll p)
  | 6 => r.with .gz true .none fun p => if r.a == 1 then check .both false r.bz (.mcallLocate p r.d) else withSrc .both false r.b r.imx fun b => check .both false (r.a == 0 || r.a == 2) (if r.a == 0 then .mcallTelemetry p r.d b else .mcallPeer p r.d b)
  | _ => .error .illegalOp

/-- The opcode map (Table 2-13); 40 to 61 are unassigned, 62 is no instruction (R27), 63 is a prefix. -/
noncomputable def ofRaw (r : Raw) : Except DecErr Instr :=
  match r.m.toNat with
  | 0 => decode0 r
  | 1 => decode1 r
  | 2 => decode2 r
  | 3 => decode3 r
  | 4 => decode4 r
  | 5 => decode5 r
  | 6 => decode6 r
  | 7 => decode7 r
  | 8 => decode8 r
  | 9 => decode9 r
  | 10 => decode10 r
  | 11 => decode11 r
  | 12 => decode12 r
  | 13 => decode13 r
  | 14 => decode14 r
  | 15 => decode15 r
  | 16 => decode16 r
  | 17 => decode17 r
  | 18 => decode18 r
  | 19 => decode19 r
  | 20 => decode20 r
  | 21 => decode21 r
  | 22 => decode22 r
  | 23 => decode23 r
  | 24 => decode24 r
  | 25 => decode25 r
  | 26 => decode26 r
  | 27 => decode27 r
  | 28 => decode28 r
  | 29 => decode29 r
  | 30 => decode30 r
  | 31 => decode31 r
  | 32 => decode32 r
  | 33 => decode33 r
  | 34 => decode34 r
  | 35 => decode35 r
  | 36 => decode36 r
  | 37 => decode37 r
  | 38 => decode38 r
  | 39 => decode39 r
  | _ => .error .illegalOp

/-- Whether Table 2-13 assigns the major opcode and function (R49, R53 step 1). -/
def assigned (m f : Nat) : Bool :=
  match m with
  | 0 => decide (f < 4)
  | 1 => decide (f < 8)
  | 2 => decide (f < 5)
  | 3 => decide (f < 7)
  | 4 => decide (f < 8)
  | 5 => decide (f < 8)
  | 6 => decide (f < 8)
  | 7 => decide (f < 8)
  | 8 => decide (f < 8)
  | 9 => decide (f < 8)
  | 10 => decide (f < 6)
  | 11 => decide (f < 4)
  | 12 => decide (f < 6)
  | 13 => decide (f < 8)
  | 14 => decide (f < 8)
  | 15 => decide (f < 8)
  | 16 => decide (f < 8)
  | 17 => decide (f < 6)
  | 18 => decide (f < 7)
  | 19 => decide (f < 8)
  | 20 => decide (f < 5)
  | 21 => decide (f < 8)
  | 22 => decide (f < 4)
  | 23 => decide (f < 5)
  | 24 => decide (f < 5)
  | 25 => decide (f < 6)
  | 26 => decide (f < 7)
  | 27 => decide (f < 8)
  | 28 => decide (f < 8)
  | 29 => decide (f < 7)
  | 30 => decide (f < 5)
  | 31 => decide (f < 4)
  | 32 => decide (f < 6)
  | 33 => decide (f < 6)
  | 34 => decide (f < 3)
  | 35 => decide (f < 3)
  | 36 => decide (f < 6)
  | 37 => decide (f < 7)
  | 38 => decide (f < 3)
  | 39 => decide (f < 7)
  | _ => false

/-- Major opcode of a word. -/
def opM (w : Word) : BitVec 6 := w.extractLsb' 26 6

/-- The VX prefix of a word; none where a reserved bit is set (R32). -/
def vxOf (w : Word) : Option Vx :=
  if w.extractLsb' 0 4 == 0 then
    some { mask := w.extractLsb' 17 7, zero := w.getLsbD 16, rc := w.extractLsb' 13 3, c := w.extractLsb' 5 8, neg := w.getLsbD 4 }
  else none

/-- The MXA prefix of a word; none where a reserved bit is set (R34). -/
def mxaOf (w : Word) : Option Mxa :=
  if w.extractLsb' 0 13 == 0 then
    some { obs := w.extractLsb' 19 5, order := w.extractLsb' 16 3, hint := w.extractLsb' 14 2, rope := w.getLsbD 13 }
  else none

/-- The prefixes in the order VX, IMX, MXA, at most one of each (R35); `k` is the least kind that may still come. -/
def prefixesOf : List Word → Nat → Option (Option Vx × Option (BitVec 24) × Option Mxa)
  | [], _ => some (none, none, none)
  | w :: ws, k =>
    let kind := (w.extractLsb' 24 2).toNat
    if kind < k then none
    else match kind with
      | 0 => match vxOf w, prefixesOf ws 1 with
        | some v, some (_, i, m) => some (some v, i, m)
        | _, _ => none
      | 1 => match prefixesOf ws 2 with
        | some (_, _, m) => some (none, some (w.extractLsb' 0 24), m)
        | none => none
      | 2 => match mxaOf w, prefixesOf ws 3 with
        | some m, some _ => some (none, none, some m)
        | _, _ => none
      | _ => none

/-- The fields of a final word under its prefixes. -/
def rawOf (vx : Option Vx) (imx : Option (BitVec 24)) (mxa : Option Mxa) (w : Word) : Raw :=
  { vx := vx, imx := imx, mxa := mxa, m := opM w, f := w.extractLsb' 23 3, d := w.extractLsb' 16 7,
    a := w.extractLsb' 8 8, b := w.extractLsb' 0 8 }

/-- Decoding of one instruction: prefix words and the word they precede. A list of prefixes alone is a prefix that stands
last in its block (R35). Unassigned opcodes come before bad prefixes (R53). -/
noncomputable def decodeSeq (ws : List Word) : Except DecErr Instr :=
  match ws.getLast? with
  | none => .error .badPfx
  | some w =>
    if opM w == 63 then .error .badPfx
    else if !assigned (opM w).toNat (w.extractLsb' 23 3).toNat then .error .illegalOp
    else match prefixesOf ws.dropLast 0 with
      | none => .error .badPfx
      | some (vx, imx, mxa) => match ofRaw (rawOf vx imx mxa w) with
        | .error (.badOperand sd pv _) => .error (.badOperand sd pv vx)
        | .error (.priv _) => .error (.priv vx)
        | r => r

/-- The fields of an instruction from its parts. -/
def mkRaw (p : Pfx) (imx : Option (BitVec 24)) (m : BitVec 6) (f : BitVec 3) (d : BitVec 7) (a b : BitVec 8) : Raw :=
  { vx := p.vx, imx := imx, mxa := p.mxa, m := m, f := f, d := d, a := a, b := b }

/-- The fields of `mma` (Table 13-3). -/
def mmaRaw (p : Pfx) (semi : BitVec 2) (m : MmaArgs) : Raw :=
  mkRaw p (some (m.afmt ++ m.bfmt ++ m.pbase)) 37 1 (m.bank ++ m.kb ++ m.acc) (semi ++ m.atile)
    (0#3 ++ BitVec.ofBool m.stage ++ BitVec.ofBool m.sp ++ m.cv)

/-- The fields of an instruction; none for an event, which has no encoding. -/
def toRaw : Instr → Option Raw
  | .br off => some (mkRaw { vx := none, mxa := none } none 0 0 0 (off.extractLsb' 8 8) (off.extractLsb' 0 8))
  | .brp pr off => some (mkRaw { vx := none, mxa := none } none 0 1 pr (off.extractLsb' 8 8) (off.extractLsb' 0 8))
  | .brpNot pr off => some (mkRaw { vx := none, mxa := none } none 0 2 pr (off.extractLsb' 8 8) (off.extractLsb' 0 8))
  | .call off => some (mkRaw { vx := none, mxa := none } none 0 3 0 (off.extractLsb' 8 8) (off.extractLsb' 0 8))
  | .ret => some (mkRaw { vx := none, mxa := none } none 1 0 0 0 0)
  | .brx a => some (mkRaw { vx := none, mxa := none } none 1 1 0 a.code 0)
  | .exit => some (mkRaw { vx := none, mxa := none } none 1 2 0 0 0)
  | .nop => some (mkRaw { vx := none, mxa := none } none 1 3 0 0 0)
  | .yield => some (mkRaw { vx := none, mxa := none } none 1 4 0 0 0)
  | .brk => some (mkRaw { vx := none, mxa := none } none 1 5 0 0 0)
  | .trap n => some (mkRaw { vx := none, mxa := none } none 1 6 0 0 (0#5 ++ n))
  | .rfhRetry p => some (mkRaw p none 1 7 0 0 0)
  | .rfhSkip p => some (mkRaw p none 1 7 0 1 0)
  | .rfhEnd p => some (mkRaw p none 1 7 0 2 0)
  | .enrol p j => some (mkRaw p none 2 0 0 (0#4 ++ j) 0)
  | .join p j => some (mkRaw p none 2 1 0 (0#4 ++ j) 0)
  | .strike p j => some (mkRaw p none 2 2 0 (0#4 ++ j) 0)
  | .reform p => some (mkRaw p none 2 3 0 0 0)
  | .jmask p d j b => some (mkRaw p b.imm24 2 4 d (0#4 ++ j) b.code)
  | .jmaskArr p d j b => some (mkRaw p b.imm24 2 4 d (1#4 ++ j) b.code)
  | .plogAnd p d a b => some (mkRaw p none 3 0 d a b)
  | .plogOr p d a b => some (mkRaw p none 3 1 d a b)
  | .plogXor p d a b => some (mkRaw p none 3 2 d a b)
  | .plogAndn p d a b => some (mkRaw p none 3 3 d a b)
  | .pmov p d a => some (mkRaw p none 3 4 d a 0)
  | .pset p d b => some (mkRaw p b.imm24 3 5 d 0 b.code)
  | .ballot p d pr => some (mkRaw p none 3 6 d (0#1 ++ pr) 0)
  | .cmpEq p d a b => some (mkRaw p b.imm24 4 0 d a.code b.code)
  | .cmpNe p d a b => some (mkRaw p b.imm24 4 1 d a.code b.code)
  | .cmpLt p d a b => some (mkRaw p b.imm24 4 2 d a.code b.code)
  | .cmpLe p d a b => some (mkRaw p b.imm24 4 3 d a.code b.code)
  | .cmpGt p d a b => some (mkRaw p b.imm24 4 4 d a.code b.code)
  | .cmpGe p d a b => some (mkRaw p b.imm24 4 5 d a.code b.code)
  | .cmpLtn p d a b => some (mkRaw p b.imm24 4 6 d a.code b.code)
  | .cmpGen p d a b => some (mkRaw p b.imm24 4 7 d a.code b.code)
  | .fcmpF32Eq p d a b => some (mkRaw p b.imm24 5 0 d a.code b.code)
  | .fcmpF32Ne p d a b => some (mkRaw p b.imm24 5 1 d a.code b.code)
  | .fcmpF32Lt p d a b => some (mkRaw p b.imm24 5 2 d a.code b.code)
  | .fcmpF32Le p d a b => some (mkRaw p b.imm24 5 3 d a.code b.code)
  | .fcmpF32Gt p d a b => some (mkRaw p b.imm24 5 4 d a.code b.code)
  | .fcmpF32Ge p d a b => some (mkRaw p b.imm24 5 5 d a.code b.code)
  | .fcmpF32Un p d a b => some (mkRaw p b.imm24 5 6 d a.code b.code)
  | .fcmpF32Or p d a b => some (mkRaw p b.imm24 5 7 d a.code b.code)
  | .fcmpF64Eq p d a b => some (mkRaw p b.imm24 6 0 d a.code b.code)
  | .fcmpF64Ne p d a b => some (mkRaw p b.imm24 6 1 d a.code b.code)
  | .fcmpF64Lt p d a b => some (mkRaw p b.imm24 6 2 d a.code b.code)
  | .fcmpF64Le p d a b => some (mkRaw p b.imm24 6 3 d a.code b.code)
  | .fcmpF64Gt p d a b => some (mkRaw p b.imm24 6 4 d a.code b.code)
  | .fcmpF64Ge p d a b => some (mkRaw p b.imm24 6 5 d a.code b.code)
  | .fcmpF64Un p d a b => some (mkRaw p b.imm24 6 6 d a.code b.code)
  | .fcmpF64Or p d a b => some (mkRaw p b.imm24 6 7 d a.code b.code)
  | .add p d a b => some (mkRaw p b.imm24 7 0 d a.code b.code)
  | .sub p d a b => some (mkRaw p b.imm24 7 1 d a.code b.code)
  | .mul p d a b => some (mkRaw p b.imm24 7 2 d a.code b.code)
  | .mulh p d a b => some (mkRaw p b.imm24 7 3 d a.code b.code)
  | .mulhN p d a b => some (mkRaw p b.imm24 7 4 d a.code b.code)
  | .min p d a b => some (mkRaw p b.imm24 7 5 d a.code b.code)
  | .max p d a b => some (mkRaw p b.imm24 7 6 d a.code b.code)
  | .minN p d a b => some (mkRaw p b.imm24 7 7 d a.code b.code)
  | .div p d a b => some (mkRaw p b.imm24 8 0 d a.code b.code)
  | .divN p d a b => some (mkRaw p b.imm24 8 1 d a.code b.code)
  | .rem p d a b => some (mkRaw p b.imm24 8 2 d a.code b.code)
  | .remN p d a b => some (mkRaw p b.imm24 8 3 d a.code b.code)
  | .maxN p d a b => some (mkRaw p b.imm24 8 4 d a.code b.code)
  | .abs p d a => some (mkRaw p none 8 5 d a.code 0)
  | .neg p d a => some (mkRaw p none 8 6 d a.code 0)
  | .mad p d a b => some (mkRaw p b.imm24 8 7 d a.code b.code)
  | .and p d a b => some (mkRaw p b.imm24 9 0 d a.code b.code)
  | .or p d a b => some (mkRaw p b.imm24 9 1 d a.code b.code)
  | .xor p d a b => some (mkRaw p b.imm24 9 2 d a.code b.code)
  | .andn p d a b => some (mkRaw p b.imm24 9 3 d a.code b.code)
  | .not p d a => some (mkRaw p none 9 4 d a.code 0)
  | .sel p d a b => some (mkRaw p b.imm24 9 5 d a.code b.code)
  | .mov p d a => some (mkRaw p none 9 6 d a.code 0)
  | .smov p d a => some (mkRaw p none 9 7 d a.code 0)
  | .smovHi p d a => some (mkRaw p none 9 7 d a.code 1)
  | .shl p d a b => some (mkRaw p b.imm24 10 0 d a.code b.code)
  | .shr p d a b => some (mkRaw p b.imm24 10 1 d a.code b.code)
  | .sra p d a b => some (mkRaw p b.imm24 10 2 d a.code b.code)
  | .popc p d a => some (mkRaw p none 10 3 d a.code 0)
  | .clz p d a => some (mkRaw p none 10 4 d a.code 0)
  | .brev p d a => some (mkRaw p none 10 5 d a.code 0)
  | .bfe p d a b => some (mkRaw p b.imm24 11 0 d a.code b.code)
  | .bfeN p d a b => some (mkRaw p b.imm24 11 1 d a.code b.code)
  | .bfi p d a b => some (mkRaw p b.imm24 11 2 d a.code b.code)
  | .perm p d a b => some (mkRaw p b.imm24 11 3 d a.code b.code)
  | .addI64 p d a b => some (mkRaw p b.imm24 12 0 d a.code b.code)
  | .subI64 p d a b => some (mkRaw p b.imm24 12 1 d a.code b.code)
  | .mulI64 p d a b => some (mkRaw p b.imm24 12 2 d a.code b.code)
  | .shlI64 p d a b => some (mkRaw p b.imm24 12 3 d a.code b.code)
  | .shrI64 p d a b => some (mkRaw p b.imm24 12 4 d a.code b.code)
  | .movI64 p d a => some (mkRaw p none 12 5 d a.code 0)
  | .fadd p d a b => some (mkRaw p b.imm24 13 0 d a.code b.code)
  | .fsub p d a b => some (mkRaw p b.imm24 13 1 d a.code b.code)
  | .fmul p d a b => some (mkRaw p b.imm24 13 2 d a.code b.code)
  | .ffma p d a b => some (mkRaw p b.imm24 13 3 d a.code b.code)
  | .fmin p d a b => some (mkRaw p b.imm24 13 4 d a.code b.code)
  | .fmax p d a b => some (mkRaw p b.imm24 13 5 d a.code b.code)
  | .fabs p d a => some (mkRaw p none 13 6 d a.code 0)
  | .fneg p d a => some (mkRaw p none 13 7 d a.code 0)
  | .faddF16x2 p d a b => some (mkRaw p b.imm24 14 0 d a.code b.code)
  | .fsubF16x2 p d a b => some (mkRaw p b.imm24 14 1 d a.code b.code)
  | .fmulF16x2 p d a b => some (mkRaw p b.imm24 14 2 d a.code b.code)
  | .ffmaF16x2 p d a b => some (mkRaw p b.imm24 14 3 d a.code b.code)
  | .fminF16x2 p d a b => some (mkRaw p b.imm24 14 4 d a.code b.code)
  | .fmaxF16x2 p d a b => some (mkRaw p b.imm24 14 5 d a.code b.code)
  | .fabsF16x2 p d a => some (mkRaw p none 14 6 d a.code 0)
  | .fnegF16x2 p d a => some (mkRaw p none 14 7 d a.code 0)
  | .faddBf16x2 p d a b => some (mkRaw p b.imm24 15 0 d a.code b.code)
  | .fsubBf16x2 p d a b => some (mkRaw p b.imm24 15 1 d a.code b.code)
  | .fmulBf16x2 p d a b => some (mkRaw p b.imm24 15 2 d a.code b.code)
  | .ffmaBf16x2 p d a b => some (mkRaw p b.imm24 15 3 d a.code b.code)
  | .fminBf16x2 p d a b => some (mkRaw p b.imm24 15 4 d a.code b.code)
  | .fmaxBf16x2 p d a b => some (mkRaw p b.imm24 15 5 d a.code b.code)
  | .fabsBf16x2 p d a => some (mkRaw p none 15 6 d a.code 0)
  | .fnegBf16x2 p d a => some (mkRaw p none 15 7 d a.code 0)
  | .faddF64 p d a b => some (mkRaw p b.imm24 16 0 d a.code b.code)
  | .fsubF64 p d a b => some (mkRaw p b.imm24 16 1 d a.code b.code)
  | .fmulF64 p d a b => some (mkRaw p b.imm24 16 2 d a.code b.code)
  | .ffmaF64 p d a b => some (mkRaw p b.imm24 16 3 d a.code b.code)
  | .fminF64 p d a b => some (mkRaw p b.imm24 16 4 d a.code b.code)
  | .fmaxF64 p d a b => some (mkRaw p b.imm24 16 5 d a.code b.code)
  | .fabsF64 p d a => some (mkRaw p none 16 6 d a.code 0)
  | .fnegF64 p d a => some (mkRaw p none 16 7 d a.code 0)
  | .frcp p d a => some (mkRaw p none 17 0 d a.code 0)
  | .frsq p d a => some (mkRaw p none 17 1 d a.code 0)
  | .fsqrt p d a => some (mkRaw p none 17 2 d a.code 0)
  | .fexp2 p d a => some (mkRaw p none 17 3 d a.code 0)
  | .flog2 p d a => some (mkRaw p none 17 4 d a.code 0)
  | .fdiv p d a b => some (mkRaw p b.imm24 17 5 d a.code b.code)
  | .frnd p d a => some (mkRaw p none 18 0 d a.code 0)
  | .fclass p d a b => some (mkRaw p b.imm24 18 1 d a.code b.code)
  | .fflag p d b => some (mkRaw p b.imm24 18 2 d 0 b.code)
  | .fscl p d a b => some (mkRaw p b.imm24 18 3 d a.code b.code)
  | .fdot2 p d a b => some (mkRaw p b.imm24 18 4 d a.code b.code)
  | .fdot4 p d a b => some (mkRaw p b.imm24 18 5 d a.code b.code)
  | .fdot8 p d a b => some (mkRaw p b.imm24 18 6 d a.code b.code)
  | .cvt p rc d a ty => some (mkRaw p none 19 rc d a.code ty)
  | .cvtnPk p d a fmt => some (mkRaw p none 20 0 d a.code fmt)
  | .cvtnUp p d a fmt => some (mkRaw p none 20 1 d a.code fmt)
  | .cvtnPk6 p d a fmt => some (mkRaw p none 20 2 d a.code fmt)
  | .cvtnUp6 p d a fmt => some (mkRaw p none 20 3 d a.code fmt)
  | .mxscale p d a fmt => some (mkRaw p none 20 4 d a.code fmt)
  | .shflI p d a b => some (mkRaw p b.imm24 21 0 d a.code b.code)
  | .shflX p d a b => some (mkRaw p b.imm24 21 1 d a.code b.code)
  | .shflD p d a b => some (mkRaw p b.imm24 21 2 d a.code b.code)
  | .bcast p d a b => some (mkRaw p b.imm24 21 3 d a.code b.code)
  | .redAdd p d a ty => some (mkRaw p none 21 4 d a.code (0#4 ++ ty ++ 0#2))
  | .redMin p d a ty => some (mkRaw p none 21 5 d a.code (0#4 ++ ty ++ 0#2))
  | .redMax p d a ty => some (mkRaw p none 21 6 d a.code (0#4 ++ ty ++ 0#2))
  | .scanAdd p d a excl ty => some (mkRaw p none 21 7 d a.code (0#3 ++ BitVec.ofBool excl ++ ty ++ 0#2))
  | .scanMin p d a excl ty => some (mkRaw p none 21 7 d a.code (0#3 ++ BitVec.ofBool excl ++ ty ++ 1#2))
  | .scanMax p d a excl ty => some (mkRaw p none 21 7 d a.code (0#3 ++ BitVec.ofBool excl ++ ty ++ 2#2))
  | .tatomWr p d tr b => some (mkRaw p b.imm24 22 0 d (0#4 ++ tr) b.code)
  | .tatomAdd p d tr b => some (mkRaw p b.imm24 22 1 d (0#4 ++ tr) b.code)
  | .tatomMax p d tr b => some (mkRaw p b.imm24 22 2 d (0#4 ++ tr) b.code)
  | .tatomCas p d tr b => some (mkRaw p b.imm24 22 3 d (0#4 ++ tr) b.code)
  | .sdq p d a => some (mkRaw p none 23 0 d a.code 0)
  | .sendx p d a => some (mkRaw p none 23 1 d a.code 0)
  | .qstatE p d q => some (mkRaw p none 23 2 d (0#4 ++ q) 0)
  | .qflushE p q => some (mkRaw p none 23 3 0 (0#4 ++ q) 0)
  | .qend p d q => some (mkRaw p none 23 4 d (0#4 ++ q) 0)
  | .feed p d a => some (mkRaw p none 24 0 d a.code 0)
  | .feedEnd p d a => some (mkRaw p none 24 1 d a.code 0)
  | .recvx p d q => some (mkRaw p none 24 2 d (0#6 ++ q) 0)
  | .qstatA p d q => some (mkRaw p none 24 3 d (0#4 ++ q) 0)
  | .qflushA p q => some (mkRaw p none 24 4 0 (0#4 ++ q) 0)
  | .ldqB8 p d a b => some (mkRaw p b.imm24 25 0 d a.code b.code)
  | .ldqB16 p d a b => some (mkRaw p b.imm24 25 1 d a.code b.code)
  | .ldqB32 p d a b => some (mkRaw p b.imm24 25 2 d a.code b.code)
  | .ldqB64 p d a b => some (mkRaw p b.imm24 25 3 d a.code b.code)
  | .ldqK16 p d a b => some (mkRaw p b.imm24 25 4 d a.code b.code)
  | .ldqLine p d a b => some (mkRaw p b.imm24 25 5 d a.code b.code)
  | .ldI8 p d a b => some (mkRaw p b.imm24 26 0 d a.code b.code)
  | .ldN8 p d a b => some (mkRaw p b.imm24 26 1 d a.code b.code)
  | .ldI16 p d a b => some (mkRaw p b.imm24 26 2 d a.code b.code)
  | .ldN16 p d a b => some (mkRaw p b.imm24 26 3 d a.code b.code)
  | .ldI32 p d a b => some (mkRaw p b.imm24 26 4 d a.code b.code)
  | .ldN32 p d a b => some (mkRaw p b.imm24 26 5 d a.code b.code)
  | .ldB64 p d a b => some (mkRaw p b.imm24 26 6 d a.code b.code)
  | .stB8 p d a b => some (mkRaw p b.imm24 27 0 d a.code b.code)
  | .stB16 p d a b => some (mkRaw p b.imm24 27 1 d a.code b.code)
  | .stB32 p d a b => some (mkRaw p b.imm24 27 2 d a.code b.code)
  | .stB64 p d a b => some (mkRaw p b.imm24 27 3 d a.code b.code)
  | .staB8 p d a b => some (mkRaw p b.imm24 27 4 d a.code b.code)
  | .staB16 p d a b => some (mkRaw p b.imm24 27 5 d a.code b.code)
  | .staB32 p d a b => some (mkRaw p b.imm24 27 6 d a.code b.code)
  | .staB64 p d a b => some (mkRaw p b.imm24 27 7 d a.code b.code)
  | .atomAdd p w d a b => some (mkRaw p b.imm24 28 0 (BitVec.ofBool w ++ 0#1 ++ d) a.code b.code)
  | .atomMin p w d a b => some (mkRaw p b.imm24 28 1 (BitVec.ofBool w ++ 0#1 ++ d) a.code b.code)
  | .atomMinN p w d a b => some (mkRaw p b.imm24 28 1 (BitVec.ofBool w ++ 1#1 ++ d) a.code b.code)
  | .atomMax p w d a b => some (mkRaw p b.imm24 28 2 (BitVec.ofBool w ++ 0#1 ++ d) a.code b.code)
  | .atomMaxN p w d a b => some (mkRaw p b.imm24 28 2 (BitVec.ofBool w ++ 1#1 ++ d) a.code b.code)
  | .atomAnd p w d a b => some (mkRaw p b.imm24 28 3 (BitVec.ofBool w ++ 0#1 ++ d) a.code b.code)
  | .atomOr p w d a b => some (mkRaw p b.imm24 28 4 (BitVec.ofBool w ++ 0#1 ++ d) a.code b.code)
  | .atomXor p w d a b => some (mkRaw p b.imm24 28 5 (BitVec.ofBool w ++ 0#1 ++ d) a.code b.code)
  | .atomXchg p w d a b => some (mkRaw p b.imm24 28 6 (BitVec.ofBool w ++ 0#1 ++ d) a.code b.code)
  | .cas p w d a b => some (mkRaw p b.imm24 28 7 (BitVec.ofBool w ++ 0#1 ++ d) a.code b.code)
  | .credAddI32 p d a b => some (mkRaw p b.imm24 29 0 d a.code b.code)
  | .credAddF32 p d a b => some (mkRaw p b.imm24 29 1 d a.code b.code)
  | .credMinI32 p d a b => some (mkRaw p b.imm24 29 2 d a.code b.code)
  | .credMaxI32 p d a b => some (mkRaw p b.imm24 29 3 d a.code b.code)
  | .credOrB32 p d a b => some (mkRaw p b.imm24 29 4 d a.code b.code)
  | .credAddI64 p d a b => some (mkRaw p b.imm24 29 5 d a.code b.code)
  | .credMaxF32 p d a b => some (mkRaw p b.imm24 29 6 d a.code b.code)
  | .fence p => some (mkRaw p none 30 0 0 0 0)
  | .pref p a b => some (mkRaw p b.imm24 30 1 0 a.code b.code)
  | .tgive p t => some (mkRaw p none 30 2 0 (0#2 ++ t) 0)
  | .tclaim p t => some (mkRaw p none 30 3 0 (0#2 ++ t) 0)
  | .tchk p d t => some (mkRaw p none 30 4 d (0#2 ++ t) 0)
  | .fopen p d a b => some (mkRaw p b.imm24 31 0 d a.code b.code)
  | .fadv p d q b => some (mkRaw p b.imm24 31 1 d (0#4 ++ q) b.code)
  | .fend p q => some (mkRaw p none 31 2 0 (0#4 ++ q) 0)
  | .fclose p q => some (mkRaw p none 31 3 0 (0#4 ++ q) 0)
  | .kins p d a b => some (mkRaw p b.imm24 32 0 d a.code b.code)
  | .kget p d a b => some (mkRaw p b.imm24 32 1 d a.code b.code)
  | .ringClaim p d b => some (mkRaw p b.imm24 32 2 d 0 b.code)
  | .ringPost p a b => some (mkRaw p b.imm24 32 3 0 a.code b.code)
  | .ringTake p d b => some (mkRaw p b.imm24 32 4 d 0 b.code)
  | .ringFree p a b => some (mkRaw p b.imm24 32 5 0 a.code b.code)
  | .kick p d a b => some (mkRaw p b.imm24 33 0 d a.code b.code)
  | .mbinit p d a b => some (mkRaw p b.imm24 33 1 d a.code b.code)
  | .mbexp p d a b => some (mkRaw p b.imm24 33 2 d a.code b.code)
  | .mbarr p a b => some (mkRaw p b.imm24 33 3 0 a.code b.code)
  | .mbwait p d a b => some (mkRaw p b.imm24 33 4 d a.code b.code)
  | .xform p d a b => some (mkRaw p b.imm24 33 5 d a.code b.code)
  | .arrive p nb b => some (mkRaw p b.imm24 34 0 0 (0#4 ++ nb) b.code)
  | .arwait p nb b => some (mkRaw p b.imm24 34 1 0 (0#4 ++ nb) b.code)
  | .bwait p nb => some (mkRaw p none 34 2 0 (0#4 ++ nb) 0)
  | .ngetB32 p d a b => some (mkRaw p b.imm24 35 0 d a.code b.code)
  | .nsend p a b => some (mkRaw p b.imm24 35 1 0 a.code b.code)
  | .nfence p => some (mkRaw p none 35 2 0 0 0)
  | .kvlk p d a => some (mkRaw p none 36 0 d a.code 0)
  | .kvins p d a b => some (mkRaw p b.imm24 36 1 d a.code b.code)
  | .kvdel p d a => some (mkRaw p none 36 2 d a.code 0)
  | .kvref p d a b => some (mkRaw p b.imm24 36 3 d a.code b.code)
  | .kvpos p d a b => some (mkRaw p b.imm24 36 4 d a.code b.code)
  | .kvq p d a b => some (mkRaw p b.imm24 36 5 d a.code b.code)
  | .mcv p d a => some (mkRaw p none 37 0 d a.code 0)
  | .mma p m => some (mmaRaw p 0 m)
  | .mmaMinplus p m => some (mmaRaw p 1 m)
  | .mmaMaxtimes p m => some (mmaRaw p 2 m)
  | .mmaOrand p m => some (mmaRaw p 3 m)
  | .mmaStage p m => some (mmaRaw p 0 m)
  | .mzero p d => some (mkRaw p none 37 2 d 0 0)
  | .mrdF32 p d t h i => some (mkRaw p none 37 3 d (0#3 ++ BitVec.ofBool i ++ BitVec.ofBool h ++ t) 0)
  | .mrdSt p d t i => some (mkRaw p none 37 3 d (1#3 ++ BitVec.ofBool i ++ 0#1 ++ t) 0)
  | .mwrF32 p d t h i => some (mkRaw p none 37 4 d (0#3 ++ BitVec.ofBool i ++ BitVec.ofBool h ++ t) 0)
  | .mwrSt p d t i => some (mkRaw p none 37 4 d (1#3 ++ BitVec.ofBool i ++ 0#1 ++ t) 0)
  | .mcont p a => some (mkRaw p none 37 5 0 a.code 0)
  | .mscl p d az b => some (mkRaw p none 37 6 d (0#5 ++ az) b)
  | .smx p d a b => some (mkRaw p none 38 0 d a.code b)
  | .smrg p d aS => some (mkRaw p none 38 1 d (0#5 ++ aS) 0)
  | .smfin p d => some (mkRaw p none 38 2 d 0 0)
  | .tenq p a => some (mkRaw p none 39 0 0 a.code 0)
  | .vabort p d a => some (mkRaw p none 39 1 d a.code 0)
  | .tstamp p d => some (mkRaw p none 39 2 d 0 0)
  | .rdsr p d n => some (mkRaw p none 39 3 d (0#1 ++ n) 0)
  | .wrsr p n a => some (mkRaw p none 39 4 n a.code 0)
  | .tlbi p a => some (mkRaw p none 39 5 0 a.code 0)
  | .tlbiAll p => some (mkRaw p none 39 5 0 0 1)
  | .mcallTelemetry p d b => some (mkRaw p b.imm24 39 6 d 0 b.code)
  | .mcallLocate p d => some (mkRaw p none 39 6 d 1 0)
  | .mcallPeer p d b => some (mkRaw p b.imm24 39 6 d 2 b.code)
  | .reconvergenceTimeout _ _ => none
  | .binAgeDraw _ _ => none
  | .yieldExpiry _ _ => none
  | .taskEnded _ => none
  | .drain _ _ => none
  | .merge _ _ => none
  | .ldqFill _ _ _ => none
  | .translationComplete _ _ => none
  | .pendingFaultDelivery _ _ => none
  | .queueDeadlock _ _ => none
  | .streamElement _ _ _ => none
  | .mmaComplete _ => none
  | .bearCommandComplete _ => none
  | .bearFault _ _ => none
  | .copyRow _ => none
  | .settPairPass _ _ => none
  | .returnMerge _ => none
  | .kvqComplete _ => none
  | .kvqFail _ => none
  | .nsendRow _ => none
  | .rowAck _ => none
  | .remoteRowArrival _ => none
  | .remoteTimeout _ => none
  | .remoteRead _ _ _ => none
  | .ngetResponse _ _ _ _ => none
  | .mcallAnswer _ _ => none
  | .expertStarved _ _ => none
  | .breakpointMatch _ _ => none
  | .resume _ => none
  | .stepGroup _ _ => none
  | .submit _ _ => none
  | .registerWrite _ _ _ _ => none
  | .hostApertureWrite _ _ _ => none
  | .hostApertureRead _ _ _ => none
  | .commit _ => none
  | .successorDecrement _ => none
  | .bindRecord _ _ _ => none
  | .teamStart _ => none
  | .eviction _ _ => none
  | .groupSave _ _ => none
  | .thermalMigration _ => none
  | .lentTileDrain _ => none
  | .l2WriteBack _ _ => none
  | .scrubError _ _ => none
  | .dirtyHarvest _ _ => none
  | .swapOut _ => none
  | .swapIn _ => none
  | .migrationRound _ => none
  | .precopyFrame _ _ _ _ => none
  | .partitionHeader _ => none
  | .teamContext _ _ => none
  | .taskRecord _ _ => none
  | .bearContinuation _ _ => none
  | .lynxFlows _ => none
  | .timeRecord _ => none
  | .telemetryRingTail _ => none
  | .bearCheckStatistics _ => none
  | .endOfImage _ => none
  | .unknownRecord _ _ => none
  | .quote _ _ => none
  | .ecideHandover _ _ => none
  | .partitionCreate _ _ => none
  | .partitionResize _ _ _ => none
  | .partitionDelete _ => none
  | .coreRetirement _ => none
  | .pseudoChannelRetirement _ _ => none
  | .lynxLaneDegrade _ _ => none
  | .pcieDegrade _ => none
  | .hbmRecalibration _ _ => none
  | .powerCap _ => none
  | .coolantOverLimit => none
  | .powerGood _ => none
  | .powerRemoved => none
  | .decodeFault _ => none
  | .gtcIncrement => none
  | .hostStoreCompletion _ _ => none
  | .remoteRefused _ => none
  | .imageRefused _ _ => none
  | .tilraxDbgSession _ _ => none

/-- The word of a VX prefix (Table 2-6). -/
def Vx.word (v : Vx) : Word :=
  63#6 ++ 0#2 ++ v.mask ++ BitVec.ofBool v.zero ++ v.rc ++ v.c ++ BitVec.ofBool v.neg ++ 0#4

/-- The word of an IMX prefix (Table 2-7). -/
def imxWord (v : BitVec 24) : Word := 63#6 ++ 1#2 ++ v

/-- The word of an MXA prefix (Table 2-8a). -/
def Mxa.word (m : Mxa) : Word :=
  63#6 ++ 2#2 ++ m.obs ++ m.order ++ m.hint ++ BitVec.ofBool m.rope ++ 0#13

/-- The final word (Table 2-3). -/
def Raw.word (r : Raw) : Word := r.m ++ r.f ++ r.d ++ r.a ++ r.b

/-- The words of the fields, prefixes first (R35). -/
def Raw.words (r : Raw) : List Word :=
  (r.vx.map Vx.word).toList ++ (r.imx.map imxWord).toList ++ (r.mxa.map Mxa.word).toList ++ [r.word]

/-- The words of an instruction; an event has none. -/
def encode (i : Instr) : List Word :=
  match toRaw i with
  | some r => r.words
  | none => []

/-- The first n words of a number, the least significant first. -/
def wordsOf : Nat → Nat → List Word
  | 0, _ => []
  | n + 1, w => BitVec.ofNat 32 w :: wordsOf n (w / 2 ^ 32)

/-- The words up to and with the first that is no prefix. -/
def takeInstr : List Word → List Word
  | [] => []
  | w :: ws => if opM w == 63 then w :: takeInstr ws else [w]

/-- The instruction this decoder reads from the bits of a word of the opcode table: four words, the first given, the rest
zero above nbits. -/
noncomputable def decodeTableWord (nbits w : Nat) : Option Instr :=
  match decodeSeq (takeInstr (wordsOf 4 (w % 2 ^ nbits))) with
  | .ok i => some i
  | .error _ => none

end Sys2Proof
end

