-- ==== Sys2Proof/Machine/Access.lean ====
section
/-! DEFINITION. Reading and changing the parts of the state: threads, pairs, groups, teams, cores, partitions and tasks. -/

namespace Sys2Proof.Machine

/-- The key of a thread: team, side and thread index. -/
def tkey (tm : Nat) (sd : Side) (t : Nat) : Nat := tm * 2048 + sd.num * 1024 + t
/-- The key of a pair: team and thread index (R64). -/
def pkey (tm t : Nat) : Nat := tm * 1024 + t
/-- Thread index of a thread's key. -/
def keyIx (k : Nat) : Nat := k % 1024
/-- Team of a thread's key. -/
def keyTm (k : Nat) : Nat := k / 2048
/-- Side of a thread's key. -/
def keySide (k : Nat) : Side := if (k / 1024) % 2 = 0 then .e else .a

/-- Handler registers of a thread that has met no fault (log 2). -/
def noHandler : HRegs :=
  { cause := .none, done := false, defer := false, fpc := 0, fhdr := 0, faddr := 0, fgtc := 0, other := 0, otask := 0,
    fcount := 0, hscr := 0, progressed := true, byMatch := false, place := none }

/-- A thread with every register 0 (R67). -/
def freshThread (slot lane : Nat) (gen : DWord) : Thread :=
  { v := [], x := [], preds := 0, slot := slot, lane := lane, exited := false, park := .none, gen := gen, flags := 0,
    mode := 0, rstack := [], h := noHandler, passOnce := none, deferred := [], clk := [], sb := [], out := [],
    since := none, bad := [] }

/-- A pair with empty queues (R67, R113). -/
def freshPair : Pair :=
  { q := [], rq := [], sq := [], flights := [], afull := 0, eempty := 0, awaitrq := 0, nrecv := 0 }

/-- An empty data queue. -/
def freshQueue : Queue := { places := [], flushed := false, endSeen := false, stream := none }

/-- A barrier in phase 0 with no arrivals (R67). -/
def freshBarrier (exp : Option Nat) : Barrier := { phase := 0, arrived := 0, expected := exp, who := [], clk := [] }

/-- A core after reset: `sr.age` 64 (Table 3-4), nothing granted. -/
def freshCore : Core :=
  { part := none, age := 64, bins := [], filing := [], table := [], bear := [], upd := [], lent := [], needs := [], absent := false,
    lastE := 0, lastA := 0, foxUntil := 0 }

/-- An accumulator tile as after `mzero` (R238, R373). -/
def freshAcc : AccTile := { elem := [], m := [], l := [], empty := 0, flags := 0, shadow := none }

/-- A convergence register with nothing declared or signed (R222). -/
def freshCv : Cv := { declared := [], first := none, signed := [], clk := [] }

/-- A rejoin mask with both sets empty (R74). -/
def freshJMask : JMask := { enrolled := 0, arrived := 0, clk := [] }

/-- A register that has not been written (R67). -/
def freshUReg (v : DWord) : UReg := { cur := v, hist := [] }

/-- No partition configuration. -/
def noCfg : PartCfg :=
  { cores := [], grant := [], share := 0, ptroot := 0, htab := 0, verWays := 0, shadowWays := 0, telCap := 0, peers := [],
    windows := [], rings := [], threshold := 0 }

/-- A partition as Ecide creates it (R307): system registers at their reset values (Tables 8-9, 13-9, 14-2, 18-6, 23-4). -/
def freshPart (cfg : PartCfg) : Part :=
  { cfg := cfg, mode := .active, ptroot := cfg.ptroot, htab := cfg.htab, seed := 0, minres := 2000, eddl := 0,
    bchk := 0x10A, kvfreq := 0, kvsalt := 0, kvdir := 0, bp := [], subDropped := 0, subTaken := 0, apbase := 0,
    telHead := 0, telTail := 0, tel := [], flows := [], rflows := [], debug := false, mzeros := 0, dirty := [],
    l2dirty := [], toSend := [], round := 0, migrating := false, named := 0, session := 0, frames := 0, fails := 0, image := [], srcGtc := none }

/-- A team that does not exist. -/
def noTeam : Team :=
  { part := 0, task := 0, no := 0, cluster := 0, rank := 0, core := 0, slots := [], tpg := 0, gpt := 0,
    lim := { vregs := 0, xregs := 0, nq := 0, depth := 0, tiles := 0, accs := 0 }, tbase := 0, abase := 0, qbase := 0,
    mode := .placed, sE := [], sA := [], tr := [], jm := [], nb := [], cv := [], accs := [], owner := 0, gives := [], flips := [],
    absent := [], lineClk := [], scratch := [], mcb := 0, since := 0, born := 0, stepping := [], evicted := [], savedBins := [] }

/-- A group that does not exist. -/
def noGroup : Group :=
  { tm := 0, side := .e, slot := 0, members := [], pc := 0, hdr := 0, len := 0, entering := false, priv := false, stack := [],
    lastIssue := 0, readyAt := 0, yielded := none, saved := false }

/-- A task that does not exist. -/
def noTask : Task :=
  { part := 0, pa := 0, va := 0, codeA := 0, codeE := 0, args := 0, argv := [], cw := 1, ch := 1, tpg := 0, gpt := 0,
    teams := 0, lim := { vregs := 0, xregs := 0, nq := 0, depth := 0, tiles := 0, accs := 0 }, preempt := false,
    migr := false, vers := false, prio := 0, budget := 0, taskId := 0, state := 0, deps := 0, tenq := 0, source := 0, order := 0,
    bound := 0, retired := 0, strong := 0, ver := [], vlines := [], oldCode := [], clk := [], succs := [] }

/-- A thread of the state. -/
def State.thr (s : State) (k : Nat) : Thread := kgetD s.threads k (freshThread 0 0 0)
/-- Changes a thread. -/
def State.modThr (s : State) (k : Nat) (f : Thread → Thread) : State :=
  { s with threads := kput s.threads k (f (s.thr k)) }
/-- A pair of the state. -/
def State.pair (s : State) (k : Nat) : Pair := kgetD s.pairs k freshPair
/-- Changes a pair. -/
def State.modPair (s : State) (k : Nat) (f : Pair → Pair) : State :=
  { s with pairs := kput s.pairs k (f (s.pair k)) }
/-- A group of the state. -/
def State.grp (s : State) (g : Nat) : Group := kgetD s.groups g noGroup
/-- Changes a group that exists. -/
def State.modGrp (s : State) (g : Nat) (f : Group → Group) : State := { s with groups := kmod s.groups g f }
/-- A team of the state. -/
def State.team (s : State) (n : Nat) : Team := kgetD s.teams n noTeam
/-- Changes a team that exists. -/
def State.modTeam (s : State) (n : Nat) (f : Team → Team) : State := { s with teams := kmod s.teams n f }
/-- A task of the state. -/
def State.task (s : State) (n : Nat) : Task := kgetD s.tasks n noTask
/-- Changes a task that exists. -/
def State.modTask (s : State) (n : Nat) (f : Task → Task) : State := { s with tasks := kmod s.tasks n f }
/-- A core of the state. -/
def State.core (s : State) (n : Nat) : Core := kgetD s.cores n freshCore
/-- Changes a core. -/
def State.modCore (s : State) (n : Nat) (f : Core → Core) : State := { s with cores := kput s.cores n (f (s.core n)) }
/-- A partition of the state. -/
def State.part (s : State) (n : Nat) : Part := kgetD s.parts n (freshPart noCfg)
/-- Changes a partition that exists. -/
def State.modPart (s : State) (n : Nat) (f : Part → Part) : State := { s with parts := kmod s.parts n f }

/-- The partition of a team. -/
def State.partOf (s : State) (tm : Nat) : Nat := (s.team tm).part

/-- A number for a new group or request. -/
def State.fresh (s : State) : Nat := s.nextId
/-- The number is handed out. -/
def State.bump (s : State) : State := { s with nextId := s.nextId + 1 }

/-- One of n permitted outcomes, by the free choice (log 3): site tells the choices of one step apart. With one outcome there
is no choice. Every step of the machine advances the counter. -/
def State.choose (s : State) (site n : Nat) : Nat := if n ≤ 1 then 0 else Config.pick (s.tick * 2 ^ 96 + site) n % n

/-- Predicate p of a thread; p0 reads 1 (R39). -/
def Thread.pred (t : Thread) (n : Nat) : Bool := n == 0 || t.preds.getLsbD n
/-- Writes a predicate; a write of p0 is discarded (R39). -/
def Thread.setPred (t : Thread) (n : Nat) (b : Bool) : Thread :=
  if n = 0 then t else { t with preds := setBit t.preds n b }
/-- A v register. -/
def Thread.getV (t : Thread) (n : Nat) : Word := kgetD t.v n 0
/-- Writes a v register; an error in it is gone. -/
def Thread.setV (t : Thread) (n : Nat) (w : Word) : Thread := { t with v := kput t.v n w, bad := t.bad.filter (· != n) }
/-- An even/odd pair of v registers, low word in the even one (R45). -/
def Thread.getVV (t : Thread) (n : Nat) : DWord := t.getV (n + 1) ++ t.getV n
/-- Writes a pair of v registers (R45). -/
def Thread.setVV (t : Thread) (n : Nat) (w : DWord) : Thread :=
  (t.setV n (w.extractLsb' 0 32)).setV (n + 1) (w.extractLsb' 32 32)
/-- An x register. -/
def Thread.getX (t : Thread) (n : Nat) : DWord := kgetD t.x n 0
/-- Writes an x register; an error in it is gone. -/
def Thread.setX (t : Thread) (n : Nat) (w : DWord) : Thread := { t with x := kput t.x n w, bad := t.bad.filter (· != n) }
/-- Reading registers of a thread: INTEGRITY where one of them holds an uncorrectable error, with address 0 (R131). -/
def Thread.soundRegs (t : Thread) (l : List Nat) : Try Unit :=
  if l.any (fun n => t.bad.contains n) then .trap .integrity 0 else .ok ()
/-- Sets flags: an operation sets and never clears (R162). -/
def Thread.orFlags (t : Thread) (f : BitVec 5) : Thread := { t with flags := t.flags ||| f }

/-- A data queue of a pair. -/
def Pair.queue (p : Pair) (n : Nat) : Queue := kgetD p.q n freshQueue
/-- Changes a data queue. -/
def Pair.setQ (p : Pair) (n : Nat) (q : Queue) : Pair := { p with q := kput p.q n q }
/-- A return queue. -/
def Pair.getRq (p : Pair) (n : Nat) : List Elem := kgetD p.rq n []
/-- Changes a return queue. -/
def Pair.setRq (p : Pair) (n : Nat) (l : List Elem) : Pair := { p with rq := kput p.rq n l }
/-- A store-data queue. -/
def Pair.getSq (p : Pair) (n : Nat) : List Elem := kgetD p.sq n []
/-- Changes a store-data queue. -/
def Pair.setSq (p : Pair) (n : Nat) (l : List Elem) : Pair := { p with sq := kput p.sq n l }

/-- The s registers of a side (R68). -/
def Team.sregs (t : Team) (sd : Side) : KMap UReg := match sd with | .e => t.sE | .a => t.sA
/-- Group slots a team holds: those of groups that have not been evicted (R184). -/
def Team.held (t : Team) : List Nat := (t.slots.zipIdx.filter (fun e => !t.evicted.contains e.2)).map (·.1)
/-- An accumulator tile. -/
def Team.accTile (t : Team) (n : Nat) : AccTile := kgetD t.accs n freshAcc
/-- A rejoin mask. -/
def Team.jmask (t : Team) (n : Nat) : JMask := kgetD t.jm n freshJMask
/-- A named barrier nb1 to nb14. -/
def Team.barrier (t : Team) (n : Nat) : Barrier := kgetD t.nb n (freshBarrier none)
/-- A convergence register. -/
def Team.cvReg (t : Team) (n : Nat) : Cv := kgetD t.cv n freshCv

/-- The physical index of a logical core (R10): the columns skip the row's spare, which stands in for a retired core
(R11). It is the source number of the core (R9, R12). -/
def State.srcCore (s : State) (n : Nat) : Nat :=
  let row := n / 15
  let col := n % 15
  let sp := kgetD s.fuses.spareCol row 15
  16 * row + (if s.spareUsed.contains n then sp else if col < sp then col else col + 1)

/-- The home Sett of a physical address in HBM (R127). -/
def homeSett (pa : Nat) : Nat :=
  256 + (bitsOf pa 12 6 ^^^ bitsOf pa 18 6 ^^^ bitsOf pa 24 6 ^^^ bitsOf pa 30 6 ^^^ bitsOf pa 36 4)

/-- Live threads of a team on a side. -/
def State.liveOf (s : State) (tm : Nat) (sd : Side) : List Nat :=
  (List.range ((s.team tm).gpt * (s.team tm).tpg)).filter (fun t => !(s.thr (tkey tm sd t)).exited)

/-- The partner thread of a thread (R64). -/
def partner (k : Nat) : Nat := tkey (keyTm k) (keySide k).other (keyIx k)

/-- The pair of a thread. -/
def pairOf (k : Nat) : Nat := pkey (keyTm k) (keyIx k)

/-- Writes a telemetry record to a partition's ring, unless it is full (R307, R370). -/
def State.telemetry (s : State) (p : Nat) (r : TelRec) : State :=
  s.modPart p (fun q =>
    if q.tel.length < q.cfg.telCap then { q with tel := q.tel ++ [r], telHead := q.telHead + 1 } else q)

/-- A record that names a cause: its type is not numbered by the spec (log 31). -/
def State.causeRec (s : State) (source : Nat) (cause : Nat) (v w : DWord) : TelRec :=
  { gtc := s.gtc, w1 := BitVec.ofNat 16 source ++ Config.telemetryType cause ++ BitVec.ofNat 8 cause ++ 0#32, w2 := v, w3 := w }

end Sys2Proof.Machine
end

