-- ==== Sys2Proof/Machine/Float.lean ====
section
/-! DEFINITION. Number formats and rounding (chapter 07): decoding of every format to an exact value, the seven roundings,
and delivery with overflow, gradual underflow and flushing. Exact values are dyadic: sign, magnitude m and exponent e,
worth m × 2^e. -/

namespace Sys2Proof.Machine

/-- A floating or narrow format (R149, R151, R152, R154). -/
inductive Fm where
  | f64
  | f32
  | f16
  | bf16
  | fx40
  | b8 (p : Nat) (uns fin : Bool)
  | fp4
  | fp6a
  | fp6b
  | fp8a
  | fp8b
  | e8m0
deriving DecidableEq, Repr

/-- An exact value, an infinity or a NaN (quiet or signalling). -/
inductive FVal where
  | nan (sig : Bool)
  | inf (neg : Bool)
  | fin (neg : Bool) (m : Nat) (e : Int)
deriving DecidableEq, Repr, Inhabited

/-- The format class that FIZ and FRZ name (Table 7-7). -/
inductive FClass where
  | d
  | s
  | h
  | n
deriving DecidableEq, Repr

/-- Width of a code in bits. -/
def Fm.width : Fm → Nat
  | .f64 => 64 | .f32 => 32 | .f16 => 16 | .bf16 => 16 | .fx40 => 40 | .b8 .. => 8
  | .fp4 => 4 | .fp6a => 6 | .fp6b => 6 | .fp8a => 8 | .fp8b => 8 | .e8m0 => 8

/-- Stored fraction bits. -/
def Fm.fbits : Fm → Nat
  | .f64 => 52 | .f32 => 23 | .f16 => 10 | .bf16 => 7 | .fx40 => 31 | .b8 p _ _ => p - 1
  | .fp4 => 1 | .fp6a => 3 | .fp6b => 2 | .fp8a => 3 | .fp8b => 2 | .e8m0 => 0

/-- Exponent bias. -/
def Fm.bias : Fm → Nat
  | .f64 => 1023 | .f32 => 127 | .f16 => 15 | .bf16 => 127 | .fx40 => 127
  | .b8 p uns _ => 2 ^ ((if uns then 9 - p else 8 - p) - 1)
  | .fp4 => 1 | .fp6a => 1 | .fp6b => 3 | .fp8a => 7 | .fp8b => 15 | .e8m0 => 127

/-- Whether the format has a sign bit. -/
def Fm.signed : Fm → Bool
  | .b8 _ uns _ => !uns
  | .e8m0 => false
  | _ => true

/-- Whether −0 is kept (R153, R154). -/
def Fm.negZero : Fm → Bool
  | .b8 .. => false
  | .e8m0 => false
  | _ => true

/-- The class of a format (Table 7-7). -/
def Fm.cls : Fm → FClass
  | .f64 => .d | .f32 => .s | .fx40 => .s | .f16 => .h | .bf16 => .h | _ => .n

/-- Exponent field bits. -/
def Fm.ebits (f : Fm) : Nat := f.width - f.fbits - (if f.signed then 1 else 0)

/-- Code of the largest positive finite value (Tables 7-2, 7-3, 7-4). -/
def Fm.maxCode : Fm → Nat
  | .b8 _ uns fin => match uns, fin with
    | false, false => 0x7E | false, true => 0x7F | true, false => 0xFD | true, true => 0xFE
  | .fp4 => 0x7 | .fp6a => 0x1F | .fp6b => 0x1F | .fp8a => 0x7E | .fp8b => 0x7B | .e8m0 => 0xFE
  | f => (2 ^ f.ebits - 1) * 2 ^ f.fbits - 1

/-- Code of +∞, where the format has one. -/
def Fm.infCode : Fm → Option Nat
  | .b8 _ uns fin => if fin then none else if uns then some 0xFE else some 0x7F
  | .fp4 => none | .fp6a => none | .fp6b => none | .fp8a => none | .fp8b => some 0x7C | .e8m0 => none
  | f => some ((2 ^ f.ebits - 1) * 2 ^ f.fbits)

/-- Code of the canonical NaN, where the format has one (R150, Tables 7-2 and 7-4). Of the several NaN codes of fp8a and fp8b
the spec names none canonical: 0x7F and 0x7E (log 111, DESIGN CHOICE). -/
def Fm.nanCode : Fm → Option Nat
  | .b8 _ uns _ => if uns then some 0xFF else some 0x80
  | .fp4 => none | .fp6a => none | .fp6b => none | .fp8a => some 0x7F | .fp8b => some 0x7E | .e8m0 => some 0xFF
  | f => some ((2 ^ f.ebits - 1) * 2 ^ f.fbits + 2 ^ (f.fbits - 1))

/-- The finite value that the fields of a code give (R149, R151, R152, R154). -/
def Fm.plain (f : Fm) (c : Nat) : FVal :=
  let fr := c % 2 ^ f.fbits
  let ex := (c / 2 ^ f.fbits) % 2 ^ f.ebits
  let neg := f.signed && (c / 2 ^ (f.width - 1)) % 2 == 1
  if f = .e8m0 then .fin false 1 ((c : Int) - 127)
  else if ex = 0 then .fin neg fr (1 - (f.bias : Int) - f.fbits)
  else .fin neg (2 ^ f.fbits + fr) ((ex : Int) - f.bias - f.fbits)

/-- The value of a code. -/
def Fm.decode (f : Fm) (c : Nat) : FVal :=
  match f with
  | .b8 _ uns fin =>
    if uns then
      if c = 0xFF then .nan false else if c = 0xFE && !fin then .inf false else f.plain c
    else
      if c = 0x80 then .nan false
      else if c = 0x7F && !fin then .inf false
      else if c = 0xFF && !fin then .inf true
      else f.plain c
  | .fp4 => f.plain c
  | .fp6a => f.plain c
  | .fp6b => f.plain c
  | .fp8a => if c % 128 = 0x7F then .nan false else f.plain c
  | .fp8b => if c % 128 = 0x7C then .inf (c ≥ 128) else if c % 128 > 0x7C then .nan false else f.plain c
  | .e8m0 => if c = 0xFF then .nan false else f.plain c
  | _ =>
    let fr := c % 2 ^ f.fbits
    if (c / 2 ^ f.fbits) % 2 ^ f.ebits = 2 ^ f.ebits - 1 then
      if fr = 0 then .inf ((c / 2 ^ (f.width - 1)) % 2 == 1) else .nan (fr < 2 ^ (f.fbits - 1))
    else f.plain c

/-- The code with a sign put on a nonnegative code. -/
def Fm.sign (f : Fm) (neg : Bool) (c : Nat) : Nat :=
  if neg && f.signed then (if c = 0 && !f.negZero then 0 else c + 2 ^ (f.width - 1)) else c

/-- The code of ±∞ or, without one, the largest finite; 0 for −∞ into an unsigned format (Table 7-10). -/
def Fm.infOrMax (f : Fm) (neg : Bool) : Nat :=
  if neg && !f.signed then 0 else f.sign neg (f.infCode.getD f.maxCode)

/-- ±largest finite; 0 for a negative into an unsigned format (Table 7-10). -/
def Fm.maxFin (f : Fm) (neg : Bool) : Nat := if neg && !f.signed then 0 else f.sign neg f.maxCode

/-- Exponent of the least significant bit of the smallest normal. -/
def Fm.qmin (f : Fm) : Int := if f = .e8m0 then -127 else 1 - (f.bias : Int) - f.fbits

/-- The bits of a flag word (Table 7-9). -/
def flNX : BitVec 5 := 1
/-- Underflow. -/
def flUF : BitVec 5 := 2
/-- Overflow. -/
def flOF : BitVec 5 := 4
/-- Divide by zero. -/
def flDZ : BitVec 5 := 8
/-- Invalid. -/
def flNV : BitVec 5 := 16

/-- Whether a magnitude a × 2^e is less than b × 2^g. -/
def magLt (a : Nat) (e : Int) (b : Nat) (g : Int) : Bool :=
  if e ≤ g then decide (a < b * 2 ^ (g - e).toNat) else decide (a * 2 ^ (e - g).toNat < b)

/-- Floor of the fraction beyond a cut, in units of 2^−16 (R158): rem of sh bits. -/
def frac16 (rem sh : Nat) : Nat := if sh ≤ 16 then rem * 2 ^ (16 - sh) else rem / 2 ^ (sh - 16)

/-- Whether the magnitude above is delivered, from the magnitude below `lo`, the cut-off part `rem` of `sh` bits, and
whether `lo` counts as even (R157, R158). Code 6, rod, is set apart by the caller. -/
def roundsUp (rc : Nat) (neg : Bool) (even : Bool) (rem sh draw : Nat) : Bool :=
  match rc with
  | 0 => decide (2 ^ sh < 2 * rem) || (decide (2 ^ sh = 2 * rem) && !even)
  | 1 => false
  | 2 => !neg && decide (rem ≠ 0)
  | 3 => neg && decide (rem ≠ 0)
  | 4 => decide (2 ^ sh ≤ 2 * rem)
  | 5 => decide (draw < frac16 rem sh)
  | _ => false

/-- Rounds a magnitude m × 2^e to a multiple of 2^q: the multiple and whether the rounding is inexact. `fm` gives the parity
rules of one-bit precisions: the code decides evenness and rod there (R157). -/
def roundAt (f : Fm) (rc : Nat) (neg : Bool) (m : Nat) (e q : Int) (draw : Nat) : Nat × Bool :=
  if q ≤ e then (m * 2 ^ (e - q).toNat, false)
  else
    let sh := (q - e).toNat
    let lo := m / 2 ^ sh
    let rem := m % 2 ^ sh
    let codeEven := if f.fbits = 0 then (lo == 0 || (q + f.bias) % 2 == 0) else lo % 2 == 0
    if rc = 6 then
      let lo' := if rem = 0 || !codeEven then lo else if f.fbits = 0 then (if lo = 0 then 1 else 2 * lo) else lo + 1
      (lo', decide (rem ≠ 0))
    else (if roundsUp rc neg codeEven rem sh draw then lo + 1 else lo, decide (rem ≠ 0))

/-- The code of a nonnegative mant × 2^q that the format represents: mant of at most fbits + 1 bits, or the next power. -/
def Fm.encode (f : Fm) (mant : Nat) (q : Int) : Nat :=
  let p1 := 2 ^ f.fbits
  if f = .e8m0 then (q + 127 + (if mant ≥ 2 then 1 else 0)).toNat
  else if mant < p1 then mant
  else if mant < 2 * p1 then (q + f.fbits + f.bias).toNat * p1 + (mant - p1)
  else (q + f.fbits + f.bias + 1).toNat * p1 + (mant / 2 - p1)

/-- The exponent q at which a magnitude is cut with the exponent unbounded. -/
def cutAt (f : Fm) (m : Nat) (e : Int) : Int := (Nat.log2 m : Int) + e - f.fbits

/-- The IEEE overflow result under a rounding code (R165). -/
def Fm.overflow (f : Fm) (rc : Nat) (neg : Bool) : Nat :=
  match rc with
  | 1 => f.maxFin neg
  | 6 => f.maxFin neg
  | 2 => if neg then f.maxFin neg else f.infOrMax neg
  | 3 => if neg then f.infOrMax neg else f.maxFin neg
  | _ => f.infOrMax neg

/-- What a rounding delivers: the code, the flags, and what happened (tiny with loss, or beyond the largest finite). -/
structure Rounded where
  code : Nat
  flags : BitVec 5
  overflowed : Bool
  underflowed : Bool
deriving DecidableEq, Repr

/-- Whether a value lies beyond the largest finite of the format. -/
def Fm.exceeds (f : Fm) (mant : Nat) (q : Int) : Bool :=
  match f.plain f.maxCode with
  | .fin _ mm me => magLt mm me mant q
  | _ => false

/-- round_F of an exact value with gradual underflow (R157, R162): OF, UF and NX as R162 defines them. -/
def Fm.round (f : Fm) (rc : Nat) (neg : Bool) (m : Nat) (e : Int) (draw : Nat) : Rounded :=
  if m = 0 then { code := f.sign neg 0, flags := 0, overflowed := false, underflowed := false }
  else
    let qu := cutAt f m e
    let (mu, iu) := roundAt f rc neg m e qu draw
    if f.exceeds mu qu then { code := f.overflow rc neg, flags := flOF ||| flNX, overflowed := true, underflowed := false }
    else if qu < f.qmin then
      let (mg, ig) := roundAt f rc neg m e f.qmin draw
      let tiny := magLt mu qu (2 ^ f.fbits) f.qmin
      { code := f.sign neg (f.encode mg f.qmin),
        flags := (if ig then flNX else 0) ||| (if tiny && ig then flUF else 0), overflowed := false, underflowed := tiny && ig }
    else { code := f.sign neg (f.encode mu qu), flags := if iu then flNX else 0, overflowed := false, underflowed := false }

/-- Bit of `sr.mode` for FIZ of a class (Table 7-7). -/
def fizBit : FClass → Nat
  | .d => 3 | .s => 5 | .h => 7 | .n => 9

/-- Whether inputs of the class are flushed (R161). -/
def fiz (mode : DWord) (c : FClass) : Bool := mode.getLsbD (fizBit c)
/-- Whether results of the class are flushed (R161). -/
def frz (mode : DWord) (c : FClass) : Bool := mode.getLsbD (fizBit c + 1)

/-- Whether a finite value is subnormal in its format. -/
def Fm.subnormal (f : Fm) (m : Nat) (e : Int) : Bool := decide (m ≠ 0) && magLt m e (2 ^ f.fbits) f.qmin && f != .e8m0

/-- An input after FIZ of its class (R161). -/
def Fm.input (f : Fm) (mode : DWord) (c : Nat) : FVal :=
  match f.decode c with
  | .fin neg m e => if fiz mode f.cls && f.subnormal m e then .fin (neg && f.signed) 0 0 else .fin neg m e
  | v => v

/-- A delivered code after FRZ of its class (R161). -/
def Fm.flushOut (f : Fm) (mode : DWord) (r : Rounded) : Rounded :=
  match f.decode r.code with
  | .fin neg m e =>
    if frz mode f.cls && f.subnormal m e then
      { r with code := f.sign neg 0, flags := r.flags ||| flUF ||| flNX }
    else r
  | _ => r

/-- The canonical NaN (R150). -/
def Fm.nan (f : Fm) : Nat := f.nanCode.getD 0

/-- Rounding under a code, then FRZ. -/
def Fm.deliver (f : Fm) (mode : DWord) (rc : Nat) (neg : Bool) (m : Nat) (e : Int) (draw : Nat) : Rounded :=
  f.flushOut mode (f.round rc neg m e draw)

/-- A signed exact value as an Int magnitude at exponent e. -/
def fint (neg : Bool) (m : Nat) : Int := if neg then -(m : Int) else m

/-- Exact sum of two dyadics. -/
def dyAdd (a : Int) (e : Int) (b : Int) (g : Int) : Int × Int :=
  if e ≤ g then (a + b * 2 ^ (g - e).toNat, e) else (a * 2 ^ (e - g).toNat + b, g)

/-- Exact sum of a list of dyadics. -/
def dySum (l : List (Int × Int)) : Int × Int := l.foldl (fun a b => dyAdd a.1 a.2 b.1 b.2) (0, 0)

/-- Whether two exact values compare a < b. -/
def dyLt (a e b g : Int) : Bool := if e ≤ g then decide (a < b * 2 ^ (g - e).toNat) else decide (a * 2 ^ (e - g).toNat < b)

/-- Exact sum of two values and whether it is invalid (R345): a NaN in gives a NaN, ∞ − ∞ is invalid; an exact zero sum of
opposite signs is −0 only toward −∞ (IEEE 754-2019). -/
def vAdd (rc : Nat) (a b : FVal) : FVal × Bool :=
  match a, b with
  | .nan p, .nan q => (.nan false, p || q)
  | .nan p, _ => (.nan false, p)
  | _, .nan q => (.nan false, q)
  | .inf p, .inf q => if p = q then (.inf p, false) else (.nan false, true)
  | .inf p, _ => (.inf p, false)
  | _, .inf q => (.inf q, false)
  | .fin p m e, .fin q n g =>
    let (z, h) := dyAdd (fint p m) e (fint q n) g
    if z = 0 then (.fin (if m = 0 ∧ n = 0 ∧ p = q then p else rc == 3) 0 0, false)
    else (.fin (decide (z < 0)) z.natAbs h, false)

/-- A value with its sign inverted. -/
def vNeg : FVal → FVal
  | .nan p => .nan p
  | .inf p => .inf (!p)
  | .fin p m e => .fin (!p) m e

/-- Exact product of two values and whether it is invalid (0 × ∞, signalling NaN). -/
def vMul (a b : FVal) : FVal × Bool :=
  match a, b with
  | .nan p, .nan q => (.nan false, p || q)
  | .nan p, _ => (.nan false, p)
  | _, .nan q => (.nan false, q)
  | .inf p, .inf q => (.inf (p != q), false)
  | .inf p, .fin q n _ => if n = 0 then (.nan false, true) else (.inf (p != q), false)
  | .fin p m _, .inf q => if m = 0 then (.nan false, true) else (.inf (p != q), false)
  | .fin p m e, .fin q n g => (.fin (p != q) (m * n) (e + g), false)

/-- An exact value delivered in a format: the canonical NaN, an infinity as it is, or a rounding. -/
def Fm.deliverV (f : Fm) (mode : DWord) (rc : Nat) (v : FVal) (nv : Bool) (draw : Nat) : Nat × BitVec 5 :=
  match v with
  | .nan sig => (f.nan, if nv || sig then flNV else 0)
  | .inf neg => (f.infOrMax neg, if nv then flNV else 0)
  | .fin neg m e =>
    let r := f.deliver mode rc neg m e draw
    (r.code, r.flags ||| (if nv then flNV else 0))

/-- Whether a value is a NaN. -/
def FVal.isNan : FVal → Bool
  | .nan _ => true
  | _ => false

/-- Whether a value is a signalling NaN. -/
def FVal.isSig : FVal → Bool
  | .nan s => s
  | _ => false

/-- Order of two values that are no NaN: −∞ < finite < +∞, and −0 < +0 where `zeros` says so. -/
def vLt (zeros : Bool) (a b : FVal) : Bool :=
  match a, b with
  | .nan _, _ => false
  | _, .nan _ => false
  | .inf p, .inf q => p && !q
  | .inf p, .fin .. => p
  | .fin .., .inf q => !q
  | .fin p m e, .fin q n g =>
    if m = 0 ∧ n = 0 then zeros && p && !q else dyLt (fint p m) e (fint q n) g

/-- minimumNumber and maximumNumber of IEEE 754-2019 on codes: a NaN operand is ignored unless both are (Table 20-14). -/
def Fm.minMax (f : Fm) (mx : Bool) (a b : Nat) (va vb : FVal) : Nat :=
  if va.isNan && vb.isNan then f.nan
  else if va.isNan then b
  else if vb.isNan then a
  else if mx then (if vLt true va vb then b else a)
  else (if vLt true vb va then b else a)

end Sys2Proof.Machine
end

