-- ==== Sys2Proof/Machine/Convert.lean ====
section
/-! DEFINITION. Conversions under a policy byte (R165, R166), the random generator of rsr (R158), and the narrow format codes
(Table 7-5). -/

namespace Sys2Proof.Machine

/-- One step of a generator G, and the 16-bit value drawn (R158). -/
def drawG (g : DWord) : DWord × Nat :=
  let g' := g * 0x5851F42D4C957F2D + 0x14057B7EF767814F
  (g', (g'.extractLsb' 48 16).toNat)

/-- One draw if the code is rsr, none otherwise (R158). -/
def drawIf (rc : Nat) (g : DWord) : DWord × Nat := if rc = 5 then drawG g else (g, 0)

/-- What a conversion of one element gives. -/
structure Conv where
  code : Nat
  flags : BitVec 5
  fault : Bool
deriving DecidableEq, Repr

/-- The field of a policy byte: 0 NaN, 1 infinity, 2 overflow, 3 underflow (R165). -/
def polField (b : Byte) (i : Nat) : Nat := (b.extractLsb' (2 * i) 2).toNat

/-- The entry of Table 7-10 chosen by a policy field. -/
def polPick (act : Nat) (prop sat zero : Nat) (fl : BitVec 5) : Conv :=
  match act with
  | 0 => { code := prop, flags := fl, fault := false }
  | 1 => { code := sat, flags := fl, fault := false }
  | 2 => { code := zero, flags := fl, fault := false }
  | _ => { code := 0, flags := fl, fault := true }

/-- `convert` of R165 into a floating or narrow format, from a value after FIZ. The zero that Table 7-10 gives for NaN, an infinity
and an overflow, and for a negative value, is code 0x00 in e8m0, which has no zero (log 112, DESIGN CHOICE; R166 says so for UNF
alone). -/
def convert (f : Fm) (rc : Nat) (mode : DWord) (b : Byte) (v : FVal) (draw : Nat) : Conv :=
  match v with
  | .nan sig =>
    polPick (polField b 0) f.nan f.maxCode 0 (if sig || f.nanCode.isNone then flNV else 0)
  | .inf neg =>
    polPick (polField b 1) (f.infOrMax neg) (f.maxFin neg) (f.sign neg 0) (if f.infCode.isNone then flOF ||| flNX else 0)
  | .fin neg m e =>
    if m = 0 then
      if f = .e8m0 then polPick (polField b 3) 0 0 0 (flUF ||| flNX)
      else { code := f.sign neg 0, flags := 0, fault := false }
    else
      let r := f.round rc neg m e draw
      if r.overflowed || (neg && !f.signed) then
        polPick (polField b 2) (if neg && !f.signed then 0 else f.overflow rc neg) (f.maxFin neg) (f.sign neg 0)
          (flOF ||| flNX)
      else if r.underflowed then
        if f = .e8m0 then polPick (polField b 3) 0 0 0 (flUF ||| flNX)
        else
          polPick (polField b 3) (f.flushOut mode r).code (f.sign neg 1) (f.sign neg 0) (flUF ||| flNX)
      else
        let r' := f.flushOut mode r
        { code := r'.code, flags := r'.flags, fault := false }

/-- An integer type of `cvt` (Table 2-14). -/
structure IntTy where
  signed : Bool
  width : Nat
deriving DecidableEq, Repr

/-- Least value. -/
def IntTy.lo (t : IntTy) : Int := if t.signed then -(2 ^ (t.width - 1) : Nat) else 0
/-- Greatest value. -/
def IntTy.hi (t : IntTy) : Int := if t.signed then (2 ^ (t.width - 1) : Nat) - 1 else (2 ^ t.width : Nat) - 1
/-- The bits of a value that is in range, at the type's width. -/
def IntTy.bits (t : IntTy) (n : Int) : Nat := (n % (2 ^ t.width : Nat)).toNat

/-- The integer that an exact value rounds to, and whether the rounding is inexact (R157). -/
def roundInt (rc : Nat) (neg : Bool) (m : Nat) (e : Int) (draw : Nat) : Int × Bool :=
  let (n, ix) := roundAt .f64 rc neg m e 0 draw
  (fint neg n, ix)

/-- The integer of a type that an exact value rounds to. Under rod the least significant stored bit of the integer toward zero is
set where that is inexact, so of a negative even integer in two's complement it is the one above (Table 7-6, log 122). -/
def IntTy.round (rc : Nat) (neg : Bool) (m : Nat) (e : Int) (draw : Nat) : Int × Bool :=
  if rc = 6 then
    let (n, ix) := roundInt 1 neg m e draw
    (if ix && n % 2 == 0 then n + 1 else n, ix)
  else roundInt rc neg m e draw

/-- `convert` of R165 into an integer type: out of range is OVF with NV, as is a negative value that rounds nonzero into an unsigned
type; a value that rounds to 0 never meets UNF (R166). -/
def convertInt (t : IntTy) (rc : Nat) (b : Byte) (v : FVal) (draw : Nat) : Conv :=
  match v with
  | .nan _ => polPick (polField b 0) 0 (t.bits t.hi) 0 flNV
  | .inf neg =>
    let x := t.bits (if neg then t.lo else t.hi)
    polPick (polField b 1) x x 0 flNV
  | .fin neg m e =>
    let (n, ix) := IntTy.round rc neg m e draw
    if n < t.lo ∨ t.hi < n ∨ (neg = true ∧ t.signed = false ∧ n ≠ 0) then
      let x := t.bits (if neg then t.lo else t.hi)
      polPick (polField b 2) x x 0 flNV
    else { code := t.bits n, flags := if ix then flNX else 0, fault := false }

/-- The floating or narrow format of a format code (Table 7-5); none for the integer codes, b1 and unassigned codes. -/
def narrowFm (c : Byte) : Option Fm :=
  let n := c.toNat
  if n < 0x20 then (if n % 8 = 0 then none else some (.b8 (n % 8) (n / 8 % 2 == 1) (n / 16 == 1)))
  else match n with
    | 0x20 => some .fp4
    | 0x21 => some .fp6a
    | 0x22 => some .fp6b
    | 0x23 => some .fp8a
    | 0x24 => some .fp8b
    | 0x25 => some .e8m0
    | 0x30 => some .f16
    | 0x31 => some .bf16
    | 0x32 => some .f32
    | _ => none

/-- Whether Table 7-5 assigns a format code (R156). -/
def narrowLegal (c : Byte) : Bool := (narrowFm c).isSome || (0x33 ≤ c.toNat && c.toNat ≤ 0x35)

/-- The floating type of a `cvt` type code (Table 2-14). -/
def cvtFm (c : Nat) : Option Fm :=
  match c with
  | 8 => some .f16
  | 9 => some .bf16
  | 10 => some .f32
  | 11 => some .f64
  | 12 => some .f16
  | 13 => some .bf16
  | _ => none

/-- The integer type of a `cvt` type code (Table 2-14). -/
def cvtInt (c : Nat) : Option IntTy :=
  match c with
  | 0 => some ⟨true, 8⟩
  | 1 => some ⟨true, 16⟩
  | 2 => some ⟨true, 32⟩
  | 3 => some ⟨true, 64⟩
  | 4 => some ⟨false, 8⟩
  | 5 => some ⟨false, 16⟩
  | 6 => some ⟨false, 32⟩
  | 7 => some ⟨false, 64⟩
  | _ => none

/-- The integer that the low bits of a container hold. -/
def IntTy.read (t : IntTy) (w : Nat) : Int :=
  let n := w % 2 ^ t.width
  if t.signed && n ≥ 2 ^ (t.width - 1) then (n : Int) - (2 ^ t.width : Nat) else n

/-- An exact integer as a value. -/
def intVal (n : Int) : FVal := .fin (decide (n < 0)) n.natAbs 0

/-- CRC-32C of bytes in order (Table 0-3): reflected polynomial, initial and final value all ones. -/
def crcBit (c : Nat) : Nat := if c % 2 = 1 then (c / 2) ^^^ 0x82F63B78 else c / 2

/-- Eight steps of the register. -/
def crcBits (n c : Nat) : Nat :=
  match n with
  | 0 => c
  | n + 1 => crcBits n (crcBit c)

/-- CRC-32C (Castagnoli). -/
def crc32c (bs : List Byte) : Word :=
  BitVec.ofNat 32 ((bs.foldl (fun c b => crcBits 8 (c ^^^ b.toNat)) 0xFFFFFFFF) ^^^ 0xFFFFFFFF)

end Sys2Proof.Machine
end

