-- ==== Sys2Proof/Machine/Memory.lean ====
section
/-! DEFINITION. Addresses, translation, the ordering machine's memory (chapters 05 and 06): where an address leads, what a
load reads, what a store writes, the drain of a store buffer, update-only partials, and the exact detection of races. -/

namespace Sys2Proof.Machine

/-- Bits 63 to 56 equal bit 55 (R116). -/
def canonical (va : DWord) : Bool := va.extractLsb' 55 9 == 0 || va.extractLsb' 55 9 == 0x1FF#9

/-- A 56-bit address field sign-extended from bit 55 (R264). -/
def sext56 (a : Nat) : DWord := (BitVec.ofNat 56 a).signExtend 64

/-- First address of the local scratchpad window (Table 5-1). -/
def localWin : DWord := 0xFFFFFF0000000000
/-- First address of the cluster window (Table 5-1). -/
def clusterWin : DWord := 0xFFFFFE0000000000

/-- Where an access goes, whether the word is tracked, and what the leaf permits (R119, R144). -/
structure Res where
  loc : Loc
  tracked : Bool
  w : Bool
  x : Bool
  ent : Option TlbEnt
deriving DecidableEq, Repr

/-- A byte of committed memory M by physical address. -/
def State.mByte (s : State) (pa : Nat) : Byte := kgetD s.mem pa 0

/-- Bytes of M from a physical address on. -/
def State.mBytes (s : State) (pa n : Nat) : List Byte := (List.range n).map (fun i => s.mByte (pa + i))

/-- Whether a physical address is host memory (R120). -/
def isHost (pa : Nat) : Bool := bitsOf pa 51 1 == 1
/-- Whether a physical address is HBM (R120). -/
def isHbm (pa : Nat) : Bool := decide (pa < 0xC000000000)
/-- Whether a physical address of HBM lies in a partition's grant (R307). -/
def State.granted (s : State) (p pa : Nat) : Bool := (s.part p).cfg.grant.contains (pa / 2 ^ 30)

/-- The number of a byte's location. -/
def Loc.key : Loc → Nat
  | .scratch tm off => 2 * (tm * 2 ^ 20 + off) + 1
  | .hbm pa => 2 * pa
  | .host pa => 2 * pa

/-- The location i bytes on. -/
def Loc.plus (l : Loc) (i : Nat) : Loc :=
  match l with
  | .scratch tm off => .scratch tm (off + i)
  | .hbm pa => .hbm (pa + i)
  | .host pa => .host (pa + i)

/-- The number of an aligned word's location. -/
def Loc.wkey : Loc → Nat
  | .scratch tm off => 2 * ((tm * 2 ^ 20 + off) / 4) + 1
  | .hbm pa => 2 * (pa / 4)
  | .host pa => 2 * (pa / 4)

/-- Offset of a location within its word. -/
def Loc.low : Loc → Nat
  | .scratch _ off => off % 4
  | .hbm pa => pa % 4
  | .host pa => pa % 4

/-- The words that n bytes from a location cover (R142). -/
def Loc.words (l : Loc) (n : Nat) : List Nat := (List.range (ceilDiv (l.low + n) 4)).map (fun i => l.wkey + 2 * i)

/-- A byte of M at a location (Table 6-1). -/
def State.readM (s : State) (l : Loc) : Byte :=
  match l with
  | .scratch tm off => kgetD (s.team tm).scratch off 0
  | .hbm pa => s.mByte pa
  | .host pa => s.mByte pa

/-- Bytes of M from a location on. -/
def State.readMs (s : State) (l : Loc) (n : Nat) : List Byte := (List.range n).map (fun i => s.readM (l.plus i))

/-- Frame of a physical address within a partition's grant (R312). -/
def State.frameOf (s : State) (p pa : Nat) : Nat :=
  let g := (s.part p).cfg.grant
  (g.findIdx (· == pa / 2 ^ 30)) * 2 ^ 18 + (pa % 2 ^ 30) / 4096

/-- The partition that holds a physical address. -/
def State.holder (s : State) (pa : Nat) : Option Nat := (kkeys s.parts).find? (fun p => s.granted p pa)

/-- Sets the bit of a frame in a partition's dirty bitmap (R312). -/
def setDirty (f : Nat) (p : Part) : Part :=
  { p with dirty := kput p.dirty (f / 64) (setBit (kgetD p.dirty (f / 64) 0) (f % 64) true) }

/-- Running tasks remember a byte as it stood at their start when it is first written (R28). -/
def noteCode (pa : Nat) (old : Byte) (by_ : Option Nat) (ts : KMap Task) : KMap Task :=
  ts.map (fun e =>
    if e.2.state = 3 then
      (e.1, { e.2 with oldCode := kput e.2.oldCode pa (((kget e.2.oldCode pa).map (·.1)).getD old, by_) })
    else e)

/-- Whether a dword may be a page-table entry in use: valid, its reserved fields 0 (Table 5-3). -/
def pteLike (v : Nat) : Bool := v % 2 == 1 && bitsOf v 52 12 == 0 && bitsOf v 6 6 == 0 && bitsOf v 2 1 == 0

/-- A write into a dword that may be a page-table entry keeps what it was, once in a step (R121). -/
def State.notePte (s : State) (pa : Nat) : List OldPte :=
  let d := pa / 8 * 8
  let v := leNat (s.mBytes d 8)
  if pteLike v && !s.oldPtes.any (fun o => o.pa == d && o.at_ == s.tick) then s.oldPtes ++ [{ pa := d, val := v, at_ := s.tick }]
  else s.oldPtes

/-- Writes one byte of M at a location. -/
def State.writeByte (s : State) (l : Loc) (b : Byte) (by_ : Option Nat) : State :=
  match l with
  | .scratch tm off => s.modTeam tm (fun t => { t with scratch := kputD t.scratch off 0 b })
  | .hbm pa => { s with mem := kputD s.mem pa 0 b, tasks := noteCode pa (s.mByte pa) by_ s.tasks, oldPtes := s.notePte pa }
  | .host pa => { s with mem := kputD s.mem pa 0 b, tasks := noteCode pa (s.mByte pa) by_ s.tasks }

/-- Writes bytes of M from a location on. -/
def State.writeBytes (s : State) (l : Loc) (bs : List Byte) (by_ : Option Nat) : State :=
  match bs with
  | [] => s
  | b :: t => (s.writeByte l b by_).writeBytes (l.plus 1) t by_

/-- Words written lose an uncorrectable error and the mark of an earlier strong write, and take the mark of this one. -/
def State.markWords (s : State) (ws : List Nat) (tag : Option RelTag) : State :=
  { s with bad := s.bad.filter (fun w => !ws.contains w),
           badL1 := s.badL1.filter (fun e => !ws.contains e.2), badCode := s.badCode.filter (fun e => !ws.contains e.2),
           rel := ws.foldl (fun r w => match tag with | some t => kput r w t | none => kdel r w) s.rel }

/-- A write that leaves L2 only later: its line is dirty in L2 until L2_WRITE_BACK (R312). -/
def State.dirtyL2 (s : State) (l : Loc) : State :=
  match l with
  | .hbm pa => match s.holder pa with
    | some p => s.modPart p (fun q => { q with l2dirty := insertNat (s.frameOf p pa) q.l2dirty })
    | none => s
  | _ => s

/-- A write of an engine, a Sett unit, a peer or the host sets its frame's bit (R312). -/
def State.dirtyNow (s : State) (l : Loc) : State :=
  match l with
  | .hbm pa => match s.holder pa with
    | some p => s.modPart p (setDirty (s.frameOf p pa))
    | none => s
  | _ => s

/-- A write into M by an engine, a Sett unit, a peer or the host. -/
def State.unitWrite (s : State) (l : Loc) (bs : List Byte) (tag : Option RelTag) : State :=
  ((s.writeBytes l bs none).markWords (l.words bs.length) tag).dirtyNow l

/-- fx40 of an f32 code, exact. -/
def f32ToFx (c : Nat) : Nat := match Fm.f32.decode c with
  | .nan _ => Fm.fx40.nan
  | .inf n => Fm.fx40.infOrMax n
  | .fin n m e => (Fm.fx40.round 0 n m e 0).code

/-- The partial that an update-only line starts from: the identity of its operation (R126). For a sum in fx40 that is −0; for
maximumNumber it is NaN, which every operand replaces. -/
def credIdentity (form : Nat) : DWord :=
  match form with
  | 1 => 0x8000000000
  | 2 => 0x7FFFFFFF
  | 3 => 0x80000000
  | 6 => 0x7FC0000000
  | _ => 0

/-- The least or the greatest of two words by the signed order. -/
def pickSigned (mx : Bool) (a b : Nat) : Nat :=
  if ((BitVec.ofNat 32 a).slt (BitVec.ofNat 32 b)) = mx then b else a

/-- Combines an operand into a partial (R126, Table 20-10). -/
def credCombine (form : Nat) (p v : DWord) : DWord :=
  match form with
  | 0 => BitVec.ofNat 64 ((p.toNat + v.toNat) % 2 ^ 32)
  | 1 =>
    let (x, nv) := vAdd 0 (Fm.fx40.decode p.toNat) (Fm.f32.decode (v.toNat % 2 ^ 32))
    BitVec.ofNat 64 (Fm.fx40.deliverV 0 0 x nv 0).1
  | 2 => BitVec.ofNat 64 (pickSigned false p.toNat (v.toNat % 2 ^ 32))
  | 3 => BitVec.ofNat 64 (pickSigned true p.toNat (v.toNat % 2 ^ 32))
  | 4 => p ||| BitVec.ofNat 64 (v.toNat % 2 ^ 32)
  | 5 => p + v
  | _ =>
    let a := p.toNat
    let b := f32ToFx (v.toNat % 2 ^ 32)
    BitVec.ofNat 64 (Fm.fx40.minMax true a b (Fm.fx40.decode a) (Fm.fx40.decode b))

/-- The value in memory after a partial is merged (R126): float sums are exact and then rounded rne into f32. -/
def credMerge (form : Nat) (m p : Nat) : Nat :=
  match form with
  | 0 => (m + p) % 2 ^ 32
  | 1 =>
    let (x, nv) := vAdd 0 (Fm.f32.decode m) (Fm.fx40.decode p)
    (Fm.f32.deliverV 0 0 x nv 0).1
  | 2 => pickSigned false m p
  | 3 => pickSigned true m p
  | 4 => m ||| p
  | 5 => (m + p) % 2 ^ 64
  | _ =>
    let va := Fm.f32.decode m
    let vb := Fm.fx40.decode p
    if vb.isNan then (if va.isNan then Fm.f32.nan else m)
    else
      let pc := (Fm.f32.deliverV 0 0 vb false 0).1
      Fm.f32.minMax true m pc va vb

/-- Bytes of a partial's word. -/
def credBytes (form : Nat) : Nat := if form = 5 then 8 else 4

/-- The location of an HBM word key. -/
def locOfKey (k : Nat) : Loc := .hbm (k / 2 * 4)

/-- Merges one core's partial of a word into M (Table 6-2, Merge). -/
def State.mergeWord (s : State) (c key : Nat) : State :=
  match kget (s.core c).upd key with
  | none => s
  | some p =>
    let l := locOfKey key
    let n := credBytes p.form
    let v := credMerge p.form (leNat (s.readMs l n)) p.val.toNat
    let s' := ((s.writeBytes l (leBytes n v) (p.tasks.find? (fun t => (s.task t).state == 3))).markWords (l.words n) p.tag).dirtyNow l
    s'.modCore c (fun q => { q with upd := kdel q.upd key })

/-- The line of a word key: 32 words. -/
def lineKey (key : Nat) : Nat := key / 64

/-- Merges every core's partials of the lines that some words lie in (R126: a read is served after every merge). -/
def State.mergeLines (s : State) (ws : List Nat) : State :=
  let lines := ws.map lineKey
  (kkeys s.cores).foldl (fun s c =>
    ((kkeys (s.core c).upd).filter (fun k => lines.contains (lineKey k))).foldl (fun s k => s.mergeWord c k) s) s

/-- Merges the lines in which a task's `cred` left a partial (R126, R147, R194). -/
def State.mergeTask (s : State) (task : Nat) : State :=
  (kkeys s.cores).foldl (fun s c =>
    let lines := (s.core c).upd.filterMap (fun e => if e.2.tasks.contains task then some (lineKey e.1) else none)
    ((kkeys (s.core c).upd).filter (fun k => lines.contains (lineKey k))).foldl (fun s k => s.mergeWord c k) s) s

/-- Whether some core holds a partial of a line of these words. -/
def State.owesMerge (s : State) (ws : List Nat) : Bool :=
  (kkeys s.cores).any (fun c => (kkeys (s.core c).upd).any (fun k => (ws.map lineKey).contains (lineKey k)))

/-- Whether any of some words holds an uncorrectable error (R131). -/
def State.corrupt (s : State) (ws : List Nat) : Bool := ws.any (fun w => s.bad.contains w)

/-- Whether any of some words, read through the L1 of a core, holds an uncorrectable error (R131). -/
def State.corruptOn (s : State) (core : Nat) (ws : List Nat) : Bool :=
  s.corrupt ws || ws.any (fun w => s.badL1.contains (core, w))

/-- A dword of M as a walker reads it, after the merges that a read of it is served after (R126, R401). -/
def State.pteNow (s : State) (pa : Nat) : Nat := leNat ((s.mergeLines ((Loc.hbm pa).words 8)).mBytes pa 8)

/-- A page-table entry as it stands; or, at an earlier moment, what a write since has replaced (R121). -/
def State.pte (s : State) (at_ : Option Nat) (pa : Nat) : Nat :=
  match at_ with
  | none => s.pteNow pa
  | some t => match s.oldPtes.find? (fun o => o.pa == pa && decide (t ≤ o.at_)) with
    | some o => o.val
    | none => s.pteNow pa

/-- The levels of a walk: level, lowest VA bit of its index, bits of the index (Table 5-2). -/
def walkPlan : List (Nat × Nat × Nat) := [(4, 39, 17), (3, 30, 9), (2, 21, 9), (1, 12, 9)]

/-- What a walk comes to. -/
inductive Walk where
  | hit (e : TlbEnt)
  /-- It meets what R119 names. -/
  | fault
  /-- An entry holds an uncorrectable error (R131). -/
  | bad
  /-- A table lies outside the partition's grant (R307). -/
  | leaves
deriving DecidableEq, Repr

/-- Whether a walker of a partition may read a table entry there: HBM of its grant, or host memory (R120, R307). -/
def State.mayWalk (s : State) (p pa : Nat) : Bool := isHost pa || (isHbm pa && s.granted p pa)

/-- A walk from a table down (R119): it faults where an entry is not valid, a reserved field is not 0, a leaf stands at level 4
or a table at level 1, or a leaf is not aligned to its page. -/
def State.walkFrom (s : State) (at_ : Option Nat) (p va : Nat) (plan : List (Nat × Nat × Nat)) (table : Nat) : Walk :=
  match plan with
  | [] => .fault
  | (lv, lo, n) :: rest =>
    let cell := table + 8 * bitsOf va lo n
    let e := s.pte at_ cell
    let ppn := bitsOf e 12 40 * 4096
    if !s.mayWalk p cell then .leaves
    else if s.corrupt ((Loc.hbm cell).words 8) then .bad
    else if e % 2 = 0 || bitsOf e 52 12 != 0 || bitsOf e 6 6 != 0 || bitsOf e 2 1 != 0 then .fault
    else if bitsOf e 1 1 = 1 then
      if lv = 4 || ppn % 2 ^ lo != 0 then .fault
      else .hit { part := p, va := va / 2 ^ lo * 2 ^ lo, size := 2 ^ lo, pa := ppn, u := bitsOf e 5 1 == 1,
                  x := bitsOf e 4 1 == 1, w := bitsOf e 3 1 == 1 }
    else if lv = 1 then .fault
    else s.walkFrom at_ p va rest ppn

/-- The root of a partition's page table (R118). -/
def State.root (s : State) (p : Nat) : Nat := ((s.part p).ptroot.extractLsb' 20 32).toNat * 2 ^ 20

/-- The walk of a partition's address, as the tables stand or stood (R118). -/
def State.walk (s : State) (at_ : Option Nat) (p va : Nat) : Walk := s.walkFrom at_ p va walkPlan (s.root p)

/-- The entries that a walk reads, from a table down. -/
def State.walkCells (s : State) (va : Nat) (plan : List (Nat × Nat × Nat)) (table : Nat) : List Nat :=
  match plan with
  | [] => []
  | (_, lo, n) :: rest =>
    let cell := table + 8 * bitsOf va lo n
    let e := s.pteNow cell
    cell :: if e % 2 = 1 && bitsOf e 1 1 == 0 then s.walkCells va rest (bitsOf e 12 40 * 4096) else []

/-- Whether a translation that held at a moment has been invalidated since (R121, R401). -/
def State.purged (s : State) (p t : Nat) (e : TlbEnt) : Bool :=
  s.purges.any (fun q => q.part == p && decide (t ≤ q.at_) &&
    (match q.va with | none => true | some a => decide (e.va ≤ a ∧ a < e.va + e.size)))

/-- The translations that an access may have: the walk's; one that a cache still holds; and what a walk gave before an entry was
changed, until an invalidation covers it (R121). No cache holds a walk that faulted. -/
def State.translations (s : State) (p va : Nat) : List Walk :=
  let w := s.walk none p va
  let held := s.tlb.filter (fun e => e.part == p && decide (e.va ≤ va) && decide (va < e.va + e.size) && Walk.hit e != w)
  let olds := s.oldPtes.filterMap (fun o => match s.walk (some o.at_) p va with
    | .hit e => if Walk.hit e != w && !held.contains e && !s.purged p o.at_ e then some e else none
    | _ => none)
  w :: (held ++ olds).map Walk.hit

/-- The translation that an access has, of those permitted. -/
def State.picked (s : State) (p va : Nat) : Walk :=
  let l := s.translations p va
  l.getD (s.choose (2 ^ 80 + va) l.length) .fault

/-- The translation of a partition address, with the checks of R120 and R307 that raise XLATE. -/
def State.translate (s : State) (p va : Nat) : Option Res :=
  match s.picked p va with
  | .hit e =>
    let pa := e.pa + (va - e.va)
    if isHost pa then some { loc := .host pa, tracked := false, w := e.w, x := e.x, ent := some e }
    else if isHbm pa && s.granted p pa then some { loc := .hbm pa, tracked := !e.u, w := e.w, x := e.x, ent := some e }
    else none
  | _ => none

/-- Whether a translation fails because it leaves the grant, which writes a telemetry record (R307). -/
def State.leavesGrant (s : State) (p : Nat) (va : DWord) : Bool :=
  canonical va && !va.getLsbD 55 &&
  match s.picked p va.toNat with
  | .hit e => let pa := e.pa + (va.toNat - e.va); !isHost pa && !(isHbm pa && s.granted p pa)
  | .leaves => true
  | _ => false

/-- The record of a translation that left the grant, met by an agent (R307); XLATE is code 0x10 (Table 9-3). -/
def State.noteLeave (s : State) (p source : Nat) (va : DWord) : State :=
  if s.leavesGrant p va then s.telemetry p (s.causeRec source 0x10 va 0) else s

/-- What a partition address that does not translate raises: INTEGRITY where the walk read a bad word (R131), else XLATE. -/
def State.xlateCause (s : State) (p : Nat) (va : DWord) : Cause :=
  if canonical va && !va.getLsbD 55 && s.picked p va.toNat == .bad then .integrity else .xlate

/-- The team of a rank of a cluster. -/
def State.rankTeam (s : State) (tm rank : Nat) : Option Nat :=
  match kget s.clusters (s.team tm).cluster with
  | some c => c.teams.find? (fun n => (s.team n).rank == rank)
  | none => none

/-- A window address: team and offset (R116, R117); none where it raises XLATE. -/
def State.windowLoc (s : State) (tm : Nat) (va : DWord) : Option Loc :=
  let bound := (s.team tm).lim.tiles * 16384
  let lo := (va - localWin).toNat
  let co := (va - clusterWin).toNat
  if lo < 2 ^ 20 then (if lo < bound then some (.scratch tm lo) else none)
  else if co < 12 * 2 ^ 20 then
    match s.rankTeam tm (co / 2 ^ 20) with
    | some t => if co % 2 ^ 20 < bound then some (.scratch t (co % 2 ^ 20)) else none
    | none => none
  else none

/-- Where an address leads for a team (R116 to R120, R307); none where it raises XLATE. -/
def State.resolve (s : State) (tm : Nat) (va : DWord) : Option Res :=
  if !canonical va then none
  else if va.getLsbD 55 then
    (s.windowLoc tm va).map (fun l => { loc := l, tracked := true, w := true, x := false, ent := none })
  else s.translate (s.partOf tm) va.toNat

/-- Whether an address lies in one of the two scratchpad windows (Table 5-1). -/
def inWindow (va : DWord) : Bool :=
  decide ((va - localWin).toNat < 2 ^ 20) || decide ((va - clusterWin).toNat < 12 * 2 ^ 20)

/-- Whether an address lies above the partition's half of the space (Table 5-1). -/
def isWindow (va : DWord) : Bool := va.getLsbD 55

/-- A translation used is kept by a TLB, and its walk has merged the lines that it read (R121, R126). -/
def State.keepTlb (s : State) (r : Res) : State :=
  match r.ent with
  | some e =>
    let s1 := s.mergeLines ((s.walkCells e.va walkPlan (s.root e.part)).flatMap (fun c => (Loc.hbm c).words 8))
    if s1.tlb.contains e then s1 else { s1 with tlb := e :: s1.tlb }
  | none => s

/-- Who performs an access: its agent and what it knows, its source number, and what Table 6-9 reports of it. -/
structure Who where
  tm : Nat
  agent : Nat
  clk : Clock
  source : Nat
  kind : Nat
  thread : Nat
deriving DecidableEq, Repr

/-- The agent number of a thread. -/
def threadAgent (k : Nat) : Nat := 4 * k
/-- The agent number of a copy. -/
def copyAgent (id : Nat) : Nat := 4 * id + 1
/-- The agent number of a Bear command or a Sett unit's request. -/
def unitAgent (id : Nat) : Nat := 4 * id + 2
/-- The agent number of a task's commit (R141). -/
def commitAgent (task : Nat) : Nat := 4 * task + 3

/-- A thread as the performer of an access. -/
def State.whoThread (s : State) (k : Nat) : Who :=
  { tm := keyTm k, agent := threadAgent k, clk := (s.thr k).clk, source := s.srcCore (s.team (keyTm k)).core, kind := 0,
    thread := keyIx k }

/-- The line number of an offset: 128 × tile + line (R124). -/
def lineOf (off : Nat) : Nat := off / 128

/-- What the writes that set the presence bits of some bytes' lines knew: an access of a present line is ordered after them
(R124, Table 15-2). -/
def State.lineClocks (s : State) (l : Loc) (n : Nat) : Clock :=
  match l with
  | .scratch tm off => (List.range ((off + n - 1) / 128 + 1 - off / 128)).foldl
      (fun c i => clkJoin c (kgetD (s.team tm).lineClk (off / 128 + i) [])) []
  | _ => []

/-- A thread as the performer of an access to a place, with what the place's presence bits tell it. -/
def State.whoAt (s : State) (k : Nat) (l : Loc) (n : Nat) : Who :=
  { s.whoThread k with clk := clkJoin (s.thr k).clk (s.lineClocks l n) }

/-- Whether an earlier access happens before one of a performer (R140, R141). -/
def hbBefore (e : Acc) (agent : Nat) (clk : Clock) (task : Nat) : Bool :=
  match e.verTask with
  | some t => if t = task then e.agent == agent || decide (e.epoch ≤ kgetD clk e.agent 0) else decide (1 ≤ kgetD clk (commitAgent t) 0)
  | none => e.agent == agent || decide (e.epoch ≤ kgetD clk e.agent 0)

/-- Whether two accesses to one tracked word race (R142, Table 6-8). -/
def conflicts (e : Acc) (agent : Nat) (clk : Clock) (task : Nat) (write strong : Bool) : Bool :=
  (e.write || write) && !(e.strong && strong) && !hbBefore e agent clk task

/-- Event order of two accesses: the stamp, then the source number, then the order of one source (R16). -/
def Acc.before (a b : Acc) : Bool :=
  decide (a.gtc < b.gtc) || (a.gtc == b.gtc && (decide (a.source < b.source) || (a.source == b.source && decide (a.seq < b.seq))))

/-- The race of an access, if there is one (R143): of the earlier accesses the latest in event order; and the first word that
conflicts with any of them, which need not be a word of that access: the spec names one word and does not say whose where several
race (log 103, DESIGN CHOICE). -/
def State.raceOf (s : State) (w : Who) (ws : List Nat) (write strong : Bool) : Option (Nat × Acc) :=
  let task := (s.team w.tm).task
  let hits := (List.range ws.length).flatMap (fun i =>
    ((kgetD s.acc (ws.getD i 0) []).filter (fun e => conflicts e w.agent w.clk task write strong)).map (fun e => (i, e)))
  match hits with
  | [] => none
  | (i, e) :: t => some (i, t.foldl (fun b x => if b.before x.2 then x.2 else b) e)

/-- Records an access for later checks: the words, whether it writes, is strong, and is a plain store into a version. -/
def State.record (s : State) (w : Who) (ws : List Nat) (write strong : Bool) (ver : Option Nat) : State :=
  let t := s.team w.tm
  let e : Acc := { seq := s.nextId, agent := w.agent, epoch := kgetD w.clk w.agent 0 + 1, write := write, strong := strong,
                   verTask := ver, gtc := s.gtc, source := w.source, kind := w.kind, thread := w.thread, teamNo := t.no,
                   taskId := (s.task t.task).taskId, task := t.task }
  { s with acc := ws.foldl (fun m k => kput m k (e :: kgetD m k [])) s.acc, nextId := s.nextId + 1 }

/-- What the performer knows after its access. -/
def Who.tick (w : Who) : Clock := kput w.clk w.agent (kgetD w.clk w.agent 0 + 1)

/-- A thread's access recorded, with its own clock advanced. -/
def State.recordThr (s : State) (k : Nat) (r : Res) (n : Nat) (write strong : Bool) (ver : Option Nat) : State :=
  let w := s.whoAt k r.loc n
  let s' := if r.tracked then s.record w (r.loc.words n) write strong ver else s
  s'.modThr k (fun t => { t with clk := w.tick })

/-- An acquire that reads what a strong access wrote learns what that access knew (R138): `cls` is the reader's class bit. -/
def State.acquired (s : State) (ws : List Nat) (mask : BitVec 5) (cls : Nat) (clk : Clock) : Clock :=
  ws.foldl (fun c w => match kget s.rel w with
    | some t => if t.mask.getLsbD cls && mask.getLsbD t.cls then clkJoin c t.clk else c
    | none => c) clk

/-- Whether an engine owns the tile of an offset (R123). -/
def Team.tileOwned (t : Team) (off : Nat) : Bool := t.owner.getLsbD (off / 16384)

/-- OWNER and absent lines of a window access (R123, R124). -/
def State.windowCheck (s : State) (l : Loc) (va : DWord) : Try Unit :=
  match l with
  | .scratch tm off =>
    if (s.team tm).tileOwned off then .trap .owner va
    else if (s.team tm).absent.contains (lineOf off) then .park (.line tm (lineOf off))
    else .ok ()
  | _ => .ok ()

/-- The first word's virtual address from which the i-th conflicting word counts (R143). -/
def wordVa (va : DWord) (i : Nat) : DWord := (va &&& ~~~3#64) + BitVec.ofNat 64 (4 * i)

/-- The race check of an access of a thread (R143). -/
def State.raceCheck (s : State) (k : Nat) (r : Res) (va : DWord) (n : Nat) (write strong : Bool) : Try Unit :=
  if !r.tracked then .ok ()
  else match s.raceOf (s.whoAt k r.loc n) (r.loc.words n) write strong with
    | some (i, e) => .raced (wordVa va i) e write
    | none => .ok ()

/-- Alignment, canonical form, bounds or translation, OWNER and absent lines of an access of a team (R363, R394). -/
def State.place (s : State) (tm : Nat) (va : DWord) (al : Nat) (write : Bool) : Try Res :=
  if va.toNat % al ≠ 0 then .trap .align va
  else match s.resolve tm va with
    | none => .trap (s.xlateCause (s.partOf tm) va) va
    | some r => tryThen (s.windowCheck r.loc va) (fun _ => if write && !r.w then .trap .perm va else .ok r)

/-- Whether every earlier access of a thread has reached the classes of a mask (Table 6-3). -/
def Thread.reached (t : Thread) (mask : BitVec 5) : Bool :=
  t.sb.isEmpty && t.out.all (fun n => if n % 2 = 1 then !mask.getLsbD 1 else !mask.getLsbD 0)

/-- All five observer classes. -/
def allClasses : BitVec 5 := 0x1F

/-- The youngest byte of a store buffer for a location, from the newest entry back. -/
def sbByte (sb : List SbEntry) (key : Nat) : Option Byte :=
  match sb with
  | [] => none
  | e :: t => match sbByte t key with
    | some b => some b
    | none =>
      let base := e.loc.key
      if base ≤ key ∧ (key - base) % 2 = 0 then e.bytes[(key - base) / 2]? else none

/-- A byte as a load of a thread reads it: B[t], else V[T], else M (Table 6-2). -/
def State.loadByte (s : State) (k : Nat) (l : Loc) : Byte :=
  match sbByte (s.thr k).sb l.key with
  | some b => b
  | none => match l with
    | .hbm pa => (kget (s.task (s.team (keyTm k)).task).ver pa).getD (s.mByte pa)
    | _ => s.readM l

/-- Bytes as a load of a thread reads them. -/
def State.loadBytes (s : State) (k : Nat) (l : Loc) (n : Nat) : List Byte :=
  (List.range n).map (fun i => s.loadByte k (l.plus i))

/-- Class bit of a thread in a mask (R138). -/
def clsC : Nat := 4

/-- The orders of Table 2-8a. -/
def ordPlain : BitVec 3 := 0
/-- Acquire. -/
def ordAcq : BitVec 3 := 1
/-- Release. -/
def ordRel : BitVec 3 := 2
/-- Acquire and release. -/
def ordAcqRel : BitVec 3 := 3
/-- Sequentially consistent. -/
def ordSc : BitVec 3 := 4

/-- Whether an order acquires. -/
def acquires (o : BitVec 3) : Bool := o == 1 || o == 3 || o == 4
/-- Whether an order releases. -/
def releases (o : BitVec 3) : Bool := o == 2 || o == 3 || o == 4

/-- When a load step may be taken (Table 6-2): an sc load waits for B[t] and for the classes of its mask. -/
def State.loadReady (s : State) (k : Nat) (o : BitVec 3) (mask : BitVec 5) : Try Unit :=
  if o = ordSc && !(s.thr k).reached mask then .park (.reach mask) else .ok ()

/-- The checks of a load before its step (R363): the place, the race check, ECC. -/
def State.loadCheck (s : State) (k : Nat) (va : DWord) (al n : Nat) (o : BitVec 3) (mask : BitVec 5) : Try Res :=
  tryThen (s.place (keyTm k) va al false) fun r =>
  tryThen (s.loadReady k o mask) fun _ =>
  tryThen (s.raceCheck k r va n false (o != ordPlain)) fun _ =>
  if s.corruptOn (s.team (keyTm k)).core (r.loc.words n) then .trap .integrity va else .ok r

/-- Whether a load of a thread takes a byte from M, neither from B[t] nor from V[T] (Table 6-2). -/
def State.fromM (s : State) (k : Nat) (l : Loc) : Bool :=
  (sbByte (s.thr k).sb l.key).isNone && (match l with
    | .hbm pa => (kget (s.task (s.team (keyTm k)).task).ver pa).isNone
    | _ => true)

/-- The words of a load of which it takes some byte from M: only there can it read what a strong access wrote (R138). -/
def State.wordsFromM (s : State) (k : Nat) (l : Loc) (n : Nat) : List Nat :=
  ((List.range n).filter (fun i => s.fromM k (l.plus i))).map (fun i => (l.plus i).wkey)

/-- The load step (Table 6-2): merges owed first, then the bytes; an acquire learns what the writer released. -/
def State.loadStep (s : State) (k : Nat) (r : Res) (n : Nat) (o : BitVec 3) (mask : BitVec 5) : List Byte × State :=
  let s1 := (s.keepTlb r).mergeLines (r.loc.words n)
  let s2 := s1.recordThr k r n false (o != ordPlain) none
  let bs := s2.loadBytes k r.loc n
  if acquires o then
    (bs, s2.modThr k (fun t => { t with clk := s2.acquired (s2.wordsFromM k r.loc n) mask clsC t.clk }))
  else (bs, s2)

/-- The task of a thread. -/
def State.taskOf (s : State) (k : Nat) : Nat := (s.team (keyTm k)).task

/-- Whether a plain store of a thread goes to the version of its task: HBM of a versioned task (R129, R137). -/
def State.versioned (s : State) (k : Nat) (l : Loc) (o : BitVec 3) : Bool :=
  o = ordPlain && (s.task (s.taskOf k)).vers && (match l with | .hbm _ => true | _ => false)

/-- Version lines a store adds (R128). -/
def State.newLines (s : State) (k : Nat) (l : Loc) : List Nat :=
  match l with
  | .hbm pa => if (s.task (s.taskOf k)).vlines.contains (pa / 128) then [] else [pa / 128]
  | _ => []

/-- Whether a store needs a version line beyond the budget (R128, R177). -/
def State.overBudget (s : State) (k : Nat) (l : Loc) (o : BitVec 3) : Bool :=
  let t := s.task (s.taskOf k)
  s.versioned k l o && decide (t.budget * 65536 < (t.vlines.length + (s.newLines k l).length) * 128) &&
    !(s.newLines k l).isEmpty

/-- When a store step may be taken (Table 6-2). -/
def State.storeReady (s : State) (k : Nat) (o : BitVec 3) (mask : BitVec 5) : Try Unit :=
  if releases o && !(s.thr k).reached mask then .park (.reach mask) else .ok ()

/-- The checks of a store before its step (R394). -/
def State.storeCheck (s : State) (k : Nat) (va : DWord) (n : Nat) (o : BitVec 3) (mask : BitVec 5) : Try Res :=
  tryThen (s.place (keyTm k) va n true) fun r =>
  tryThen (s.storeReady k o mask) fun _ =>
  tryThen (s.raceCheck k r va n true (o != ordPlain)) fun _ =>
  if s.overBudget k r.loc o then .trap .versionOverflow va else .ok r

/-- Whether a version holds some byte of the word of an address. -/
def holdsWord (v : KMap Byte) (pa : Nat) : Bool := (List.range 4).any (fun j => (kget v (pa / 4 * 4 + j)).isSome)

/-- Writes a store into memory as a drain does (Table 6-2): a plain store of a versioned task into V[T]; any other into M, and
into V[T] each word that V[T] holds. Strong stores are counted (R194). -/
def State.drainWrite (s : State) (k : Nat) (e : SbEntry) : State :=
  let ti := s.taskOf k
  let ws := e.loc.words e.bytes.length
  let idx := List.range e.bytes.length
  if s.versioned k e.loc e.order then
    match e.loc with
    | .hbm pa => s.modTask ti (fun t => { t with ver := idx.foldl (fun v i => kput v (pa + i) (e.bytes.getD i 0)) t.ver })
    | _ => s
  else
    let tag : Option RelTag := if releases e.order then some { clk := e.clk, mask := e.mask, cls := clsC } else none
    let s0 := s.modTask ti (fun t => if e.order = ordPlain then t else { t with strong := t.strong + 1 })
    let s1 := ((s0.writeBytes e.loc e.bytes (some ti)).markWords ws tag).dirtyL2 e.loc
    match e.loc with
    | .hbm pa =>
      s1.modTask ti (fun t =>
        { t with ver := (idx.filter (fun i => holdsWord t.ver (pa + i))).foldl (fun v i => kput v (pa + i) (e.bytes.getD i 0)) t.ver })
    | .host _ => { s1 with nextId := s1.nextId + 1 }.modThr k (fun t => { t with out := t.out ++ [2 * s1.nextId] })
    | _ => s1

/-- The store step (Table 6-2): into B[t], or for sc straight as a drain writes. -/
def State.storeStep (s : State) (k : Nat) (r : Res) (bs : List Byte) (o : BitVec 3) (mask : BitVec 5) : State :=
  let ti := s.taskOf k
  let ver := if s.versioned k r.loc o then some ti else none
  let s1 := (s.keepTlb r).modTask ti (fun t =>
    { t with vlines := if ver.isSome then t.vlines ++ s.newLines k r.loc else t.vlines })
  let s2 := s1.recordThr k r bs.length true (o != ordPlain) ver
  let e : SbEntry := { loc := r.loc, bytes := bs, order := o, mask := mask, clk := (s2.thr k).clk }
  if o = ordSc then s2.drainWrite k e
  else s2.modThr k (fun t => { t with sb := t.sb ++ [e] })

/-- Drains the oldest entry of a store buffer. -/
def State.drain (s : State) (k : Nat) : State :=
  match (s.thr k).sb with
  | [] => s
  | e :: t => (s.modThr k (fun th => { th with sb := t })).drainWrite k e

/-- When an atomic may be taken (Table 6-2): B[t] is empty; a releasing one waits for the classes of its mask. -/
def State.atomReady (s : State) (k : Nat) (o : BitVec 3) (mask : BitVec 5) : Try Unit :=
  if !(s.thr k).reached (if releases o then mask else 0) then .park (.reach (if releases o then mask else 0)) else .ok ()

/-- The checks of an atomic that do not depend on what it reads (R328, R405): the place, the race check, ECC. -/
def State.atomCheck (s : State) (k : Nat) (va : DWord) (n : Nat) (write : Bool) (o : BitVec 3) (mask : BitVec 5) : Try Res :=
  tryThen (s.place (keyTm k) va n write) fun r =>
  match r.loc with
  | .host _ => .trap .perm va
  | _ =>
    tryThen (s.atomReady k o mask) fun _ =>
    tryThen (s.raceCheck k r va n write true) fun _ =>
    if s.corrupt (r.loc.words n) then .trap .integrity va else .ok r

/-- The atomic step (Table 6-2): reads and writes M in one step, past the version; merges owed come first. -/
def State.atomStep (s : State) (k : Nat) (r : Res) (n : Nat) (o : BitVec 3) (mask : BitVec 5) (f : List Byte → Option (List Byte)) :
    List Byte × State :=
  let ws := r.loc.words n
  let s1 := (s.keepTlb r).mergeLines ws
  let old := s1.readMs r.loc n
  let s2 := s1.recordThr k r n (f old).isSome true none
  let s3 := if acquires o then s2.modThr k (fun t => { t with clk := s2.acquired ws mask clsC t.clk }) else s2
  match f old with
  | none => (old, s3)
  | some new =>
    let tag : Option RelTag := if releases o then some { clk := (s3.thr k).clk, mask := mask, cls := clsC } else none
    (old, ((s3.writeBytes r.loc new (some (s.taskOf k))).markWords ws tag).dirtyNow r.loc)

/-- The canonical form of memory: addresses rise strictly and no entry holds what an unlisted address reads as. -/
def Memory.sorted (m : List Host.Cell) : Bool :=
  match m with
  | [] => true
  | [_] => true
  | a :: b :: t => decide (a.1 < b.1) && Memory.sorted (b :: t)

/-- The canonical form of memory. -/
def Memory.wf (m : List Host.Cell) : Bool := Memory.sorted m && m.all (fun c => c.2 != 0)

end Sys2Proof.Machine
end

