-- ==== Sys2Proof/Machine/Fetch.lean ====
section
/-! DEFINITION. Instruction fetch (R28), block headers and their checks (R19 to R26), and the targets of transfers. -/

namespace Sys2Proof.Machine

/-- A byte of code as it stood when the task started (R28). -/
def State.codeOld (s : State) (task pa : Nat) : Byte := ((kget (s.task task).oldCode pa).map (·.1)).getD (s.mByte pa)

/-- Bytes of code as they stood when the task started. -/
def State.codeOlds (s : State) (task pa n : Nat) : List Byte := (List.range n).map (fun i => s.codeOld task (pa + i))

/-- Whether a task runs. -/
def State.running (s : State) (t : Nat) : Bool := (s.task t).state == 3

/-- The words a fetch may return (R28): the old one; and the new one where a running task stores it, be it in M or in the
version of that task (log 9). -/
def State.codeWords (s : State) (task pa n : Nat) : List Nat :=
  let idx := List.range n
  let old := leNat (s.codeOlds task pa n)
  let stored := idx.any (fun i => match kget (s.task task).oldCode (pa + i) with
    | some (_, some w) => s.running w
    | _ => false)
  let cur := if stored then [leNat (s.mBytes pa n)] else []
  let vers := (kkeys s.tasks).filterMap (fun t =>
    let v := (s.task t).ver
    if s.running t && idx.any (fun i => (kget v (pa + i)).isSome) then
      some (leNat (idx.map (fun i => (kget v (pa + i)).getD (s.mByte (pa + i)))))
    else none)
  old :: cur ++ vers

/-- Fetches n bytes of code at an address of a team, or the cause that the fetch raises (R26, R117, R131). -/
def State.fetch (s : State) (tm : Nat) (va : DWord) (n : Nat) : Except Cause Nat :=
  if isWindow va then .error .xlate
  else match s.resolve tm va with
    | none => .error (s.xlateCause (s.partOf tm) va)
    | some r =>
      if !r.x then .error .perm
      else if s.corrupt (r.loc.words n) || (r.loc.words n).any (fun w => s.badCode.contains ((s.team tm).core, w)) then .error .integrity
      else match r.loc with
        | .scratch _ _ => .error .xlate
        | .hbm pa =>
          let l := s.codeWords (s.team tm).task pa n
          .ok (l.getD (s.choose (2 ^ 81 + pa) l.length) 0)
        | .host pa =>
          let l := s.codeWords (s.team tm).task pa n
          .ok (l.getD (s.choose (2 ^ 81 + pa) l.length) 0)

/-- A block header (Table 2-1). -/
structure Header where
  len : Nat
  live : Nat
  kind : Nat
  plive : Nat
  low : Nat
  rcv : BitVec 16
deriving DecidableEq, Repr

/-- The fields of a header whose marker is 62; word 0 is the lower half. -/
def hdrOf (w : Nat) : Option Header :=
  if bitsOf w 26 6 = 62 then
    some { len := bitsOf w 16 10, live := bitsOf w 8 8, kind := bitsOf w 36 4, plive := bitsOf w 40 8, low := bitsOf w 32 4,
           rcv := BitVec.ofNat 16 (bitsOf w 48 16) }
  else none

/-- The checks of R21 other than the marker. -/
def Header.bad (h : Header) (vregs : Nat) : Bool :=
  h.len == 0 || decide (128 < h.live) || decide (16 < h.plive) || decide (3 < h.kind) || h.low != 0 || decide (vregs < h.live)

/-- The header at an address, or the cause of entering there (R20, R21, R26). -/
def State.header (s : State) (tm : Nat) (va : DWord) : Except Cause Header :=
  match s.fetch tm va 8 with
  | .error c => .error c
  | .ok w => match hdrOf w with
    | none => .error .badHeader
    | some h => if h.bad (s.team tm).lim.vregs then .error .badHeader else .ok h

/-- The check of the target of a transfer (R25, R26): the fetch comes first, then alignment and marker, then the kinds that
only vectors and dispatch enter. None where the target is accepted. -/
def State.targetFault (s : State) (tm : Nat) (va : DWord) : Option Cause :=
  match s.fetch tm va 8 with
  | .error c => some c
  | .ok w =>
    if va.toNat % 8 ≠ 0 then some .badTarget
    else match hdrOf w with
      | none => some .badTarget
      | some h => if h.kind = 1 || h.kind = 3 then some .badTarget else none

/-- The check of an address held in state that a handler returns to or is vectored to: R21 and R26. The spec names no fault for
a header of another KIND there: a handler-table entry that names a header of KIND 0, 2 or 3, and a code object that names one of
KIND 0 to 2, are entered, and vectored code is privileged whatever the KIND (log 106, DESIGN CHOICE). -/
def State.entryFault (s : State) (tm : Nat) (va : DWord) : Option Cause :=
  match s.fetch tm va 8 with
  | .error c => some c
  | .ok w =>
    if va.toNat % 8 ≠ 0 then some .badTarget
    else match hdrOf w with
      | none => some .badTarget
      | some h =>
        if h.bad (s.team tm).lim.vregs then some .badHeader
        else none

/-- Whether falling into the header at an address is refused: KIND 1 or 3 (R25). -/
def State.fallFault (s : State) (tm : Nat) (va : DWord) : Bool :=
  match s.fetch tm va 8 with
  | .error _ => false
  | .ok w => match hdrOf w with
    | some h => h.kind == 1 || h.kind == 3
    | none => false

/-- A signed offset in units of 8 bytes from a header. -/
def hdrPlus (h : DWord) (off : BitVec 16) : DWord := h + (off.signExtend 64) * 8

/-- The address after the block of a header: 8 + 4·LEN, with padding (R20). -/
def blockEnd (h : DWord) (len : Nat) : DWord := h + BitVec.ofNat 64 (8 + 4 * len + (if len % 2 = 1 then 4 else 0))

/-- The reconvergence header of a block (R24): none where RCV is 0. -/
def State.rcvOf (s : State) (tm : Nat) (hdr : DWord) : Option DWord :=
  match s.fetch tm hdr 8 with
  | .ok w => match hdrOf w with
    | some h => if h.rcv == 0 then none else some (hdrPlus hdr h.rcv)
    | none => none
  | .error _ => none

/-- The words of an instruction at an address: prefixes and the word they precede, as far as the block goes. -/
def State.fetchSeq (s : State) (tm : Nat) (va : DWord) (n : Nat) : Except (Cause × DWord) (List Word) :=
  match n with
  | 0 => .ok []
  | n + 1 => match s.fetch tm va 4 with
    | .error c => .error (c, va)
    | .ok w =>
      let x := BitVec.ofNat 32 w
      if x.extractLsb' 26 6 == 63#6 then
        match s.fetchSeq tm (va + 4) n with
        | .ok ws => .ok (x :: ws)
        | .error e => .error e
      else .ok [x]

/-- What a register at or above LIVE reads after a block entry, or after a move that does not carry it: its value or zero
(R22, log 8). -/
def State.dropDead (s : State) (site : Nat) (sd : Side) (live plive : Nat) (t : Thread) : Thread :=
  let keepV := fun (e : Nat × Word) => decide (e.1 < live) || s.choose (2 ^ 82 + site * 512 + e.1) 2 == 0
  let keepP := fun (i : Nat) => decide (i < 8 * plive) || s.choose (2 ^ 82 + site * 512 + 256 + i) 2 == 0
  let dead := (bitsList t.preds).filter (fun i => !keepP i)
  { t with v := if sd = .e then t.v.filter keepV else t.v,
           preds := dead.foldl (fun p i => setBit p i false) t.preds }

end Sys2Proof.Machine
end

