-- ==== Sys2Proof/Machine/Groups.lean ====
section
/-! DEFINITION. Groups and narrow groups: splits and their records (R69 to R73), re-fusion, the bins of `reform` with their
draws and displacements (R79 to R84). -/

namespace Sys2Proof.Machine

/-- Where a thread stands next: an instruction, its block's header and LEN; or a header about to be entered. -/
structure Dest where
  pc : DWord
  hdr : DWord
  len : Nat
  entering : Bool
  priv : Bool
deriving DecidableEq, Repr

/-- Before a header. -/
def toHeader (h : DWord) (priv : Bool) : Dest := { pc := h, hdr := h, len := 0, entering := true, priv := priv }

/-- Where a group stands. -/
def Group.dest (g : Group) : Dest := { pc := g.pc, hdr := g.hdr, len := g.len, entering := g.entering, priv := g.priv }

/-- A group moved to a destination. -/
def Group.goto (d : Dest) (g : Group) : Group :=
  { g with pc := d.pc, hdr := d.hdr, len := d.len, entering := d.entering, priv := d.priv }

/-- The values of a list, each once, in order of first appearance. -/
def distinct {α : Type} [DecidableEq α] (l : List α) : List α :=
  l.foldl (fun acc x => if acc.contains x then acc else acc ++ [x]) []

/-- Adds a group under a new number. -/
def State.newGroup (s : State) (g : Group) : State := { s with groups := kput s.groups s.nextId g, nextId := s.nextId + 1 }

/-- The thread key of a member of a group. -/
def Group.key (g : Group) (t : Nat) : Nat := tkey g.tm g.side t

/-- Members in ascending lane. -/
def State.byLane (s : State) (tm : Nat) (sd : Side) (ts : List Nat) : List Nat :=
  sortBy (fun a b => decide ((s.thr (tkey tm sd a)).lane < (s.thr (tkey tm sd b)).lane)) ts

/-- The lowest lane of a group. -/
def State.lowLane (s : State) (g : Group) : Nat :=
  match g.members with
  | [] => 0
  | t :: _ => (s.thr (g.key t)).lane

/-- A record is forgotten by every group: its threads re-fuse no more (R72, R73). -/
def State.dropSplit (s : State) (sid : Nat) : State :=
  { s with splits := kdel s.splits sid,
           groups := s.groups.map (fun e => (e.1, { e.2 with stack := e.2.stack.filter (· != sid) })) }

/-- The stack of a narrow group after a split with the given reconvergence header; a ninth record drops the oldest (R72). -/
def State.pushSplit (s : State) (stack members : List Nat) (rcv : Option DWord) : List Nat × State :=
  match rcv with
  | none => (stack, s)
  | some h =>
    let s1 := { s with splits := kput s.splits s.nextId { hdr := h, members := members, first := none }, nextId := s.nextId + 1 }
    let st := s.nextId :: stack
    if st.length > Config.splitDepth then (st.dropLast, s1.dropSplit (st.getLastD 0)) else (st, s1)

/-- Moves each member of a group to its destination: one narrow group for each distinct one (R69). -/
def State.splitTo (s : State) (gid : Nat) (dest : Nat → Dest) (rcv : Option DWord) : State :=
  let g := s.grp gid
  match distinct (g.members.map dest) with
  | [] => s
  | [d] => s.modGrp gid (Group.goto d)
  | d :: rest =>
    let (st, s1) := s.pushSplit g.stack g.members rcv
    let part := fun (e : Dest) => { g.goto e with members := g.members.filter (fun t => dest t == e), stack := st }
    rest.foldl (fun s e => s.newGroup (part e)) (s1.modGrp gid (fun _ => part d))

/-- Whether the cluster of a team is being saved: none of its teams runs until all are restored (R65, R185). -/
def State.saving (s : State) (tm : Nat) : Bool :=
  match kget s.clusters (s.team tm).cluster with
  | some c => c.saving
  | none => false

/-- Whether a thread is parked until a phase of a barrier completes. -/
def Park.isPhase (p : Park) : Bool := match p with | .phase _ _ => true | _ => false

/-- Whether a group waits at the reconvergence header of its top record (R73); threads parked at a barrier have not reached it. -/
def State.waiting (s : State) (g : Group) : Bool :=
  g.entering && !g.members.any (fun t => (s.thr (g.key t)).park.isPhase) && (match g.stack with
    | [] => false
    | sid :: _ => match kget s.splits sid with
      | some r => r.hdr == g.pc
      | none => false)

/-- The groups that wait on a record and are not saved: a saved group stays as it stood (R73, R93). -/
def State.waitersOf (s : State) (sid : Nat) : List Nat :=
  (kkeys s.groups).filter (fun k => let g := s.grp k; s.waiting g && !g.saved && g.stack.head? == some sid)

/-- Joins groups of one slot into the first: the union of their members (R73, R76). -/
def State.uniteTwo (s : State) (a b : Nat) : State :=
  let ga := s.grp a
  let gb := s.grp b
  let s1 := s.modGrp a (fun g =>
    { g with members := s.byLane ga.tm ga.side (ga.members ++ gb.members), lastIssue := max ga.lastIssue gb.lastIssue,
             readyAt := max ga.readyAt gb.readyAt })
  { s1 with groups := kdel s1.groups b }

/-- Joins a list of groups slot by slot; threads in handler code stay apart from those outside (R190), saved ones from resident
ones (R93). -/
def State.unite (s : State) (gs : List Nat) : State :=
  let kind := fun (g : Group) => (g.slot, g.priv, g.saved)
  let kinds := distinct (gs.map (fun k => kind (s.grp k)))
  kinds.foldl (fun s x =>
    match gs.filter (fun k => kind (s.grp k) == x && (kget s.groups k).isSome) with
    | [] => s
    | a :: rest => rest.foldl (fun s b => s.uniteTwo a b) s) s

/-- The groups that wait on a record fuse, and the record is popped (R73). -/
def State.fusePresent (s : State) (sid : Nat) : State := (s.unite (s.waitersOf sid)).dropSplit sid

/-- Fuses a record's siblings where every thread of it has arrived; the others must have exited or left it. -/
def State.checkSplit (s : State) (sid : Nat) : State :=
  match kget s.splits sid with
  | none => s
  | some r =>
    let ws := s.waitersOf sid
    if !ws.isEmpty && r.members.all (fun t => (ws.flatMap (fun k => (s.grp k).members)).contains t) then s.fusePresent sid
    else s

/-- A group that stands before the header of its top record has arrived there; it may fuse at once, and then stand before the
next record's (R73). -/
def State.arriveHdr (s : State) (gid n : Nat) : State :=
  match n with
  | 0 => s
  | n + 1 =>
    let g := s.grp gid
    if !s.waiting g || g.saved then s
    else match g.stack with
      | [] => s
      | sid :: _ =>
        let s1 := { s with splits := kmod s.splits sid (fun r => { r with first := some (r.first.getD s.cycle) }) }
        let s2 := s1.checkSplit sid
        if (kget s2.splits sid).isSome then s2
        else ((kkeys s2.groups).filter (fun k => let h := s2.grp k; h.tm == g.tm && h.side == g.side && s2.waiting h)).foldl
          (fun s k => s.arriveHdr k n) s2

/-- Every group of a team and side that now stands before the header of its top record arrives. -/
def State.arriveAll (s : State) (tm : Nat) (sd : Side) : State :=
  ((kkeys s.groups).filter (fun k => let g := s.grp k; g.tm == tm && g.side == sd)).foldl
    (fun s k => s.arriveHdr k (Config.splitDepth + 1)) s

/-- Threads of a team and side leave the records of their group (R73: they exited, or passed a `join` or a `reform`). Siblings
that fuse because of it may stand before the header of their next record, and arrive there. -/
def State.leaveRecords (s : State) (tm : Nat) (sd : Side) (stack ts : List Nat) : State :=
  (stack.foldl (fun s sid =>
    { s with splits := kmod s.splits sid (fun r => { r with members := r.members.filter (fun t => !ts.contains t) }) }.checkSplit sid) s).arriveAll
      tm sd

/-- Threads are taken out of a group; an empty group is gone. -/
def State.takeOut (s : State) (gid : Nat) (ts : List Nat) : State :=
  let s1 := s.modGrp gid (fun g => { g with members := g.members.filter (fun t => !ts.contains t) })
  if (s1.grp gid).members.isEmpty then { s1 with groups := kdel s1.groups gid } else s1

/-- The number of the group that a thread stands in, if it stands in one. -/
def State.groupOf (s : State) (tm : Nat) (sd : Side) (t : Nat) : Option Nat :=
  (kkeys s.groups).find? (fun k => let g := s.grp k; g.tm == tm && g.side == sd && g.members.contains t)

/-- Index of a thread's group slot among the team's (R66). -/
def State.groupIx (s : State) (k : Nat) : Nat := (s.team (keyTm k)).slots.findIdx (· == (s.thr k).slot)

/-- LIVE and PLIVE of a header, 0 where it cannot be read: a move never faults (R81). -/
def State.liveAt (s : State) (tm : Nat) (h : DWord) : Nat × Nat :=
  match s.fetch tm h 8 with
  | .ok w => match hdrOf w with
    | some x => (x.live, x.plive)
    | none => (0, 0)
  | .error _ => (0, 0)

/-- Moves a thread to a position, with the registers that its header keeps (R81, R82). -/
def State.moveThread (s : State) (k slot lane : Nat) (hdr : DWord) : State :=
  let (l, p) := s.liveAt (keyTm k) hdr
  if (s.thr k).slot = slot ∧ (s.thr k).lane = lane then s
  else s.modThr k (fun t => { s.dropDead k (keySide k) l p t with slot := slot, lane := lane })

/-- Cycles that the quads moved into a group cost (R84). -/
def moveCost (quads live : Nat) : Nat := quads * ceilDiv live 8

/-- Quads among some lanes. -/
def quadsOf (lanes : List Nat) : Nat := (distinct (lanes.map (· / 4))).length

/-- The bins in which threads of a team wait: those of its core, those of this cycle's filing, and the saved ones (R80, R93). -/
def State.binsOf (s : State) (tm : Nat) : List Bin :=
  let c := s.core (s.team tm).core
  (c.bins.map (·.2) ++ c.filing).filter (fun b => b.tm == tm) ++ (s.team tm).savedBins

/-- Whether a thread is saved: its team, its group, or the bin it waits in (R93, R184). -/
def State.savedThr (s : State) (k : Nat) : Bool :=
  (s.team (keyTm k)).mode == .saved ||
  s.groups.any (fun e => e.2.saved && e.2.tm == keyTm k && e.2.side == keySide k && e.2.members.contains (keyIx k)) ||
  (keySide k == .e && (s.team (keyTm k)).savedBins.any (fun b => b.filed.any (fun f => f.thread == keyIx k)))

/-- The header of a thread's current block, or of the bin it waits in. -/
def State.hdrOfThread (s : State) (tm t : Nat) : DWord :=
  match s.groupOf tm .e t with
  | some g => (s.grp g).hdr
  | none => match (s.binsOf tm).find? (fun b => b.filed.any (fun f => f.thread == t)) with
    | some b => b.key
    | none => 0

/-- Moves one displaced thread to its free position (R82 steps 3 and 4). `made` tells the groups formed by this draw: from
which group, in which slot, under which number. -/
def State.displace (s : State) (made : List ((Nat × Nat) × Nat)) (tm t slot lane : Nat) : List ((Nat × Nat) × Nat) × State :=
  let k := tkey tm .e t
  let old := (s.thr k).slot
  let s1 := s.moveThread k slot lane (s.hdrOfThread tm t)
  match s.groupOf tm .e t with
  | none => (made, s1)
  | some gid =>
    let g := s.grp gid
    if slot = old then
      (made, s1.modGrp gid (fun g => { g with members := s1.byLane tm .e g.members }))
    else
      let s2 := s1.takeOut gid [t]
      match made.find? (fun m => m.1 == (gid, slot)) with
      | some m => (made, s2.modGrp m.2 (fun h => { h with members := s2.byLane tm .e (h.members ++ [t]) }))
      | none => (((gid, slot), s2.nextId) :: made, s2.newGroup { g with slot := slot, members := [t] })

/-- The next issue of each group into which displaced threads have moved is late by the cycles of their quads (R84). -/
def State.delayMoved (s : State) (tm : Nat) (ts : List Nat) : State :=
  (distinct (ts.filterMap (fun t => s.groupOf tm .e t))).foldl (fun s gid =>
    let g := s.grp gid
    let lanes := (g.members.filter (fun t => ts.contains t)).map (fun t => (s.thr (tkey tm .e t)).lane)
    let cost := moveCost (quadsOf lanes) (s.liveAt tm g.hdr).1
    s.modGrp gid (fun h => { h with readyAt := max h.readyAt (s.cycle + 1 + cost) })) s

/-- Draws threads of a bin into a fresh group before the key header (R81, R82). Threads that have exited hold no lane any more
(log 108, DESIGN CHOICE), and a group that has never issued counts as last issued when it was drawn or started (log 109, DESIGN
CHOICE). -/
def State.drawThreads (s : State) (tm : Nat) (key : DWord) (priv : Bool) (ts : List Nat) : State :=
  let n := ts.length
  let slotOf := fun t => (s.thr (tkey tm .e t)).slot
  let slot := ts.foldl (fun m t => min m (slotOf t)) (slotOf (ts.headD 0))
  let team := s.team tm
  let others := (s.liveOf tm .e).filter (fun t => !ts.contains t)
  let inWay := fun t => slotOf t == slot && decide ((s.thr (tkey tm .e t)).lane < n)
  let disp := others.filter inWay
  let held := (others.filter (fun t => !inWay t)).map (fun t => (slotOf t, (s.thr (tkey tm .e t)).lane))
  let lanes := List.range team.tpg
  let rest := (sortBy (fun a b => decide (a < b)) team.held).filter (· != slot)
  let free := ((lanes.drop n).map (fun l => (slot, l)) ++ rest.flatMap (fun sl => lanes.map (fun l => (sl, l)))).filter
    (fun p => !held.contains p)
  let s1 := (((disp.zip free).foldl (fun (m, s) e => s.displace m tm e.1 e.2.1 e.2.2) ([], s)).2).delayMoved tm disp
  let moved := (ts.zip lanes).filter (fun e => slotOf e.1 != slot || (s.thr (tkey tm .e e.1)).lane != e.2)
  let s2 := (ts.zip lanes).foldl (fun s e => s.moveThread (tkey tm .e e.1) slot e.2 key) s1
  s2.newGroup { tm := tm, side := .e, slot := slot, members := ts, pc := key, hdr := key, len := 0, entering := true,
                priv := priv,
                stack := [], lastIssue := s.cycle, yielded := none, saved := false,
                readyAt := s.cycle + 1 + moveCost (quadsOf (moved.map (·.2))) (s.liveAt tm key).1 }

/-- Draws the first n threads of a bin; an empty bin is free (R80, R81). -/
def State.drawBin (s : State) (core bin n : Nat) : State :=
  match kget (s.core core).bins bin with
  | none => s
  | some b =>
    let left := b.filed.drop n
    let s1 := s.modCore core (fun c =>
      { c with bins := if left.isEmpty then kdel c.bins bin else kput c.bins bin { b with filed := left } })
    s1.drawThreads b.tm b.key b.priv ((b.filed.take n).map (·.thread))

/-- Whether a bin is keyed by a KIND 2 header. -/
def State.loopBin (s : State) (b : Bin) : Bool :=
  match s.fetch b.tm b.key 8 with
  | .ok w => match hdrOf w with
    | some h => h.kind == 2
    | none => false
  | .error _ => false

/-- The cycle in which the oldest entry of a bin was filed. -/
def Bin.oldest (b : Bin) : Nat := match b.filed with | [] => 0 | f :: _ => f.cycle

/-- The bin drawn when every bin is in use (R80): the longest waiting of those not keyed by a loop head, then the lowest. -/
def State.binToDraw (s : State) (core : Nat) : Nat :=
  let bins := (s.core core).bins
  let plain := bins.filter (fun b => !s.loopBin b.2)
  let cand := if plain.isEmpty then bins else plain
  match cand with
  | [] => 0
  | b :: t => (t.foldl (fun m x => if x.2.oldest < m.2.oldest then x else m) b).1

/-- The free bin that a new key takes: the one of the lowest number; the spec says a free bin (log 107, DESIGN CHOICE). -/
def Core.freeBin (c : Core) : Option Nat := (List.range 16).find? (fun i => (kget c.bins i).isNone)

/-- Draws a bin as often as it holds the team's threads per group (R81). -/
def State.drawFull (s : State) (core bin tpg n : Nat) : State :=
  match n with
  | 0 => s
  | n + 1 => match kget (s.core core).bins bin with
    | some b => if tpg ≤ b.filed.length then (s.drawBin core bin tpg).drawFull core bin tpg n else s
    | none => s

/-- Adds entries to the bin of a key, and draws it where it is full (R80, R81). -/
def State.fileEntries (s : State) (core tm : Nat) (key : DWord) (priv : Bool) (new : List Filed) : State :=
  let mine := (s.core core).bins.find? (fun b => b.2.tm == tm && b.2.key == key && b.2.priv == priv)
  let s1 := match mine, (s.core core).freeBin with
    | none, none => let b := s.binToDraw core; s.drawBin core b (((kget (s.core core).bins b).map (fun (x : Bin) => x.filed.length)).getD 0)
    | _, _ => s
  let bin := match mine with
    | some b => b.1
    | none => ((s1.core core).freeBin).getD 0
  let have_ := ((kget (s1.core core).bins bin).map (fun (x : Bin) => x.filed)).getD []
  let all := sortBy (fun (a b : Filed) => decide (a.cycle < b.cycle) || (a.cycle == b.cycle && decide (a.thread < b.thread))) (have_ ++ new)
  (s1.modCore core (fun c => { c with bins := kput c.bins bin { tm := tm, key := key, priv := priv, filed := all } })).drawFull core bin
    (s.team tm).tpg all.length

/-- Files threads in this cycle: they enter their bins at its end (R80). -/
def State.fileThreads (s : State) (core tm : Nat) (key : DWord) (priv : Bool) (ts : List Nat) : State :=
  let new := ts.map (fun t => ({ tm := tm, key := key, priv := priv, filed := [{ thread := t, cycle := s.cycle }] } : Bin))
  s.modCore core (fun c => { c with filing := c.filing ++ new })

/-- What a core's groups have filed in a cycle enters the bins, key by key in the order of the issues, within a key by ascending
thread index (R80). -/
def State.flushFiling (s : State) (core : Nat) : State :=
  let l := (s.core core).filing
  let keys := distinct (l.map (fun b => (b.tm, b.key, b.priv)))
  keys.foldl (fun s x => s.fileEntries core x.1 x.2.1 x.2.2
    ((l.filter (fun b => b.tm == x.1 && b.key == x.2.1 && b.priv == x.2.2)).flatMap (·.filed)))
    (s.modCore core (fun c => { c with filing := [] }))

/-- The age at which the oldest entry of a bin forces a draw; 0 behaves as 1 (R83). -/
def Core.ageOf (c : Core) : Nat := max 1 c.age.toNat

end Sys2Proof.Machine
end

