-- ==== Sys2Proof/Machine/Ends.lean ====
section
/-! DEFINITION. Cause codes (Table 9-3), the fields the device writes into a TCB (Tables 8-1 to 8-3), telemetry and
machine-check records, and the end of a team and of a task (R194). -/

namespace Sys2Proof.Machine

/-- The code of a cause (Table 9-3). -/
def Cause.code : Cause → Nat
  | .none => 0x00
  | .illegalOp => 0x01
  | .badPrefix => 0x02
  | .badOperand => 0x03
  | .sideMismatch => 0x04
  | .badTarget => 0x05
  | .priv => 0x06
  | .badHeader => 0x07
  | .xlate => 0x10
  | .perm => 0x11
  | .align => 0x12
  | .race => 0x13
  | .versionOverflow => 0x14
  | .owner => 0x15
  | .integrity => 0x16
  | .cvtPolicy => 0x20
  | .divZero => 0x21
  | .queueFullExit => 0x30
  | .queueDeadlock => 0x31
  | .queueUnderflow => 0x32
  | .mmaFormat => 0x40
  | .badContinuation => 0x41
  | .cvMismatch => 0x42
  | .kvPageQuarantined => 0x50
  | .kvDirectoryFull => 0x51
  | .remoteTimeout => 0x60
  | .expertStarved => 0x61
  | .remoteRefused => 0x62
  | .trap n => 0x70 + n.toNat
  | .brk => 0x78
  | .step => 0x79
  | .abortRequested => 0x7D
  | .ended => 0x7E
  | .machineCheck => 0x7F

/-- The location of a physical address. -/
def locOfPa (pa : Nat) : Loc := if isHost pa then .host pa else .hbm pa

/-- Writes a field of a task's TCB, as one step at its home Sett (R171, R172). -/
def State.tcbPut (s : State) (t off n v : Nat) : State :=
  s.unitWrite (locOfPa ((s.task t).pa + off)) (leBytes n v) none

/-- A status word (Table 8-2). -/
def statusWord (state cause side thread : Nat) : Nat :=
  side * 2 ^ 26 + thread * 2 ^ 16 + cause * 2 ^ 8 + state

/-- A task takes a state, with its status word. -/
def State.setState (s : State) (t state cause side thread : Nat) : State :=
  (s.tcbPut t 0x2C 4 (statusWord state cause side thread)).modTask t (fun q => { q with state := state })

/-- Number of the source of host submissions and Ecide's acts (Table 1-1, R176). -/
def hostSource : Nat := 332

/-- The number under which the corrected errors of an agent's array are counted. -/
def errKey (source array : Nat) : Nat := 16 * source + array

/-- Corrected errors of an agent's array since boot (R130, Table 5-4). -/
def State.errCount (s : State) (source array : Nat) : Word := BitVec.ofNat 32 (kgetD s.errs (errKey source array) 0)

/-- The array in which a bad word at a place was found: scratchpad; L1 or instruction cache of a core; else what SCRUB_ERROR
reported of the address, HBM4E where no record names it (Table 5-4). -/
def State.errArray (s : State) (core : Nat) (l : Loc) : Nat :=
  match l with
  | .scratch _ _ => 3
  | _ =>
    if s.bad.contains l.wkey then
      match s.mclog.find? (fun r => r.w2.toNat / 4 == l.key / 8) with
      | some r => (r.w1.extractLsb' 40 8).toNat
      | none => 9
    else if s.badL1.contains (core, l.wkey) then 4
    else if s.badCode.contains (core, l.wkey) then 6
    else 9

/-- A machine-check record to the management core's log and to the partition's telemetry ring (R131, Table 5-4). The
syndrome is a free value. -/
def State.machineCheck (s : State) (p source array kind addr : Nat) : State :=
  let syn : Word := BitVec.ofNat 32 (s.choose 7 (2 ^ 32))
  let r : TelRec := { gtc := s.gtc, w1 := BitVec.ofNat 16 source ++ BitVec.ofNat 8 array ++ BitVec.ofNat 8 kind ++ 0#32,
                      w2 := BitVec.ofNat 64 addr, w3 := syn ++ s.errCount source array }
  { s with mclog := s.mclog ++ [r] }.telemetry p r

/-- ADDR of a record for a place: the physical address, or an index into the scratchpad of the team's core. -/
def State.errAddr (s : State) (l : Loc) : Nat :=
  match l with
  | .scratch tm off => (s.team tm).tbase * 16384 + off
  | .hbm pa => pa
  | .host pa => pa

/-- The record of an uncorrectable error that a consumer met at an address (R131): the first bad word of the line or two that it
reads from, at the place to which the address leads, or the page-table entry of its walk. -/
def State.consumedAt (s : State) (p source core : Nat) (l : Option Loc) (va : DWord) : State :=
  match l with
  | some l =>
    let at_ := (List.range 64).find? (fun i => let w := (l.plus (4 * i)).wkey
      s.bad.contains w || s.badL1.contains (core, w) || s.badCode.contains (core, w))
    match at_ with
    | some i => s.machineCheck p source (s.errArray core (l.plus (4 * i))) 1 (s.errAddr (l.plus (4 * i)))
    | none => s
  | none => match (s.walkCells va.toNat walkPlan (s.root p)).find? (fun c => s.corrupt ((Loc.hbm c).words 8)) with
    | some c => s.machineCheck p source (s.errArray core (.hbm c)) 1 c
    | none => s

/-- The same for an access of a team. -/
def State.consumed (s : State) (p tm source : Nat) (va : DWord) : State :=
  s.consumedAt p source (s.team tm).core ((s.resolve tm va).map Res.loc) va

/-- Array index of a register of a thread, by its key: v of an execute thread, x of an access thread (Table 5-4). -/
def regIndex (k n : Nat) : Nat := 128 * k + n

/-- Array index of an element of a pair's queues: queue n is n, return queue n is 16 + n, store-data queue n is 32 + n (Table 5-4). -/
def queueIndex (pk code pos : Nat) : Nat := (64 * pk + code) * 64 + pos

/-- Bad elements of a pair's queues: queue and position. -/
def Pair.badElems (p : Pair) : List (Nat × Nat) :=
  let at_ := fun (code : Nat) (l : List Bool) => l.zipIdx.filterMap (fun e => if e.1 then some (code, e.2) else none)
  p.q.flatMap (fun e => at_ e.1 (e.2.places.map (fun x => match x with | .full _ _ _ bad => bad | _ => false))) ++
    p.rq.flatMap (fun e => at_ (16 + e.1) (e.2.map (·.bad))) ++ p.sq.flatMap (fun e => at_ (32 + e.1) (e.2.map (·.bad)))

/-- The record of an uncorrectable error that a thread met in a register, or in an element of its queues (R131). -/
def State.consumedReg (s : State) (p source k : Nat) : State :=
  match (s.thr k).bad, (s.pair (pairOf k)).badElems with
  | n :: _, _ => s.machineCheck p source (keySide k).num 1 (regIndex k n)
  | [], e :: _ => s.machineCheck p source 2 1 (queueIndex (pairOf k) e.1 e.2)
  | [], [] => s

/-- What a team holds is gone: its threads, pairs, groups, records, bins, commands and requests (R94, R194). -/
def State.discardTeam (s : State) (tm : Nat) : State :=
  let gone := (kkeys s.groups).filter (fun k => (s.grp k).tm == tm)
  let sids := distinct (gone.flatMap (fun k => (s.grp k).stack))
  { s with
    threads := s.threads.filter (fun e => keyTm e.1 != tm)
    pairs := s.pairs.filter (fun e => e.1 / 1024 != tm)
    groups := s.groups.filter (fun e => e.2.tm != tm)
    splits := s.splits.filter (fun e => !sids.contains e.1)
    teams := kdel s.teams tm
    clusters := s.clusters.map (fun e => (e.1, { e.2 with teams := e.2.teams.filter (· != tm) }))
    cores := s.cores.map (fun e => (e.1, { e.2 with bins := e.2.bins.filter (fun b => b.2.tm != tm),
                                                    filing := e.2.filing.filter (fun b => b.tm != tm),
                                                    bear := e.2.bear.filter (fun c => c.tm != tm) }))
    copies := s.copies.filter (fun c => c.tm != tm)
    kvqs := s.kvqs.filter (fun q => q.tm != tm)
    sends := s.sends.filter (fun n => n.tm != tm)
    ctxs := s.ctxs.filter (fun e => e.2 != tm)
    badAcc := s.badAcc.filter (fun e => e.1 != tm)
    bad := s.bad.filter (fun w => w % 2 == 0 || w / 2 * 4 / 2 ^ 20 != tm)
    due := s.due.filter (fun g => !gone.contains g) }

/-- The bind records of a task that has ended are valid no more: no team of it starts (R194). -/
def State.clearRecs (s : State) (t : Nat) : State :=
  let k := s.task t
  { s with cores := s.cores.map (fun c => (c.1, if c.2.part == some k.part then
      { c.2 with table := c.2.table.map (fun e => (e.1, if e.2.tcb == k.va then { e.2 with ctx := setBit e.2.ctx 0 false } else e.2)) }
    else c.2)) }

/-- The teams of a task. -/
def State.teamsOf (s : State) (t : Nat) : List Nat := (kkeys s.teams).filter (fun n => (s.team n).task == t)

/-- A task ends as one step (R147, R194): partials merged, the version discarded, its teams discarded, the TCB written. -/
def State.endTask (s : State) (t state : Nat) (cause : Cause) (side thread : Nat) (pc addr : Option DWord) : State :=
  let s1 := s.mergeTask t
  let s2 := ((s1.teamsOf t).foldl (fun s n => s.discardTeam n) s1).clearRecs t
  let s3 := s2.setState t state cause.code side thread
  let s4 := match pc, addr with
    | some p, some a => (s3.tcbPut t 0x50 8 p.toNat).tcbPut t 0x58 8 a.toNat
    | _, _ => s3
  let s5 := (s4.tcbPut t 0x70 8 (s.task t).strong).tcbPut t 0x48 8 s.gtc.toNat
  let s6 := s5.modTask t (fun q => { q with ver := [], vlines := [], oldCode := [], succs := [] })
  { s6 with acc := (s6.acc.map (fun e => (e.1, e.2.filter (fun a => a.task != t)))).filter (fun e => !e.2.isEmpty),
            clusters := s6.clusters.filter (fun e => e.2.task != t) }

/-- Every ending writes a telemetry record (R195). -/
def State.endRecord (s : State) (tm : Nat) (cause : Cause) : State :=
  let t := s.team tm
  s.telemetry t.part (s.causeRec (s.srcCore t.core) cause.code (s.task t.task).va (BitVec.ofNat 64 t.no))

end Sys2Proof.Machine
end

