-- ==== Sys2Proof/Machine/Queues.lean ====
section
/-! DEFINITION. The queues of a pair: pushes, pops and peeks with the effects of a partner's exit (R96 to R105, Table 4-4). -/

namespace Sys2Proof.Machine

/-- Whether the first place of a queue can be popped, and what it holds. -/
def Queue.head (q : Queue) : Option (Word × Bool × Clock) :=
  match q.places with
  | .full w tag clk _ :: _ => some (w, tag, clk)
  | _ => none

/-- What a pop or peek of a data queue meets where the place it needs is not poppable (R100, Table 4-4): `gone` says that the
access partner has exited. `none` stands for the value 0 past the end of a stream. -/
def Queue.stall (q : Queue) (n : Nat) (rest : List Place) (gone : Bool) : Try Unit :=
  if q.flushed then .trap .queueUnderflow 0
  else if rest.isEmpty && gone then (if q.endSeen then .ok () else .trap .queueUnderflow 0)
  else .park (.popQ n 0)

/-- Pops one element of data queue n; INTEGRITY where its word holds an uncorrectable error (R131). -/
def Pair.pop (p : Pair) (n : Nat) (gone : Bool) (clk : Clock) : Try (Word × Pair × Clock) :=
  let q := p.queue n
  match q.places with
  | .full w tag c bad :: rest =>
    if q.flushed then .trap .queueUnderflow 0
    else if bad then .trap .integrity 0
    else .ok (w, p.setQ n { q with places := rest, endSeen := tag }, clkJoin clk c)
  | ps => tryThen (q.stall n ps gone) (fun _ => .ok (0, p, clk))

/-- Reads the i-th element of data queue n without popping it. -/
def Pair.peek (p : Pair) (n i : Nat) (gone : Bool) : Try Word :=
  let q := p.queue n
  match q.places.drop i with
  | .full w _ _ bad :: _ =>
    if q.flushed then .trap .queueUnderflow 0 else if bad then .trap .integrity 0 else .ok w
  | ps => tryThen (q.stall n ps gone) (fun _ => .ok 0)

/-- Pops one element of return queue n (R97, Table 4-4). -/
def Pair.popRet (p : Pair) (n : Nat) (gone : Bool) (clk : Clock) : Try (Word × Pair × Clock) :=
  match p.getRq n with
  | e :: rest => if e.bad then .trap .integrity 0 else .ok (e.w, p.setRq n rest, clkJoin clk e.clk)
  | [] => if gone then .trap .queueUnderflow 0 else .park (.popRq n)

/-- Reads the head of return queue n. -/
def Pair.peekRet (p : Pair) (n : Nat) (gone : Bool) : Try Word :=
  match p.getRq n with
  | e :: _ => if e.bad then .trap .integrity 0 else .ok e.w
  | [] => if gone then .trap .queueUnderflow 0 else .park (.popRq n)

/-- Pushes a word onto return queue n (R99, Table 4-4). -/
def Pair.pushRet (p : Pair) (n : Nat) (w : Word) (gone : Bool) (clk : Clock) : Try Pair :=
  if gone then .trap .queueFullExit 0
  else if Config.fixedDepth ≤ (p.getRq n).length then .park (.pushRq n)
  else .ok (p.setRq n (p.getRq n ++ [{ w := w, clk := clk, bad := false }]))

/-- Pushes a word onto store-data queue n. -/
def Pair.pushStore (p : Pair) (n : Nat) (w : Word) (gone : Bool) (clk : Clock) : Try Pair :=
  if gone then .trap .queueFullExit 0
  else if Config.fixedDepth ≤ (p.getSq n).length then .park (.pushSq n)
  else .ok (p.setSq n (p.getSq n ++ [{ w := w, clk := clk, bad := false }]))

/-- Takes m elements of store-data queue n, in order (R97, Table 4-4). -/
def Pair.takeStore (p : Pair) (n m : Nat) (gone : Bool) (clk : Clock) : Try (List Word × Pair × Clock) :=
  let l := p.getSq n
  if l.length < m then (if gone then .trap .queueUnderflow 0 else .park (.fewSq n m))
  else if (l.take m).any (·.bad) then .trap .integrity 0
  else .ok ((l.take m).map (·.w), p.setSq n (l.drop m), (l.take m).foldl (fun c e => clkJoin c e.clk) clk)

/-- What a push to data queue n meets (R99, Table 4-4): false where the push is discarded, true where its places are free. -/
def Pair.room (p : Pair) (n m depth : Nat) (gone : Bool) : Try Bool :=
  let q := p.queue n
  if q.flushed then .ok false
  else if gone then .trap .queueFullExit 0
  else if depth < q.places.length + m then .park (.pushQ n m)
  else .ok true

/-- Adds places at the tail of data queue n. -/
def Pair.addPlaces (p : Pair) (n : Nat) (l : List Place) : Pair :=
  let q := p.queue n
  p.setQ n { q with places := q.places ++ l }

/-- A place that is a pending fault; one that the handler has sent back for another load is not (R349). -/
def Place.isPend : Place → Bool
  | .pend .none _ _ _ => false
  | .pend _ _ _ _ => true
  | _ => false

/-- A pending fault of an `ldq` or `nget`: a pending-fault record (R110). A stream's place is none (R349). -/
def Place.isRecord : Place → Bool
  | .pend .none _ _ _ => false
  | .pend _ _ none _ => true
  | _ => false

/-- A place that can be popped. -/
def Place.isFull : Place → Bool
  | .full _ _ _ _ => true
  | _ => false

/-- The position of the first place that cannot be popped: the one that a stopped pop or peek needs, since those before it can. -/
def Queue.firstShut (q : Queue) : Nat := q.places.findIdx (fun p => !p.isFull)

/-- Whether nothing stands at a position of a queue, or a stream's pending-fault place does, for R106 (R349). -/
def Queue.emptyAt (q : Queue) (i : Nat) : Bool :=
  match q.places.drop i with
  | [] => true
  | p :: _ => p.isPend && !p.isRecord

/-- Slip: places reserved and not yet popped (R113). -/
def Queue.count (q : Queue) : Nat := q.places.length

/-- The status word of a data queue (Table 4-5): `gone` says that the reader's partner has exited. -/
def Queue.status (q : Queue) (depth : Nat) (gone : Bool) : Word :=
  BitVec.ofNat 32 (depth * 2 ^ 16 + q.flushed.toNat * 2 ^ 15 + q.endSeen.toNat * 2 ^ 14 + gone.toNat * 2 ^ 13 +
    (q.places.any Place.isPend).toNat * 2 ^ 12 + q.count)

/-- Whether the partner of a thread has exited. -/
def State.partnerGone (s : State) (k : Nat) : Bool := (s.thr (partner k)).exited

/-- The byte of the slip registers of a queue (Table 4-7). -/
def Queue.slipByte (q : Queue) : Nat := q.flushed.toNat * 128 + q.count

end Sys2Proof.Machine
end

