-- ==== Sys2Proof/Machine/Operands.lean ====
section
/-! DEFINITION. Operands (R40 to R48): what a source code may be on each side, what it reads, destinations, and the address of
a memory operation. -/

namespace Sys2Proof

/-- Whether a source code is allowed on a side (Table 2-10, R45, R96). -/
def Src.okOn (src : Src) (sd : Side) (nq : Nat) (wide : Bool) : Bool :=
  match src, sd with
  | .reg n, .e => !wide || n.toNat % 2 == 0
  | .reg n, .a => decide (n.toNat < 32)
  | .pop q, .e => decide (q.toNat < nq)
  | .pop q, .a => decide (q.toNat < 4)
  | .peek q, .e => decide (q.toNat < nq)
  | .peek q, .a => decide (q.toNat < 4)
  | _, _ => true

/-- Whether a source is an s register. -/
def Src.isS : Src → Bool
  | .sreg _ => true
  | _ => false

/-- The fourth source, named by the C field of VX (R32, R322): none without a VX prefix, or where the code names none. -/
def Pfx.cSrc (p : Pfx) : Option Src :=
  match p.vx with
  | some v => srcOf v.c none
  | none => none

/-- The C field, if there is one, names an operand (R43). -/
def Pfx.cOk (p : Pfx) : Bool :=
  match p.vx with
  | some v => (srcOf v.c none).isSome
  | none => true

/-- The C field of VX, 0 without one. -/
def Pfx.cByte (p : Pfx) : Byte :=
  match p.vx with
  | some v => v.c
  | none => 0

/-- The rounding code of VX, 0 without one (R37). -/
def Pfx.rc (p : Pfx) : Nat :=
  match p.vx with
  | some v => v.rc.toNat
  | none => 0

/-- Whether the guard of an instruction holds for a thread (R32, R39). -/
def Pfx.holds (p : Pfx) (t : Sys2Proof.Machine.Thread) : Bool :=
  match p.vx with
  | some v => t.pred v.mask.toNat != v.neg
  | none => true

/-- Whether inactive destinations are written 0 (R39). -/
def Pfx.zeroes (p : Pfx) : Bool :=
  match p.vx with
  | some v => v.zero
  | none => false

/-- The order of an access (R34). -/
def Pfx.order (p : Pfx) : BitVec 3 :=
  match p.mxa with
  | some m => m.order
  | none => 0

/-- The observer mask of an access (R34). -/
def Pfx.obs (p : Pfx) : BitVec 5 :=
  match p.mxa with
  | some m => m.obs
  | none => 0

end Sys2Proof

namespace Sys2Proof.Machine

/-- The type an instruction gives an operand (R33, R42): integer or raw bits of 32 or 64 bits, a float, a packed pair. -/
inductive OTy where
  | int32
  | int64
  | flt (f : Fm)
  | pair (f : Fm)
deriving DecidableEq, Repr

/-- Whether an operand has 64 bits. -/
def OTy.wide : OTy → Bool
  | .int64 => true
  | .flt .f64 => true
  | _ => false

/-- The integer operand type of a side: 32 bits on the execute side, 64 on the access side. -/
def intOf : Side → OTy
  | .e => .int32
  | .a => .int64

/-- The code of a small integer in a format. -/
def Fm.ofInt (f : Fm) (n : Int) : Nat := (f.round 0 (decide (n < 0)) n.natAbs 0 0).code

/-- A small immediate as an operand type reads it (R42). -/
def OTy.small (ty : OTy) (c : BitVec 5) : DWord :=
  let n : Int := (c.toNat : Int) - 16
  match ty with
  | .int32 => (BitVec.ofInt 32 n).setWidth 64
  | .int64 => BitVec.ofInt 64 n
  | .flt f => BitVec.ofNat 64 (f.ofInt n)
  | .pair f => BitVec.ofNat 64 (f.ofInt n * 65537)

/-- An f32 pattern widened to f64: exactly, and a NaN bit for bit (R33). -/
def widen (c : Nat) : Nat :=
  match Fm.f32.decode c with
  | .nan _ => bitsOf c 31 1 * 2 ^ 63 + 0x7FF * 2 ^ 52 + bitsOf c 0 23 * 2 ^ 29
  | .inf n => Fm.f64.infOrMax n
  | .fin n m e => (Fm.f64.round 0 n m e 0).code

/-- The IMX value as an operand type reads it (R33). -/
def OTy.imx (ty : OTy) (v : BitVec 24) : DWord :=
  match ty with
  | .int32 => (v.signExtend 32).setWidth 64
  | .int64 => v.signExtend 64
  | .flt .f64 => BitVec.ofNat 64 (widen (v.toNat * 256))
  | .flt _ => BitVec.ofNat 64 (v.toNat * 256)
  | .pair _ => BitVec.ofNat 64 (v.toNat % 65536 * 65537)

/-- At most one s register among the sources (R43). -/
def oneS (l : List Src) : Bool := decide ((l.filter Src.isS).length ≤ 1)

/-- Whether D names a value destination of a side (R44, R45). -/
def dstOk (sd : Side) (wide : Bool) (d : BitVec 7) : Bool :=
  match sd with
  | .e => !wide || d.toNat % 2 == 0
  | .a => decide (d.toNat < 32)

/-- What a read of a team register or s register may return in a cycle (R89): never a write of this cycle; of a write one or
two cycles old, the value before that cycle or the final one. The final one comes first. -/
def UReg.reads (u : UReg) (now : Nat) : List DWord :=
  let base := match u.hist.find? (fun e => e.1 == now) with
    | some e => e.2
    | none => u.cur
  base :: (u.hist.filter (fun e => decide (e.1 < now ∧ now ≤ e.1 + 2))).map (·.2)

/-- A write of a team register or s register (R89): within one cycle the last stands. -/
def UReg.write (u : UReg) (now : Nat) (v : DWord) : UReg :=
  let old := u.hist.filter (fun e => decide (now ≤ e.1 + 2))
  { cur := v, hist := if old.any (fun e => e.1 == now) then old else (now, u.cur) :: old }

/-- An s register of a side of a team, as read now (R68, R89). -/
def State.readS (s : State) (tm : Nat) (sd : Side) (n : Nat) : DWord :=
  let l := (kgetD ((s.team tm).sregs sd) n (freshUReg 0)).reads s.cycle
  l.getD (s.choose (2 ^ 84 + n) l.length) 0

/-- A team register, as read now (R88, R89). -/
def State.readTr (s : State) (tm n : Nat) : DWord :=
  let l := (kgetD (s.team tm).tr n (freshUReg 0)).reads s.cycle
  l.getD (s.choose (2 ^ 84 + 64 + n) l.length) 0

/-- Writes an s register of a side (R68). -/
def State.writeS (s : State) (tm : Nat) (sd : Side) (n : Nat) (v : DWord) : State :=
  s.modTeam tm (fun t => match sd with
    | .e => { t with sE := kput t.sE n ((kgetD t.sE n (freshUReg 0)).write s.cycle v) }
    | .a => { t with sA := kput t.sA n ((kgetD t.sA n (freshUReg 0)).write s.cycle v) })

/-- Writes a team register (R88). -/
def State.writeTr (s : State) (tm n : Nat) (v : DWord) : State :=
  s.modTeam tm (fun t => { t with tr := kput t.tr n ((kgetD t.tr n (freshUReg 0)).write s.cycle v) })

/-- What reading operands changes: the pair's queues and what the thread knows through its pops (R41, R101). -/
structure Rd where
  p : Pair
  clk : Clock
deriving DecidableEq, Repr

/-- The low word of a value where the operand has 32 bits (R40). -/
def narrowTo (wide : Bool) (v : DWord) : DWord := if wide then v else (v.setWidth 32).setWidth 64

/-- A word as the low half of an operand. -/
def ofWord (w : Word) : DWord := w.setWidth 64

/-- A pop of a source: one element, or on the execute side two for 64 bits, low word first (R97). -/
def popSrc (sd : Side) (wide gone : Bool) (q : Nat) (rd : Rd) : Try (DWord × Rd) :=
  match sd with
  | .a => tryThen (rd.p.popRet q gone rd.clk) (fun (w, p, c) => .ok (ofWord w, ⟨p, c⟩))
  | .e =>
    tryThen (rd.p.pop q gone rd.clk) fun (w, p, c) =>
    if wide then tryThen (p.pop q gone c) (fun (h, p', c') => .ok (h ++ w, ⟨p', c'⟩)) else .ok (ofWord w, ⟨p, c⟩)

/-- A peek of a source. -/
def peekSrc (sd : Side) (wide gone : Bool) (q : Nat) (rd : Rd) : Try (DWord × Rd) :=
  match sd with
  | .a => tryThen (rd.p.peekRet q gone) (fun w => .ok (ofWord w, rd))
  | .e =>
    tryThen (rd.p.peek q 0 gone) fun w =>
    if wide then tryThen (rd.p.peek q 1 gone) (fun h => .ok (h ++ w, rd)) else .ok (ofWord w, rd)

/-- Reads a source operand of a thread (Table 2-10). -/
def State.readSrc (s : State) (k : Nat) (ty : OTy) (src : Src) (rd : Rd) : Try (DWord × Rd) :=
  let sd := keySide k
  let th := s.thr k
  let wide := ty.wide || sd == .a
  match src with
  | .reg n => match sd with
    | .e => tryThen (th.soundRegs (n.toNat :: if ty.wide then [n.toNat + 1] else []))
        (fun _ => .ok (if ty.wide then th.getVV n.toNat else ofWord (th.getV n.toNat), rd))
    | .a => tryThen (th.soundRegs [n.toNat]) (fun _ => .ok (th.getX n.toNat, rd))
  | .sreg n => .ok (narrowTo wide (s.readS (keyTm k) sd n.toNat), rd)
  | .pop q => popSrc sd ty.wide (s.partnerGone k) q.toNat rd
  | .peek q => peekSrc sd ty.wide (s.partnerGone k) q.toNat rd
  | .imm c => .ok (ty.small c, rd)
  | .tr n => .ok (narrowTo wide (s.readTr (keyTm k) n.toNat), rd)
  | .zero => .ok (0, rd)
  | .thread => .ok (BitVec.ofNat 64 (keyIx k), rd)
  | .lane => .ok (BitVec.ofNat 64 th.lane, rd)
  | .group => .ok (BitVec.ofNat 64 (s.groupIx k), rd)
  | .rank => .ok (BitVec.ofNat 64 (s.team (keyTm k)).rank, rd)
  | .imx v => .ok (ty.imx v, rd)

/-- Reads a list of source operands in order (R41). -/
def State.readSrcs (s : State) (k : Nat) (l : List (OTy × Src)) (rd : Rd) : Try (List DWord × Rd) :=
  match l with
  | [] => .ok ([], rd)
  | (ty, x) :: t =>
    tryThen (s.readSrc k ty x rd) fun (v, rd1) =>
    tryThen (s.readSrcs k t rd1) fun (vs, rd2) => .ok (v :: vs, rd2)

/-- What a thread starts reading from. -/
def State.rd (s : State) (k : Nat) : Rd := { p := s.pair (pairOf k), clk := (s.thr k).clk }

/-- Whether A and B form an address (R48). -/
def addrOk (a b : Src) : Bool :=
  (match a with | .reg n => decide (n.toNat < 32) | _ => false) &&
  (match b with
    | .reg n => decide (n.toNat < 32)
    | .sreg _ => true
    | .imm _ => true
    | .zero => true
    | .imx _ => true
    | _ => false)

/-- The value of an operand that needs no queue, on the access side. -/
def State.plainA (s : State) (k : Nat) (src : Src) : DWord :=
  match src with
  | .reg n => (s.thr k).getX n.toNat
  | _ => match s.readSrc k .int64 src (s.rd k) with
    | .ok (v, _) => v
    | _ => 0

/-- The address x(A) + value(B) of a thread, modulo 2^64 (R48). -/
def State.addr (s : State) (k : Nat) (a b : Src) : DWord := s.plainA k a + s.plainA k b

/-- The x registers that some operands read. -/
def regsOf (l : List Src) : List Nat := l.filterMap (fun x => match x with | .reg n => some n.toNat | _ => none)

/-- Whether the registers that an access instruction reads through some operands hold sound words (R131). -/
def State.soundOps (s : State) (k : Nat) (l : List Src) : Try Unit := (s.thr k).soundRegs (regsOf l)

/-- The rounding code in effect: rdyn takes the thread's dynamic mode (R157, R160). -/
def rcOf (rc : Nat) (mode : DWord) : Nat := if rc = 7 then (mode.extractLsb' 0 3).toNat else rc

end Sys2Proof.Machine
end

