-- ==== Sys2Proof/Machine/Ops.lean ====
section
/-! DEFINITION. The operations every meaning is built of: the checks before an instruction, its threads' attempts and how they
settle, going on to the next instruction, taking an exception (R188 to R191, R405) and returning from one (R193), and the end
of a group. -/

namespace Sys2Proof.Machine

/-- The outcome of a step. -/
abbrev Out := Host.Outcome State Fault Refusal

/-- What a thread met: its cause and what the handler registers report of it (R188, Table 9-1). -/
structure Hit where
  cause : Cause
  faddr : DWord
  fgtc : DWord
  other : DWord
  otask : DWord
  done : Bool
  defer : Bool
  byMatch : Bool
  place : Option Nat
  /-- What the delivery pays off. -/
  owed : Owed
deriving DecidableEq, Repr

/-- A thread that met no cause. -/
def State.noHit (s : State) : Hit :=
  { cause := .none, faddr := 0, fgtc := s.gtc, other := 0, otask := 0, done := false, defer := false, byMatch := false,
    place := none, owed := .none }

/-- A cause met now, with its address. -/
def State.hit (s : State) (c : Cause) (faddr : DWord) : Hit := { s.noHit with cause := c, faddr := faddr }

/-- `sr.other` of a race (Table 6-9). -/
def raceOther (e : Acc) (write : Bool) : DWord :=
  BitVec.ofNat 64 (e.source * 2 ^ 48 + e.kind * 2 ^ 46 + e.write.toNat * 2 ^ 45 + write.toNat * 2 ^ 44 + e.thread * 2 ^ 32 + e.teamNo)

/-- A race met now: the stamp and the task are those of the earlier access (R143). -/
def State.raceHit (s : State) (faddr : DWord) (e : Acc) (write : Bool) : Hit :=
  { s.hit .race faddr with fgtc := e.gtc, other := raceOther e write, otask := e.taskId }

/-- The queue whose pending-fault place a delivery leaves to the handler. -/
def Owed.place (x : Owed) (c : Cause) : Option Nat :=
  match x, c with
  | .stream _, .queueFullExit => Option.none
  | .stream q, _ => Option.some q
  | _, _ => Option.none

/-- A cause delivered late (R110, R261, R268, R349): a stream's place awaits the handler's answer. -/
def State.lateHit (s : State) (c : Cause) (faddr : DWord) (x : Owed) (race : Option (Acc × Bool)) : Hit :=
  let h := match race with
    | some (e, w) => s.raceHit faddr e w
    | none => s.hit c faddr
  { h with cause := c, defer := true, owed := x, place := x.place c }

/-- What a delivery pays off: the request's cause is no longer owed; a stream whose consumer has gone is freed (R350). -/
def State.payOff (s : State) (k : Nat) (x : Hit) : State :=
  match x.owed, x.cause with
  | .none, _ => s
  | .request id, _ => s.modThr k (fun t => { t with deferred := t.deferred.filter (fun d => d.id != id) })
  | .stream q, .queueFullExit => s.modPair (pairOf k) (fun p => p.setQ q { p.queue q with stream := none })
  | .stream _, _ => s

/-- The members of a group that are active under a guard (R39). -/
def State.activeOf (s : State) (c : Cur) (p : Pfx) : List Nat :=
  (s.grp c.gid).members.filter (fun t => p.holds (s.thr (tkey c.tm c.side t)))

/-- The thread key of a thread of the issuing group. -/
def Cur.key (c : Cur) (t : Nat) : Nat := tkey c.tm c.side t

/-- The core of a team. -/
def State.coreOf (s : State) (tm : Nat) : Nat := (s.team tm).core

/-- The thread that a TCB names: the lowest whose cause is not 0, or else the lowest (R194). -/
def State.culprit (s : State) (tm : Nat) (sd : Side) (ts : List Nat) : Nat :=
  let asc := sortBy (fun a b => decide (a < b)) ts
  (asc.find? (fun t => (s.thr (tkey tm sd t)).h.cause != .none)).getD (asc.headD 0)

/-- Ends a group and with it its task (R194). -/
def State.endGroup (s : State) (tm : Nat) (sd : Side) (ts : List Nat) : State :=
  let t := s.culprit tm sd ts
  let h := (s.thr (tkey tm sd t)).h
  (s.endRecord tm h.cause).endTask (s.team tm).task 5 h.cause sd.num t (some h.fpc) (some h.faddr)

/-- Times a thread has now entered at this address in a row (R193). -/
def entryCount (h : HRegs) (pc : DWord) : Nat := if h.fpc = pc && !h.progressed then h.fcount + 1 else 1

/-- The handler registers of a thread that enters (Table 9-1). -/
def enterRegs (h : HRegs) (pc hdr : DWord) (x : Hit) : HRegs :=
  { cause := x.cause, done := x.done, defer := x.defer, fpc := pc, fhdr := hdr, faddr := x.faddr, fgtc := x.fgtc, other := x.other,
    otask := x.otask, fcount := entryCount h pc, hscr := h.hscr, progressed := false, byMatch := x.byMatch, place := x.place }

/-- The address of the handler table's entry of a side and cause (R189). -/
def State.vectorAt (s : State) (tm : Nat) (sd : Side) (c : Cause) : DWord :=
  (s.part (s.partOf tm)).htab + BitVec.ofNat 64 (8 * (128 * sd.num + c.code))

/-- The handler table's entry of a side and cause (R189), after the merges owed to the read (R126): none where the table cannot be
read, true where it, or the walk to it, meets an uncorrectable error. -/
def State.vector (s : State) (tm : Nat) (sd : Side) (c : Cause) : Option DWord × Bool :=
  let va := s.vectorAt tm sd c
  match s.resolve tm va with
  | none => (none, s.xlateCause (s.partOf tm) va == .integrity)
  | some r => (some (BitVec.ofNat 64 (leNat ((s.mergeLines (r.loc.words 8)).readMs r.loc 8))), s.corrupt (r.loc.words 8))

/-- The telemetry that a fault writes besides: a machine check for an uncorrectable error (R131), a record for an access that
leaves the grant (R307). What a request met wrote its record there. -/
def State.faultRecords (s : State) (k : Nat) (x : Hit) : State :=
  let tm := keyTm k
  let src := s.srcCore (s.coreOf tm)
  match x.owed, x.cause with
  | .request _, _ => s
  | _, .integrity => if x.faddr = 0 then s.consumedReg (s.partOf tm) src k else s.consumed (s.partOf tm) tm src x.faddr
  | _, .xlate => s.noteLeave (s.partOf tm) src x.faddr
  | _, _ => s

/-- Sets the handler registers of the threads of a group that enter. -/
def State.setRegs (s : State) (tm : Nat) (sd : Side) (ts : List Nat) (pc hdr : DWord) (x : Nat → Hit) : State :=
  ts.foldl (fun s t => ((s.modThr (tkey tm sd t) (fun th =>
    { th with h := enterRegs th.h pc hdr (x t), park := .none, since := none })).payOff (tkey tm sd t) (x t)).faultRecords (tkey tm sd t) (x t)) s

/-- The cause whose entry a thread follows: its own, or that of the lowest thread that met one (R189). -/
def entryCause (ts : List Nat) (x : Nat → Hit) (t : Nat) : Cause :=
  if (x t).cause = .none then
    match (sortBy (fun a b => decide (a < b)) ts).find? (fun u => (x u).cause != .none) with
    | some u => (x u).cause
    | none => .none
  else (x t).cause

/-- What reading the handler table for some causes leaves: the record of an entry outside the grant (R307), and that of an
uncorrectable error in one (R131). -/
def State.vectorRecords (s : State) (tm : Nat) (sd : Side) (cs : List Cause) : State :=
  let src := s.srcCore (s.coreOf tm)
  cs.foldl (fun s c =>
    let va := s.vectorAt tm sd c
    if (s.vector tm sd c).2 then s.consumed (s.partOf tm) tm src va else s.noteLeave (s.partOf tm) src va) s

/-- Whether an entry cannot be taken (R189): it is 0, or fails R21 or R26; with the cause of the record it then writes. -/
def State.badEntry (s : State) (tm : Nat) (e : Option DWord) : Option (Option Cause) :=
  match e with
  | none => some none
  | some a => if a = 0 then some none else (s.entryFault tm a).map some

/-- A group takes an exception at an instruction: its active threads `ts` enter the handler, each with what it met, and the
others stay at the instruction (R188, R189). A fault in handler code, an entry that cannot be taken, and the 64th entry in a
row end the group (R190, R193); every entry that fails R21 or R26 writes its record. -/
def State.raise (s : State) (gid : Nat) (pc hdr : DWord) (ts : List Nat) (x : Nat → Hit) : State :=
  let g := s.grp gid
  let s1 := s.setRegs g.tm g.side ts pc hdr x
  let causes := distinct (ts.map (entryCause ts x))
  let bad := causes.filterMap (fun c => s1.badEntry g.tm (s1.vector g.tm g.side c).1)
  let ecc := causes.any (fun c => (s1.vector g.tm g.side c).2)
  if g.priv then s1.endGroup g.tm g.side ts
  else if ts.any (fun t => decide (63 < (s1.thr (tkey g.tm g.side t)).h.fcount)) then s1.endGroup g.tm g.side ts
  else
    let s2 := s1.vectorRecords g.tm g.side causes
    if ecc then
      (ts.foldl (fun s t => s.modThr (tkey g.tm g.side t) (fun th => { th with h := { th.h with cause := .machineCheck } })) s2).endGroup
        g.tm g.side ts
    else match bad with
      | [] =>
        let goes := fun t => ((s1.vector g.tm g.side (entryCause ts x t)).1).getD 0
        let dest := fun t => if ts.contains t then toHeader (goes t) true else { g.dest with pc := pc, hdr := hdr }
        s2.splitTo gid dest (s2.rcvOf g.tm hdr)
      | _ =>
        ((bad.filterMap id).foldl (fun s c => s.telemetry (s.partOf g.tm) (s.causeRec (s.srcCore (s.coreOf g.tm)) c.code pc 0)) s2).endGroup
          g.tm g.side ts

/-- Raises one cause to all active threads at the issuing instruction. -/
def State.raiseAll (s : State) (c : Cur) (ts : List Nat) (cause : Cause) (faddr : DWord) : Out :=
  .next (s.raise c.gid c.pc c.hdr ts (fun _ => s.hit cause faddr))

/-- A wait that stops being counted. -/
def Timer.pause (now : DWord) (t : Timer) : Timer := match t with | .runs x => .held (now - x) | .held w => .held w
/-- A wait that is counted on. -/
def Timer.resume (now : DWord) (t : Timer) : Timer := match t with | .runs x => .runs x | .held w => .runs (now - w)

/-- Changes the waits of some threads of a team. -/
def State.modSince (s : State) (tm : Nat) (p : Nat → Bool) (f : Timer → Timer) : State :=
  { s with threads := s.threads.map (fun e =>
      if keyTm e.1 = tm && p (keyIx e.1) then (e.1, { e.2 with since := e.2.since.map f }) else e) }

/-- A team stops on both sides (R204); threads `ts` of the group report the cause. -/
def State.allStop (s : State) (c : Cur) (ts : List Nat) (x : Hit) : State :=
  let s := s.modSince c.tm (fun _ => true) (Timer.pause s.gtc)
  let s1 := ts.foldl (fun s t => s.modThr (c.key t) (fun th => { th with park := .stopped x.cause x.byMatch })) s
  (s1.modGrp c.gid (fun g => { g with pc := c.pc, hdr := c.hdr, entering := false })).modTeam c.tm (fun t => { t with mode := .stopped })

/-- BREAK goes to the debugger where one holds the partition, to the handler otherwise (R204). -/
def State.breakTo (s : State) (c : Cur) (ts : List Nat) (x : Hit) : State :=
  if (s.part (s.partOf c.tm)).debug then s.allStop c ts x else s.raise c.gid c.pc c.hdr ts (fun _ => x)

/-- Where a thread stands after the issuing instruction (R20). -/
def Cur.after (c : Cur) (priv : Bool) : Dest :=
  if c.last then toHeader c.next priv else { pc := c.next, hdr := c.hdr, len := c.len, entering := false, priv := priv }

/-- What a completed instruction leaves of a thread's park: a wait for a barrier's phase or for a translation goes on. -/
def Park.kept (p : Park) : Park :=
  match p with
  | .phase nb n => .phase nb n
  | .translating f => .translating f
  | _ => .none

/-- The threads of a group have completed the instruction outside or inside handler code (R193, R203). -/
def State.completed (s : State) (tm : Nat) (sd : Side) (ts : List Nat) (priv : Bool) : State :=
  ts.foldl (fun s t => s.modThr (tkey tm sd t) (fun th =>
    { th with park := th.park.kept, passOnce := none, since := none, h := { th.h with progressed := th.h.progressed || !priv } })) s

/-- The group goes on to the next instruction, or arrives before the next header (R20, R39, R73). -/
def State.retire (s : State) (c : Cur) : State :=
  let g := s.grp c.gid
  let s1 := s.completed c.tm c.side g.members g.priv
  (s1.modGrp c.gid (fun g => g.goto (c.after g.priv))).arriveHdr c.gid (Config.splitDepth + 1)

/-- The transfer of a group into the header that follows its block is refused there, where KIND is 1 or 3 (R25). -/
def State.fallOr (s : State) (c : Cur) (o : Out) : Out :=
  if c.last && s.fallFault c.tm c.next then s.raiseAll c (s.grp c.gid).members .badTarget 0 else o

/-- Threads of the issuing group that are not active. -/
def State.inactive (s : State) (c : Cur) (act : List Nat) : List Nat :=
  (s.grp c.gid).members.filter (fun t => !act.contains t)

/-- Writes 0 to inactive threads' destinations where the prefix says so (R39). -/
def State.zeroDst (s : State) (c : Cur) (act : List Nat) (p : Pfx) (z : Thread → Thread) : State :=
  if p.zeroes then (s.inactive c act).foldl (fun s t => s.modThr (c.key t) z) s else s

/-- The checks before an instruction acts: a group issues, the side, the privilege and the operands are right (R51 to R53).
Faults are raised to the active threads; an instruction with none raises nothing, does what `idle` says to its destinations where its
operands are right, and goes on (R39). -/
def checked (need : SideReq) (priv : Bool) (p : Pfx) (ok : State → Cur → Bool) (idle : State → Cur → State) (s : State)
    (body : Cur → List Nat → Out) : Out :=
  if !s.power then .fault .poweredOff
  else match s.cur with
  | none => .refused .noIssuer
  | some c =>
    let act := s.activeOf c p
    let wrongSide := (need = .eOnly && c.side = .a) || (need = .aOnly && c.side = .e)
    let wrongMode := priv && !(s.grp c.gid).priv
    if act.isEmpty then s.fallOr c (.next ((if wrongSide || wrongMode || !ok s c then s else idle s c).retire c))
    else if wrongSide then s.raiseAll c act .sideMismatch 0
    else if wrongMode then s.raiseAll c act .priv 0
    else if !ok s c then s.raiseAll c act .badOperand 0
    else body c act

/-- An instruction that writes no register of a thread. -/
def withCur (need : SideReq) (priv : Bool) (p : Pfx) (ok : State → Cur → Bool) (s : State)
    (body : Cur → List Nat → Out) : Out :=
  checked need priv p ok (fun s _ => s) s body

/-- The same for an instruction that goes on to the next one: the header that it would fall into may be entered (R25). -/
def withIssue (need : SideReq) (priv : Bool) (p : Pfx) (ok : State → Cur → Bool) (s : State)
    (body : Cur → List Nat → Out) : Out :=
  withCur need priv p ok s (fun c act => s.fallOr c (body c act))

/-- The same for an instruction that writes registers or predicates of its threads: `z` clears them (R39). -/
def withDst (need : SideReq) (priv : Bool) (p : Pfx) (ok : State → Cur → Bool) (z : Side → Thread → Thread) (s : State)
    (body : Cur → List Nat → Out) : Out :=
  checked need priv p ok (fun s c => s.zeroDst c [] p (z c.side)) s (fun c act => s.fallOr c (body c act))

/-- A thread with the pair it shares. -/
structure Lane where
  th : Thread
  p : Pair
deriving DecidableEq, Repr

/-- A lane of the state. -/
def State.lane (s : State) (k : Nat) : Lane := { th := s.thr k, p := s.pair (pairOf k) }

/-- A lane after reading operands. -/
def Lane.afterRd (l : Lane) (rd : Rd) : Lane := { th := { l.th with clk := rd.clk }, p := rd.p }

/-- Puts a lane back. -/
def State.putLane (s : State) (k : Nat) (l : Lane) : State :=
  (s.modThr k (fun _ => l.th)).modPair (pairOf k) (fun _ => l.p)

/-- What an attempt met, if it met a cause. -/
def State.hitOf {α : Type} (s : State) (r : Try α) : Option Hit :=
  match r with
  | .trap c a => some (s.hit c a)
  | .raced a e w => some (s.raceHit a e w)
  | .late c a x e => some (s.lateHit c a x e)
  | _ => none

/-- The condition an attempt waits for, if it waits. -/
def parkOf {α : Type} (r : Try α) : Option Cond :=
  match r with
  | .park c => some c
  | _ => none

/-- The causes that a partner's exit raises at once, before the group waits for other threads' operands (R104). -/
def Cause.early : Cause → Bool
  | .queueUnderflow => true
  | .queueFullExit => true
  | _ => false

/-- Whether a condition is one of the instruction's operands or queue places (R90, R99, R100). -/
def Cond.early : Cond → Bool
  | .popQ _ _ => true
  | .popRq _ => true
  | .pushQ _ _ => true
  | .pushRq _ => true
  | .pushSq _ => true
  | .fewSq _ _ => true
  | _ => false

/-- The stamp from which a parked thread counts its wait (R306). -/
def Cond.sinceAt (w : Cond) (t : Thread) (now : DWord) : Option Timer :=
  match w with
  | .ringEmpty _ => some (t.since.getD (.runs now))
  | _ => none

/-- A wait for an element of a data queue names the place that the thread's pops have found shut. -/
def State.placed (s : State) (k : Nat) (w : Cond) : Cond :=
  match w with
  | .popQ q _ => .popQ q ((s.pair (pairOf k)).queue q).firstShut
  | w => w

/-- Parks the threads of a group that wait; the group stays at its instruction, and its other active threads do not wait. -/
def State.parkAll (s : State) (c : Cur) (act : List Nat) (w : List (Nat × Cond)) : State :=
  w.foldl (fun s e => s.modThr (c.key e.1) (fun th => { th with park := .retry (s.placed (c.key e.1) e.2), since := e.2.sinceAt th s.gtc }))
    (act.foldl (fun s t => s.modThr (c.key t) (fun th => { th with park := .none })) s)

/-- How the attempts of a group settle (log 5): faults of a partner's exit first, then waits for operands, then other faults,
then other waits; where no thread meets any of these, all have performed the instruction. No thread performs it otherwise
(R188). -/
def State.settle {α : Type} (s : State) (c : Cur) (act : List Nat) (rs : List (Nat × Try α)) (commit : Out) : Out :=
  let hits := rs.filterMap (fun e => (s.hitOf e.2).map (fun h => (e.1, h)))
  let waits := rs.filterMap (fun e => (parkOf e.2).map (fun w => (e.1, w)))
  let early := hits.filter (fun e => e.2.cause.early)
  let earlyW := waits.filter (fun e => e.2.early)
  let at_ := fun (l : List (Nat × Hit)) (t : Nat) => ((l.find? (fun e => e.1 == t)).map (·.2)).getD s.noHit
  if !early.isEmpty then .next (s.raise c.gid c.pc c.hdr act (at_ hits))
  else if !earlyW.isEmpty then .next (s.parkAll c act earlyW)
  else if !hits.isEmpty then .next (s.raise c.gid c.pc c.hdr act (at_ hits))
  else if !waits.isEmpty then .next (s.parkAll c act waits)
  else commit

/-- An instruction that each active thread performs on its own registers and queues: attempts from the same state, all or
none (R188), then the inactive destinations, then the next instruction. -/
def State.runLanes (s : State) (c : Cur) (act : List Nat) (p : Pfx) (z : Thread → Thread) (f : Nat → Try Lane) : Out :=
  let rs := act.map (fun t => (t, f (c.key t)))
  let done := rs.foldl (fun s e => match e.2 with | .ok l => s.putLane (c.key e.1) l | _ => s) s
  s.settle c act rs (.next ((done.zeroDst c act p z).retire c))

/-- An instruction whose threads act on the shared state in ascending lane, all or none: each attempt sees the effects of the
earlier ones, and none stands unless all succeed (R188). -/
def State.seqTry (s : State) (c : Cur) (ts : List Nat) (f : State → Nat → Try State) : List (Nat × Try State) × State :=
  match ts with
  | [] => ([], s)
  | t :: rest =>
    let r := f s (c.key t)
    let s1 := match r with | .ok s' => s' | _ => s
    let (rs, s2) := s1.seqTry c rest f
    ((t, r) :: rs, s2)

/-- The same as an outcome. -/
def State.runSeq (s : State) (c : Cur) (act : List Nat) (p : Pfx) (z : Thread → Thread) (f : State → Nat → Try State) : Out :=
  let (rs, done) := s.seqTry c act f
  s.settle c act rs (.next ((done.zeroDst c act p z).retire c))

/-- The steps of R405, thread by thread: those performed, and the state after them, up to the first that meets a cause or
waits. -/
def State.seqSteps (s : State) (c : Cur) (ts : List Nat) (f : State → Nat → Try State) : List Nat × Option (Nat × Try State) × State :=
  match ts with
  | [] => ([], none, s)
  | t :: rest =>
    match f s (c.key t) with
    | .ok s' => let (d, x, s2) := s'.seqSteps c rest f; (t :: d, x, s2)
    | r => ([], some (t, r), s)

/-- An instruction of R405: `check` makes every thread's checks before any step; then each thread's step in turn. A step
that meets a cause stops the instruction there: the threads before it have performed it and hold DONE, those after it have not
(R405). A step that must wait parks its thread; the threads before it go on without it (log 26). -/
def State.runSteps (s : State) (c : Cur) (act : List Nat) (p : Pfx) (z : Thread → Thread) (check : Nat → Try Unit)
    (f : State → Nat → Try State) : Out :=
  let rs := act.map (fun t => (t, check (c.key t)))
  let (d, x, s1) := s.seqSteps c act f
  s.settle c act rs (match x with
    | none => .next ((s1.zeroDst c act p z).retire c)
    | some (t, r) =>
      match s1.hitOf r with
      | some h =>
        .next (s1.raise c.gid c.pc c.hdr act (fun u =>
          if u = t then h else if d.contains u then { s1.noHit with done := true } else s1.noHit))
      | none => match parkOf r with
        | some w =>
          let stay := act.filter (fun u => !d.contains u)
          let s2 := (s1.zeroDst c act p z).completed c.tm c.side (d ++ s.inactive c act) (s.grp c.gid).priv
          let s3 := s2.parkAll c stay [(t, w)]
          let here : Dest := { (s.grp c.gid).dest with pc := c.pc, hdr := c.hdr, entering := false }
          .next ((s3.splitTo c.gid (fun u => if stay.contains u then here else c.after (s.grp c.gid).priv)
            (s3.rcvOf c.tm c.hdr)).arriveAll c.tm c.side)
        | none => .next s1)

/-- Where a thread continues after the instruction sequence at an address of a block (R38, R193). -/
def State.afterSeq (s : State) (tm : Nat) (pc hdr : DWord) (priv : Bool) : Dest :=
  let len := match s.header tm hdr with | .ok h => h.len | .error _ => 0
  let words := len - ((pc - hdr).toNat - 8) / 4
  let n := match s.fetchSeq tm pc words with | .ok ws => ws.length | .error _ => 1
  if words ≤ n then toHeader (blockEnd hdr len) priv
  else { pc := pc + BitVec.ofNat 64 (4 * n), hdr := hdr, len := len, entering := false, priv := priv }

/-- The words of the instruction that a group stands at. -/
def State.seqAt (s : State) (gid : Nat) : Option (List Word) :=
  let g := s.grp gid
  match s.fetchSeq g.tm g.pc (g.len - ((g.pc - g.hdr).toNat - 8) / 4) with
  | .ok ws => some ws
  | .error _ => none

/-- The guard of the instruction that a group stands at. -/
def State.guardAt (s : State) (gid : Nat) : Pfx :=
  match s.seqAt gid with
  | some ws => match prefixesOf ws.dropLast 0 with
    | some (vx, _, mxa) => { vx := vx, mxa := mxa }
    | none => { vx := none, mxa := none }
  | none => { vx := none, mxa := none }

/-- The threads of a group that are active at the instruction it stands at. -/
def State.activeAt (s : State) (gid : Nat) : List Nat :=
  let g := s.grp gid
  let p := s.guardAt gid
  g.members.filter (fun t => p.holds (s.thr (g.key t)))

/-- Whether an instruction address lies in its block (R193). -/
def State.inBlock (s : State) (tm : Nat) (pc hdr : DWord) : Bool :=
  match s.header tm hdr with
  | .ok h => pc.toNat % 4 == 0 && decide (8 ≤ (pc - hdr).toNat) && decide ((pc - hdr).toNat < 8 + 4 * h.len)
  | .error _ => false

/-- What a return to the block at `sr.fhdr` meets (R193): none where it may be made. -/
def State.returnFault (s : State) (tm : Nat) (h : HRegs) : Option Cause :=
  match s.entryFault tm h.fhdr with
  | some c => some c
  | none => if s.inBlock tm h.fpc h.fhdr then none else some .badTarget

end Sys2Proof.Machine
end

