-- ==== Sys2Proof/Machine/Issue.lean ====
section
/-! DEFINITION. Issuing a group: entering a block, fetching and decoding its next instruction, and breakpoint matches. -/

namespace Sys2Proof.Machine

/-- What issuing a group comes to: an instruction to execute at a state, or a state reached without one. -/
inductive Issued where
  | exec (i : Instr) (s : State)
  | done (s : State)

/-- Whether an enabled breakpoint register names an instruction of a side (R203, Table 9-7). -/
def bpMatches (b : DWord) (sd : Side) (pc : DWord) : Bool :=
  b.getLsbD 63 && b.getLsbD (match sd with | .e => 61 | .a => 62) && b.extractLsb' 2 54 == pc.extractLsb' 2 54

/-- Whether the next issue of a group matches a breakpoint register (R193, R203). -/
def State.matches (s : State) (gid : Nat) : Bool :=
  let g := s.grp gid
  !g.entering && (s.part (s.partOf g.tm)).bp.any (fun e => bpMatches e.2 g.side g.pc) &&
    g.members.any (fun t => (s.thr (g.key t)).passOnce != some g.pc)

/-- Entry into the block whose header a group stands before (R21, R22): the header is checked, and outside handler code the
registers above LIVE and PLIVE read as they did or as zero. -/
def State.enter (s : State) (gid : Nat) : Except State State :=
  let g := s.grp gid
  match s.header g.tm g.hdr with
  | .error c => .error (s.raise gid g.hdr g.hdr g.members (fun _ => s.hit c (if c = .badHeader then 0 else g.hdr)))
  | .ok h =>
    let s1 := s.modGrp gid (fun g => { g with pc := g.hdr + 8, len := h.len, entering := false })
    .ok (if g.priv then s1
      else g.members.foldl (fun s t => s.modThr (g.key t) (fun th => s1.dropDead (g.key t) g.side h.live h.plive th)) s1)

/-- The issue in progress for an instruction of n words at a group's place (R20, R38). -/
def Group.cur (g : Group) (gid n : Nat) : Cur :=
  let left := g.len - ((g.pc - g.hdr).toNat - 8) / 4
  { tm := g.tm, side := g.side, gid := gid, pc := g.pc, hdr := g.hdr, len := g.len,
    next := if left ≤ n then blockEnd g.hdr g.len else g.pc + BitVec.ofNat 64 (4 * n), last := decide (left ≤ n) }

/-- Words of a group's block from its next instruction on. -/
def Group.left (g : Group) : Nat := g.len - ((g.pc - g.hdr).toNat - 8) / 4

/-- The group's issue is noted for the choice of the next (R91) and for `yield` (R404). -/
def State.noteIssue (s : State) (gid : Nat) : State :=
  let g := s.grp gid
  (s.modGrp gid (fun g => { g with lastIssue := s.cycle, yielded := none })).modCore (s.coreOf g.tm)
    (fun c => match g.side with | .e => { c with lastE := s.cycle } | .a => { c with lastA := s.cycle })

/-- Fetches and decodes the next instruction of a group that stands in a block; a fetch fault is raised there, a decode fault
and a breakpoint match are steps of their own kind. -/
noncomputable def State.fetchExec (s : State) (gid : Nat) : Issued :=
  let g := s.grp gid
  if s.matches gid then .exec (.breakpointMatch g.tm gid) { s with cur := some (g.cur gid 1) }
  else match s.fetchSeq g.tm g.pc g.left with
    | .error (c, va) => .done (s.raise gid g.pc g.hdr g.members (fun _ => s.hit c va))
    | .ok ws =>
      let s1 := { s with cur := some (g.cur gid ws.length) }
      match decodeSeq ws with
      | .error e => .exec (.decodeFault e) s1
      | .ok i => .exec i s1

/-- Issues a group (R69). -/
noncomputable def State.issue (s : State) (gid : Nat) : Issued :=
  match kget s.groups gid with
  | none => .done s
  | some g =>
    let s0 := s.noteIssue gid
    if g.entering then
      match s0.enter gid with
      | .error s1 => .done s1
      | .ok s1 => s1.fetchExec gid
    else s0.fetchExec gid

end Sys2Proof.Machine
end

