-- ==== Sys2Proof/Machine/Value.lean ====
section
/-! DEFINITION. The shape of every instruction that reads source operands and writes registers of its own thread: the checks of
its operands, the reads in order, the write, the zeroing of inactive destinations (R39 to R45, R322). -/

namespace Sys2Proof.Machine

/-- Declared data queues of a team. -/
def State.nq (s : State) (tm : Nat) : Nat := (s.team tm).lim.nq

/-- The sources of an instruction are allowed on the side (R40, R43, R45, R96). -/
def srcsOk (s : State) (c : Cur) (l : List (OTy × Src)) : Bool :=
  l.all (fun e => e.2.okOn c.side (s.nq c.tm) e.1.wide) && oneS (l.map (·.2))

/-- The fourth source as a list, with its type. -/
def cList (p : Pfx) (ty : OTy) : List (OTy × Src) :=
  match p.cSrc with
  | some x => [(ty, x)]
  | none => []

/-- Writes a value destination of a side: 32 or 64 bits on the execute side (R44, R45). -/
def setD (sd : Side) (wide : Bool) (d : BitVec 7) (v : DWord) (t : Thread) : Thread :=
  match sd with
  | .e => if wide then t.setVV d.toNat v else t.setV d.toNat (v.setWidth 32)
  | .a => t.setX d.toNat v

/-- Reads a value destination of a side as a source. -/
def getD (sd : Side) (wide : Bool) (d : BitVec 7) (t : Thread) : DWord :=
  match sd with
  | .e => if wide then t.getVV d.toNat else ofWord (t.getV d.toNat)
  | .a => t.getX d.toNat

/-- The attempt of one thread: its sources are read in order, then `f` is applied to the thread. -/
def State.valueTry (s : State) (srcs : List (OTy × Src)) (f : State → Nat → List DWord → Thread → Try Thread) (k : Nat) :
    Try Lane :=
  tryThen (s.readSrcs k srcs (s.rd k)) fun (vs, rd) =>
  tryThen (f s k vs { s.thr k with clk := rd.clk }) fun th => .ok { th := th, p := rd.p }

/-- An instruction that reads sources and changes its thread: `z` clears its destinations for inactive threads, `f` is its
effect on a thread, given the values read. -/
def valueOp (need : SideReq) (p : Pfx) (srcs : Side → List (OTy × Src)) (ok : State → Cur → Bool) (z : Side → Thread → Thread)
    (f : State → Nat → List DWord → Thread → Try Thread) (s : State) : Out :=
  withDst need false p (fun s c => srcsOk s c (srcs c.side) && ok s c) z s fun c act =>
    s.runLanes c act p (z c.side) (s.valueTry (srcs c.side) f)

/-- The i-th value read. -/
def arg (vs : List DWord) (i : Nat) : DWord := vs.getD i 0

/-- A value operation on one width. -/
abbrev BinOp := (w : Nat) → BitVec w → BitVec w → BitVec w

/-- The same operation at the width of a side, 32 or 64 bits (R322). -/
def atSide (sd : Side) (f : BinOp) (a b : DWord) : DWord :=
  match sd with
  | .e => (f 32 (a.setWidth 32) (b.setWidth 32)).setWidth 64
  | .a => f 64 a b

/-- An integer instruction of two sources at the width of its side, which raises nothing. -/
def intOp (p : Pfx) (d : BitVec 7) (a b : Src) (f : BinOp) (s : State) : Out :=
  valueOp .both p (fun sd => [(intOf sd, a), (intOf sd, b)]) (fun _ c => dstOk c.side false d) (fun sd => setD sd false d 0)
    (fun _ k vs t => .ok (setD (keySide k) false d (atSide (keySide k) f (arg vs 0) (arg vs 1)) t)) s

/-- An integer instruction of one source. -/
def intOp1 (p : Pfx) (d : BitVec 7) (a : Src) (f : (w : Nat) → BitVec w → BitVec w) (s : State) : Out :=
  valueOp .both p (fun sd => [(intOf sd, a)]) (fun _ c => dstOk c.side false d) (fun sd => setD sd false d 0)
    (fun _ k vs t => .ok (setD (keySide k) false d (atSide (keySide k) (fun w x _ => f w x) (arg vs 0) 0) t)) s

/-- An integer instruction with a fourth source, 0 without a VX prefix. -/
def intOpC (p : Pfx) (d : BitVec 7) (a b : Src) (f : (w : Nat) → BitVec w → BitVec w → BitVec w → BitVec w) (s : State) : Out :=
  valueOp .both p (fun sd => [(intOf sd, a), (intOf sd, b)] ++ cList p (intOf sd)) (fun _ c => dstOk c.side false d && p.cOk)
    (fun sd => setD sd false d 0)
    (fun _ k vs t => .ok (setD (keySide k) false d
      (match keySide k with
        | .e => (f 32 ((arg vs 0).setWidth 32) ((arg vs 1).setWidth 32) ((arg vs 2).setWidth 32)).setWidth 64
        | .a => f 64 (arg vs 0) (arg vs 1) (arg vs 2)) t)) s

/-- A division: DIV_ZERO where the divisor is 0 (R324). -/
def divOp (p : Pfx) (d : BitVec 7) (a b : Src) (f : BinOp) (s : State) : Out :=
  valueOp .both p (fun sd => [(intOf sd, a), (intOf sd, b)]) (fun _ c => dstOk c.side false d) (fun sd => setD sd false d 0)
    (fun _ k vs t =>
      if atSide (keySide k) (fun _ _ y => y) 0 (arg vs 1) = 0 then .trap .divZero 0
      else .ok (setD (keySide k) false d (atSide (keySide k) f (arg vs 0) (arg vs 1)) t)) s

/-- A comparison of two integers that writes a predicate (R336). -/
def cmpOp (p : Pfx) (d : BitVec 7) (a b : Src) (f : (w : Nat) → BitVec w → BitVec w → Bool) (s : State) : Out :=
  valueOp .both p (fun sd => [(intOf sd, a), (intOf sd, b)]) (fun _ _ => true) (fun _ t => t.setPred d.toNat false)
    (fun _ k vs t => .ok (t.setPred d.toNat (match keySide k with
      | .e => f 32 ((arg vs 0).setWidth 32) ((arg vs 1).setWidth 32)
      | .a => f 64 (arg vs 0) (arg vs 1)))) s

end Sys2Proof.Machine
end

