-- ==== Sys2Proof/Machine/Flags.lean ====
section
/-! DEFINITION. Floating-point operations on elements with their rounding, flags, flushes and draws (R157 to R163), and the
shape of the execute-side instructions that use them. -/

namespace Sys2Proof.Machine

/-- What an element operation starts from: the thread's mode sample, the rounding code in effect, its generator (R158, R160). -/
structure Env where
  mode : DWord
  rc : Nat
  g : DWord
  flags : BitVec 5
deriving DecidableEq, Repr

/-- The environment of a thread for an instruction with a rounding code. -/
def Thread.env (t : Thread) (rc : Nat) : Env := { mode := t.mode, rc := rcOf rc t.mode, g := t.gen, flags := 0 }

/-- Puts the generator and the flags an instruction raised back (R158, R162). -/
def Thread.putEnv (t : Thread) (e : Env) : Thread := { t with gen := e.g, flags := t.flags ||| e.flags }

/-- Delivers an exact value in a format, with one draw under rsr (R158, R345). -/
def Env.deliver (e : Env) (f : Fm) (v : FVal) (nv : Bool) : Nat × Env :=
  let (g, r) := drawIf e.rc e.g
  let (c, fl) := f.deliverV e.mode e.rc v nv r
  (c, { e with g := g, flags := e.flags ||| fl })

/-- An operation on the codes of one format, element by element: the new code and the environment after it. -/
abbrev FOp := Fm → Env → Nat → Nat → Nat → Nat × Env

/-- Invalid because an operand signals. -/
def sigIn (l : List FVal) : Bool := l.any FVal.isSig

/-- round(a + b). -/
def opAdd : FOp := fun f e a b _ =>
  let x := f.input e.mode a
  let y := f.input e.mode b
  let (v, nv) := vAdd e.rc x y
  e.deliver f v (nv || sigIn [x, y])

/-- round(a − b). -/
def opSub : FOp := fun f e a b _ =>
  let x := f.input e.mode a
  let y := f.input e.mode b
  let (v, nv) := vAdd e.rc x (vNeg y)
  e.deliver f v (nv || sigIn [x, y])

/-- round(a × b). -/
def opMul : FOp := fun f e a b _ =>
  let x := f.input e.mode a
  let y := f.input e.mode b
  let (v, nv) := vMul x y
  e.deliver f v (nv || sigIn [x, y])

/-- round(a × b + c), one rounding; 0 × ∞ is invalid even with a quiet NaN in c (R345). -/
def opFma : FOp := fun f e a b c =>
  let x := f.input e.mode a
  let y := f.input e.mode b
  let z := f.input e.mode c
  let (m, nv1) := vMul x y
  let (v, nv2) := vAdd e.rc m z
  e.deliver f v (nv1 || nv2 || sigIn [x, y, z])

/-- A result that is one of the operands, with FRZ (R161). -/
def Env.exact (e : Env) (f : Fm) (c : Nat) (nv : Bool) : Nat × Env :=
  let r := f.flushOut e.mode { code := c, flags := 0, overflowed := false, underflowed := false }
  (r.code, { e with flags := e.flags ||| r.flags ||| (if nv then flNV else 0) })

/-- A code after FIZ. -/
def Fm.flushIn (f : Fm) (mode : DWord) (c : Nat) : Nat :=
  match f.decode c with
  | .fin neg m x => if fiz mode f.cls && f.subnormal m x then f.sign neg 0 else c
  | _ => c

/-- minimumNumber or maximumNumber (Table 20-14): exact, no draw. -/
def opMinMax (mx : Bool) : FOp := fun f e a b _ =>
  let a' := f.flushIn e.mode a
  let b' := f.flushIn e.mode b
  let x := f.decode a'
  let y := f.decode b'
  e.exact f (f.minMax mx a' b' x y) (sigIn [x, y])

/-- A code with its sign 0, or inverted; a NaN gives the canonical NaN; no flag, no flush (R345). -/
def opSign (abs : Bool) : FOp := fun f e a _ _ =>
  let top := 2 ^ (f.width - 1)
  match f.decode a with
  | .nan _ => (f.nan, e)
  | _ => (if abs then a % top else (if a < top then a + top else a - top), e)

/-- Applies an element operation to an operand: once, or to both halves of a packed pair, element 0 first (R344). -/
def applyF (pk : Bool) (f : Fm) (op : FOp) (e : Env) (a b c : Nat) : Nat × Env :=
  if pk then
    let (lo, e1) := op f e (a % 65536) (b % 65536) (c % 65536)
    let (hi, e2) := op f e1 (a / 65536 % 65536) (b / 65536 % 65536) (c / 65536 % 65536)
    (lo + hi * 65536, e2)
  else op f e a b c

/-- The operand type of a floating instruction. -/
def floatTy (pk : Bool) (f : Fm) : OTy := if pk then .pair f else .flt f

/-- A floating instruction of the family of R344: sources A and B, and C with −0 where there is none. -/
def floatOp (pk : Bool) (f : Fm) (p : Pfx) (d : BitVec 7) (l : List Src) (useC : Bool) (op : FOp) (s : State) : Out :=
  let ty := floatTy pk f
  let negZero := 2 ^ (f.width - 1) * (if pk then 65537 else 1)
  let srcs := l.map (fun x => (ty, x)) ++ (if useC then cList p ty else [])
  valueOp .eOnly p (fun _ => srcs) (fun _ c => dstOk c.side ty.wide d && (!useC || p.cOk)) (fun sd => setD sd ty.wide d 0)
    (fun _ _ vs t =>
      let c := if useC && p.cSrc.isSome then (arg vs 2).toNat else negZero
      let (r, e) := applyF pk f op (t.env p.rc) (arg vs 0).toNat (arg vs 1).toNat c
      .ok (setD .e ty.wide d (BitVec.ofNat 64 r) (t.putEnv e))) s

/-- A comparison of two floats that writes a predicate (R352): `quietBad` says that any NaN sets NV. -/
def fcmpOp (f : Fm) (quietBad : Bool) (p : Pfx) (d : BitVec 7) (a b : Src) (rel : FVal → FVal → Bool) (s : State) : Out :=
  valueOp .eOnly p (fun _ => [(.flt f, a), (.flt f, b)]) (fun _ _ => true) (fun _ t => t.setPred d.toNat false)
    (fun _ _ vs t =>
      let x := f.input t.mode (arg vs 0).toNat
      let y := f.input t.mode (arg vs 1).toNat
      let nv := sigIn [x, y] || (quietBad && (x.isNan || y.isNan))
      .ok ((t.orFlags (if nv then flNV else 0)).setPred d.toNat (rel x y))) s

/-- Neither is a NaN. -/
def ordered (x y : FVal) : Bool := !x.isNan && !y.isNan
/-- a = b; −0 equals +0. -/
def fEq (x y : FVal) : Bool := ordered x y && !vLt false x y && !vLt false y x

end Sys2Proof.Machine
end

