-- ==== Sys2Proof/Machine/Special.lean ====
section
/-! DEFINITION. The f32 functions of M 17 and M 18: quotient and root correctly rounded (R354), the four functions delivered to
the nearest value (R355) from exact enclosures, rounding to integers, scaling, classes and dot products. -/

namespace Sys2Proof.Machine

/-- Integer square root, rounded down, by the digits of the result from bit n − 1 down. -/
def isqrtFrom (n x r : Nat) : Nat :=
  match n with
  | 0 => r
  | n + 1 =>
    let c := r + 2 ^ n
    isqrtFrom n x (if c * c ≤ x then c else r)

/-- Integer square root, rounded down. -/
def isqrt (x : Nat) : Nat := isqrtFrom (Nat.log2 x / 2 + 1) x 0

/-- An enclosure: the exact value lies between m × 2^e and (m + k) × 2^e. -/
structure Encl where
  m : Nat
  e : Int
  k : Nat
deriving DecidableEq, Repr

/-- The f32 magnitude nearest an exact value that is not representable, with the exponent unbounded below; within 0.002 ulp of
a midpoint the free choice of function `fn` at this operand (R355, log 12). -/
def nearest (fn : Nat) (x : Word) (v : Encl) : Nat × Int :=
  let sh := Nat.log2 v.m - 23
  let lo := v.m / 2 ^ sh
  let rem := v.m % 2 ^ sh
  let half := 2 ^ sh / 2
  let tol := 2 ^ sh / 500 + v.k + 1
  let up := if rem ≤ half + tol && half ≤ rem + tol then Config.midpointUp fn x else decide (half < rem)
  (if up then lo + 1 else lo, v.e + sh)

/-- Delivers an inexact result of R355: subnormalised, with NX always, UF where tiny, OF where too large, then FRZS. -/
def Env.nearby (e : Env) (neg : Bool) (v : Nat × Int) : Nat × Env :=
  let r := Fm.f32.round 0 neg v.1 v.2 0
  let tiny := magLt v.1 v.2 1 (-126)
  let r1 := { r with flags := (if r.overflowed then flOF ||| flNX else flNX) ||| (if tiny then flUF else 0) }
  let r2 := Fm.f32.flushOut e.mode r1
  (r2.code, { e with flags := e.flags ||| r2.flags })

/-- Delivers a value exactly representable with the exponent unbounded, without a draw (R355). -/
def Env.just (e : Env) (v : FVal) (fl : BitVec 5) : Nat × Env :=
  let (c, f1) := Fm.f32.deliverV e.mode 0 v false 0
  (c, { e with flags := e.flags ||| f1 ||| fl })

/-- A NaN result, invalid or not. -/
def Env.nan (e : Env) (nv : Bool) : Nat × Env := (Fm.f32.nan, { e with flags := e.flags ||| (if nv then flNV else 0) })

/-- Whether a number is a power of two. -/
def isPow2 (m : Nat) : Bool := m != 0 && m == 2 ^ Nat.log2 m

/-- 1 ÷ a (Table 7-11, R355). -/
def frcpF (e : Env) (a : Nat) : Nat × Env :=
  match Fm.f32.input e.mode a with
  | .nan sig => e.nan sig
  | .inf n => e.just (.fin n 0 0) 0
  | .fin n m x =>
    if m = 0 then e.just (.inf n) flDZ
    else if isPow2 m then e.just (.fin n 1 (-(x + Nat.log2 m))) 0
    else e.nearby n (nearest 0 (BitVec.ofNat 32 a) ⟨2 ^ 160 / m, -x - 160, 1⟩)

/-- 1 ÷ √a (Table 7-11, R355). -/
def frsqF (e : Env) (a : Nat) : Nat × Env :=
  match Fm.f32.input e.mode a with
  | .nan sig => e.nan sig
  | .inf n => if n then e.nan true else e.just (.fin false 0 0) 0
  | .fin n m x =>
    if m = 0 then e.just (.inf n) flDZ
    else if n then e.nan true
    else
      let m' := if x % 2 = 0 then m else 2 * m
      let x' := if x % 2 = 0 then x else x - 1
      if isPow2 m' && Nat.log2 m' % 2 == 0 then e.just (.fin false 1 (-(x' + Nat.log2 m') / 2)) 0
      else e.nearby false (nearest 1 (BitVec.ofNat 32 a) ⟨isqrt (2 ^ 320 / m'), -x' / 2 - 160, 1⟩)

/-- √a with a sticky last bit, delivered under the code with one draw (Table 7-11, R354). -/
def fsqrtF (e : Env) (a : Nat) : Nat × Env :=
  match Fm.f32.input e.mode a with
  | .nan sig => e.deliver .f32 (.nan false) sig
  | .inf n => if n then e.deliver .f32 (.nan false) true else e.deliver .f32 (.inf false) false
  | .fin n m x =>
    if m = 0 then e.deliver .f32 (.fin n 0 0) false
    else if n then e.deliver .f32 (.nan false) true
    else
      let m' := (if x % 2 = 0 then m else 2 * m) * 2 ^ 160
      let x' := (if x % 2 = 0 then x else x - 1) - 160
      let r := isqrt m'
      e.deliver .f32 (.fin false (2 * r + (if r * r = m' then 0 else 1)) (x' / 2 - 1)) false

/-- a ÷ b with a sticky last bit, delivered under the code with one draw (Table 7-11, R354). -/
def fdivF (e : Env) (a b : Nat) : Nat × Env :=
  let dz := fun (r : Nat × Env) => (r.1, { r.2 with flags := r.2.flags ||| flDZ })
  match Fm.f32.input e.mode a, Fm.f32.input e.mode b with
  | .nan p, .nan q => e.deliver .f32 (.nan false) (p || q)
  | .nan p, _ => e.deliver .f32 (.nan false) p
  | _, .nan q => e.deliver .f32 (.nan false) q
  | .inf _, .inf _ => e.deliver .f32 (.nan false) true
  | .inf p, .fin q _ _ => e.deliver .f32 (.inf (p != q)) false
  | .fin p _ _, .inf q => e.deliver .f32 (.fin (p != q) 0 0) false
  | .fin p m x, .fin q n y =>
    if n = 0 then (if m = 0 then e.deliver .f32 (.nan false) true else dz (e.deliver .f32 (.inf (p != q)) false))
    else
      let num := m * 2 ^ 160
      e.deliver .f32 (.fin (p != q) (2 * (num / n) + (if num % n = 0 then 0 else 1)) (x - y - 161)) false

/-- 2^(2^−i) for i = 1, 2, … n as fixed-point numbers of 160 fraction bits, rounded down. -/
def rootsOfTwo (n c : Nat) : List Nat :=
  match n with
  | 0 => []
  | n + 1 => let r := isqrt (c * 2 ^ 160); r :: rootsOfTwo n r

/-- 2^f for f = b × 2^−n below 1: the product of the roots that the bits of b select, highest first. -/
def exp2Frac (roots : List Nat) (b n acc : Nat) : Nat :=
  match roots, n with
  | r :: rs, n + 1 => exp2Frac rs b n (if (b / 2 ^ n) % 2 = 1 then acc * r / 2 ^ 160 else acc)
  | _, _ => acc

/-- 2^a (Table 7-11, R355). From 2^9 on the result is beyond every f32; below 2^−26 it lies nearer 1 than any midpoint. -/
def fexp2F (e : Env) (a : Nat) : Nat × Env :=
  match Fm.f32.input e.mode a with
  | .nan sig => e.nan sig
  | .inf n => if n then e.just (.fin false 0 0) 0 else e.just (.inf false) 0
  | .fin n m x =>
    if m = 0 then e.just (.fin false 1 0) 0
    else if !magLt m x 1 9 then e.nearby false (1, if n then -1000 else 1000)
    else if magLt m x 1 (-26) then e.nearby false (1, 0)
    else
      let z := fint n m
      let num := if 0 ≤ x then z * 2 ^ x.toNat else z
      let fb := if 0 ≤ x then 0 else (-x).toNat
      let k := num.fdiv (2 ^ fb)
      let b := (num - k * 2 ^ fb).toNat
      if b = 0 then e.just (.fin false 1 k) 0
      else e.nearby false (nearest 2 (BitVec.ofNat 32 a) ⟨exp2Frac (rootsOfTwo fb (2 ^ 161)) b fb (2 ^ 160), k - 160, 2 ^ 10⟩)

/-- The first n bits of log2 of a number between 1 and 2, given with 320 fraction bits. -/
def log2Bits (n y acc : Nat) : Nat :=
  match n with
  | 0 => acc
  | n + 1 =>
    let q := y * y / 2 ^ 320
    if 2 ^ 321 ≤ q then log2Bits n (q / 2) (2 * acc + 1) else log2Bits n q (2 * acc)

/-- log2 a (Table 7-11, R355). -/
def flog2F (e : Env) (a : Nat) : Nat × Env :=
  match Fm.f32.input e.mode a with
  | .nan sig => e.nan sig
  | .inf n => if n then e.nan true else e.just (.inf false) 0
  | .fin n m x =>
    if m = 0 then e.just (.inf true) flDZ
    else if n then e.nan true
    else
      let l := Nat.log2 m
      let k : Int := x + l
      if isPow2 m then e.just (.fin (decide (k < 0)) k.natAbs 0) 0
      else
        let z : Int := k * 2 ^ 120 + log2Bits 120 (m * 2 ^ (320 - l)) 0
        if z < 0 then e.nearby true (nearest 3 (BitVec.ofNat 32 a) ⟨z.natAbs - 1, -120, 1⟩)
        else e.nearby false (nearest 3 (BitVec.ofNat 32 a) ⟨z.natAbs, -120, 1⟩)

/-- One draw where the code is rsr, for an element delivered without rounding (R158). -/
def Env.skip (e : Env) : Env := { e with g := (drawIf e.rc e.g).1 }

/-- a rounded to an integral value (R360). -/
def frndF (e : Env) (a : Nat) : Nat × Env :=
  match Fm.f32.input e.mode a with
  | .nan sig => e.skip.nan sig
  | .inf n => e.skip.just (.inf n) 0
  | .fin n m x =>
    if m = 0 then e.skip.just (.fin n 0 0) 0
    else
      let (g, r) := drawIf e.rc e.g
      let (z, ix) := roundInt e.rc n m x r
      (Fm.f32.sign n (Fm.f32.round 0 false z.natAbs 0 0).code, { e with g := g, flags := e.flags ||| (if ix then flNX else 0) })

/-- a × 2^n (R361). Beyond ±1000 the exponent changes nothing: the result overflows or underflows alike. -/
def fsclF (e : Env) (a : Nat) (n : Word) : Nat × Env :=
  match Fm.f32.input e.mode a with
  | .nan sig => e.skip.nan sig
  | .inf s => e.skip.just (.inf s) 0
  | .fin s m x =>
    if m = 0 then e.skip.just (.fin s 0 0) 0
    else e.deliver .f32 (.fin s m (x + max (-1000) (min 1000 n.toInt))) false

/-- The class of an f32 code (Table 20-18). -/
def classOf (a : Nat) : Nat :=
  match Fm.f32.decode a with
  | .nan sig => if sig then 8 else 9
  | .inf n => if n then 0 else 7
  | .fin n m x => if m = 0 then (if n then 3 else 4)
    else if Fm.f32.subnormal m x then (if n then 2 else 5) else (if n then 1 else 6)

/-- The format codes that `fdot` accepts (Table 21-2, R156). -/
def fdotCode (n : Nat) (c : Byte) : Bool :=
  (narrowFm c).isSome && (match n with
    | 2 => c == 0x30 || c == 0x31
    | 4 => decide (c.toNat < 0x20) || c == 0x23 || c == 0x24
    | _ => c == 0x20)

/-- An element of a packed word. -/
def elemOf (w i x : Nat) : Nat := bitsOf x (w * i) w

/-- c + Σ a_i × b_i, rounded once (R356). -/
def fdotF (n : Nat) (f : Fm) (e : Env) (a b c : Nat) : Nat × Env :=
  let w := 32 / n
  let xs := (List.range n).map (fun i => f.input e.mode (elemOf w i a))
  let ys := (List.range n).map (fun i => f.input e.mode (elemOf w i b))
  let cv := Fm.f32.input e.mode c
  let prods := (xs.zip ys).map (fun q => vMul q.1 q.2)
  let terms := cv :: prods.map (·.1)
  let both := terms.contains (.inf true) && terms.contains (.inf false)
  let v := prods.foldl (fun acc t => (vAdd e.rc acc t.1).1) cv
  e.deliver .f32 (if both then .nan false else v) (both || prods.any (·.2) || sigIn (cv :: xs ++ ys))

end Sys2Proof.Machine
end

