-- ==== Sys2Proof/Machine/Conversions.lean ====
section
/-! DEFINITION. Conversion instructions: `cvt` (M 19; R339, R340), `cvtn` and `mxscale` (M 20; R341, R342, R374, R375). -/

namespace Sys2Proof.Machine

/-- Whether a `cvt` type code is a packed pair (Table 2-14). -/
def cvtPacked (c : Nat) : Bool := c == 12 || c == 13

/-- Whether a `cvt` type has 64 bits. -/
def cvtWide (c : Nat) : Bool := c == 3 || c == 7 || c == 11

/-- The operand type of a `cvt` source on a side. -/
def cvtTy (sd : Side) (c : Nat) : OTy :=
  match sd with
  | .a => .int64
  | .e => match cvtFm c with
    | some f => if cvtPacked c then .pair f else .flt f
    | none => if cvtWide c then .int64 else .int32

/-- The pair of type codes is accepted on a side (R50, Table 20-11). -/
def cvtOk (sd : Side) (dst src : Nat) : Bool :=
  match sd with
  | .a => decide (dst < 8) && decide (src < 8)
  | .e => decide (dst < 14) && decide (src < 14) && cvtPacked dst == cvtPacked src

/-- An element of a conversion: its code, or the fault of its policy. -/
abbrev CvtRes := Option (Nat × Env)

/-- The result of a conversion as an element. -/
def Env.conv (e : Env) (g : DWord) (c : Conv) : CvtRes :=
  if c.fault then none else some (c.code, { e with g := g, flags := e.flags ||| c.flags })

/-- Between equal floating types: flush and canonicalise only (Table 20-11). -/
def cvtSame (f : Fm) (e : Env) (c : Nat) : Nat × Env :=
  match f.input e.mode c with
  | .nan sig => (f.nan, { e.skip with flags := e.flags ||| (if sig then flNV else 0) })
  | .inf n => (f.infOrMax n, e.skip)
  | .fin _ _ _ => e.skip.exact f (f.flushIn e.mode c) false

/-- One element of `cvt` (Table 20-11). -/
def cvtElem (dst src : Nat) (pol : Byte) (e : Env) (c : Nat) : CvtRes :=
  let (g, r) := drawIf e.rc e.g
  match cvtFm dst, cvtFm src with
  | some f, some h => if f = h then some (cvtSame f e (c % 2 ^ h.width))
    else e.conv g (convert f e.rc e.mode pol (h.input e.mode (c % 2 ^ h.width)) r)
  | some f, none => match cvtInt src with
    | some t => e.conv g (convert f e.rc e.mode pol (intVal (t.read c)) r)
    | none => none
  | none, some h => match cvtInt dst with
    | some t => e.conv g (convertInt t e.rc pol (h.input e.mode (c % 2 ^ h.width)) r)
    | none => none
  | none, none => match cvtInt dst, cvtInt src with
    | some t, some u => e.conv g (convertInt t e.rc pol (intVal (u.read c)) r)
    | _, _ => none

/-- An integer result extended to the register width by its type (R339). -/
def extendInt (dst : Nat) (c : Nat) : DWord :=
  match cvtInt dst with
  | some t => BitVec.ofInt 64 (t.read c)
  | none => BitVec.ofNat 64 c

/-- A `cvt` of a value: one element, or both halves (R340). -/
def cvtVal (dst src : Nat) (pol : Byte) (e : Env) (v : Nat) : CvtRes :=
  if cvtPacked dst then
    match cvtElem dst src pol e (v % 65536) with
    | some (lo, e1) => match cvtElem dst src pol e1 (v / 65536 % 65536) with
      | some (hi, e2) => some (lo + hi * 65536, e2)
      | none => none
    | none => none
  else cvtElem dst src pol e v

/-- CVT: one value converted by its type pair (R339, R340). -/
def execCvt (p : Pfx) (rc : BitVec 3) (d : BitVec 7) (a : Src) (ty : BitVec 8) (s : State) : Out :=
  let dst := (ty.extractLsb' 4 4).toNat
  let src := (ty.extractLsb' 0 4).toNat
  valueOp .both p (fun sd => [(cvtTy sd src, a)]) (fun _ c => cvtOk c.side dst src && dstOk c.side (cvtWide dst) d)
    (fun sd => setD sd (cvtWide dst) d 0)
    (fun _ k vs t => match cvtVal dst src p.cByte (t.env rc.toNat) (arg vs 0).toNat with
      | some (r, e) => .ok (setD (keySide k) (cvtWide dst) d (extendInt dst r) (t.putEnv e))
      | none => .trap .cvtPolicy 0) s

/-- The v register that a source names. -/
def vOf : Src → Option Nat
  | .reg n => some n.toNat
  | _ => none

/-- A range of n registers from r on lies in the file and below `.vregs` (R341, R374). -/
def rangeOk (vregs r n : Nat) : Bool := decide (r + n ≤ 128) && decide (r + n ≤ vregs)

/-- Writes consecutive v registers. -/
def setVs (t : Thread) (r : Nat) (l : List Nat) : Thread :=
  match l with
  | [] => t
  | x :: xs => setVs (t.setV r (BitVec.ofNat 32 x)) (r + 1) xs

/-- Reads consecutive v registers. -/
def getVs (t : Thread) (r n : Nat) : List Nat := (List.range n).map (fun i => (t.getV (r + i)).toNat)

/-- Goes on with n consecutive v registers of a thread, where they hold sound words (R131). -/
def withVs {α : Type} (t : Thread) (r n : Nat) (f : List Nat → Try α) : Try α :=
  tryThen (t.soundRegs ((List.range n).map (r + ·))) (fun _ => f (getVs t r n))

/-- Width of an element of a format code. -/
def codeWidth (c : Byte) : Nat := match narrowFm c with | some f => f.width | none => 8

/-- The codes that `cvtn.pk` and `.up` accept (Table 20-13). -/
def pkCode (c : Byte) : Bool :=
  (narrowFm c).isSome && (decide (c.toNat ≤ 0x20) || (decide (0x23 ≤ c.toNat) && decide (c.toNat ≤ 0x25))) || c == 0x33 || c == 0x34

/-- The codes that the six-bit forms accept. -/
def sixCode (c : Byte) : Bool := c == 0x21 || c == 0x22

/-- An f32 value into a narrow element, with its draw (R342). -/
def packElem (fmt pol : Byte) (e : Env) (x : Nat) : CvtRes :=
  let (g, r) := drawIf e.rc e.g
  let v := Fm.f32.input e.mode x
  match narrowFm fmt with
  | some f => e.conv g (convert f e.rc e.mode pol v r)
  | none => e.conv g (convertInt ⟨fmt == 0x33, 8⟩ e.rc pol v r)

/-- Elements packed in ascending order (R342). -/
def packAll (fmt pol : Byte) (e : Env) (xs : List Nat) : Option (List Nat × Env) :=
  match xs with
  | [] => some ([], e)
  | x :: t => match packElem fmt pol e x with
    | some (c, e1) => match packAll fmt pol e1 t with
      | some (cs, e2) => some (c :: cs, e2)
      | none => none
    | none => none

/-- Codes side by side in a word, element 0 lowest. -/
def joinElems (w : Nat) (l : List Nat) : Nat :=
  match l with
  | [] => 0
  | c :: t => c % 2 ^ w + 2 ^ w * joinElems w t

/-- A narrow element as f32, exact (R342). -/
def unpackElem (fmt : Byte) (e : Env) (c : Nat) : Nat × Env :=
  match narrowFm fmt with
  | some f => match f.input e.mode c with
    | .nan _ => (Fm.f32.nan, e)
    | v => e.exact .f32 (Fm.f32.deliverV 0 0 v false 0).1 false
  | none => ((Fm.f32.deliverV 0 0 (intVal ((⟨fmt == 0x33, 8⟩ : IntTy).read c)) false 0).1, e)

/-- Elements unpacked in ascending order. -/
def unpackAll (fmt : Byte) (e : Env) (cs : List Nat) : List Nat × Env :=
  match cs with
  | [] => ([], e)
  | c :: t =>
    let (x, e1) := unpackElem fmt e c
    let (xs, e2) := unpackAll fmt e1 t
    (x :: xs, e2)

/-- CVTN_PK: n elements from consecutive registers into one word (R341, R342). -/
def execCvtnPk (p : Pfx) (d : BitVec 7) (a : Src) (fmt : BitVec 8) (s : State) : Out :=
  let w := codeWidth fmt
  let n := 32 / w
  valueOp .eOnly p (fun _ => [])
    (fun s c => let v := (s.team c.tm).lim.vregs
      pkCode fmt && (match vOf a with | some r => rangeOk v r n | none => false) && rangeOk v d.toNat 1)
    (fun _ t => setVs t d.toNat [0])
    (fun _ _ _ t => withVs t ((vOf a).getD 0) n (fun ws => match packAll fmt p.cByte (t.env p.rc) ws with
      | some (cs, e) => .ok (setVs (t.putEnv e) d.toNat [joinElems w cs])
      | none => .trap .cvtPolicy 0)) s

/-- CVTN_UP: the elements of a word into n consecutive registers as f32 (R341, R342). -/
def execCvtnUp (p : Pfx) (d : BitVec 7) (a : Src) (fmt : BitVec 8) (s : State) : Out :=
  let w := codeWidth fmt
  let n := 32 / w
  valueOp .eOnly p (fun _ => [(.int32, a)])
    (fun s c => pkCode fmt && rangeOk (s.team c.tm).lim.vregs d.toNat n)
    (fun _ t => setVs t d.toNat (List.replicate n 0))
    (fun _ _ vs t =>
      let (xs, e) := unpackAll fmt (t.env 0) ((List.range n).map (fun i => elemOf w i (arg vs 0).toNat))
      .ok (setVs (t.putEnv e) d.toNat xs)) s

/-- CVTN_PK6: 16 six-bit codes into two words of the 4-bit plane and one of the 2-bit plane (R155, R341). -/
def execCvtnPk6 (p : Pfx) (d : BitVec 7) (a : Src) (fmt : BitVec 8) (s : State) : Out :=
  valueOp .eOnly p (fun _ => [])
    (fun s c => let v := (s.team c.tm).lim.vregs
      sixCode fmt && (match vOf a with | some r => rangeOk v r 16 | none => false) && rangeOk v d.toNat 3)
    (fun _ t => setVs t d.toNat [0, 0, 0])
    (fun _ _ _ t => withVs t ((vOf a).getD 0) 16 (fun ws => match packAll fmt p.cByte (t.env p.rc) ws with
      | some (cs, e) => .ok (setVs (t.putEnv e) d.toNat [joinElems 4 ((cs.take 8).map (· / 4)), joinElems 4 ((cs.drop 8).map (· / 4)),
          joinElems 2 (cs.map (· % 4))])
      | none => .trap .cvtPolicy 0)) s

/-- CVTN_UP6: 16 codes rejoined from both planes, as f32 (R155, R341). -/
def execCvtnUp6 (p : Pfx) (d : BitVec 7) (a : Src) (fmt : BitVec 8) (s : State) : Out :=
  valueOp .eOnly p (fun _ => [])
    (fun s c => let v := (s.team c.tm).lim.vregs
      sixCode fmt && (match vOf a with | some r => rangeOk v r 3 | none => false) && rangeOk v d.toNat 16)
    (fun _ t => setVs t d.toNat (List.replicate 16 0))
    (fun _ _ _ t => withVs t ((vOf a).getD 0) 3 fun ws =>
      let cs := (List.range 16).map (fun i => elemOf 4 (i % 8) (ws.getD (i / 8) 0) * 4 + elemOf 2 i (ws.getD 2 0))
      let (xs, e) := unpackAll fmt (t.env 0) cs
      .ok (setVs (t.putEnv e) d.toNat xs)) s

/-- emax of the element format of an MX block (R375, R282). -/
def emaxOf (fmt : Byte) : Int :=
  match fmt.toNat with
  | 0x22 => 4
  | 0x23 => 8
  | 0x24 => 15
  | _ => 2

/-- The largest magnitude of a block as ⌊log2⌋, none where every magnitude is 0. -/
def maxLog (l : List FVal) : Option Int :=
  l.foldl (fun acc v => match v with
    | .fin _ m e => if m = 0 then acc else
      let q := (Nat.log2 m : Int) + e
      some (match acc with | some b => max b q | none => q)
    | _ => acc) none

/-- The scale exponent of a block (R375): −127 for zeros, else the clamped difference. -/
def scaleOf (fmt : Byte) (l : List FVal) : Int :=
  match maxLog l with
  | none => -127
  | some q => max (-127) (min 127 (q - emaxOf fmt))

/-- A value of a block after its policy (R375): `none` faults, `some none` is non-finite, otherwise what it counts as. -/
def blockVal (pol : Byte) (v : FVal) : Option (Option FVal) :=
  match v with
  | .fin _ _ _ => some (some v)
  | .nan _ => match polField pol 0 with
    | 0 => some none
    | 3 => none
    | _ => some (some (.fin false 0 0))
  | .inf _ => match polField pol 1 with
    | 0 => some none
    | 1 => some (some (Fm.f32.decode Fm.f32.maxCode))
    | 2 => some (some (.fin false 0 0))
    | _ => none

/-- Flags of a block by condition (R375). -/
def blockFlags (l : List FVal) : BitVec 5 :=
  l.foldl (fun f v => f ||| (match v with | .nan sig => if sig then flNV else 0 | .inf _ => flOF ||| flNX | _ => 0)) 0

/-- MXSCALE: the E8M0 scale of a block of 32 and the factor 2^−X (R374, R375). -/
def execMxscale (p : Pfx) (d : BitVec 7) (a : Src) (fmt : BitVec 8) (s : State) : Out :=
  valueOp .eOnly p (fun _ => [])
    (fun s c => let v := (s.team c.tm).lim.vregs
      decide (0x20 ≤ fmt.toNat) && decide (fmt.toNat ≤ 0x24) && d.toNat % 2 == 0 && rangeOk v d.toNat 2 &&
        (match vOf a with | some r => rangeOk v r 32 | none => false))
    (fun _ t => setVs t d.toNat [0, 0])
    (fun _ _ _ t => withVs t ((vOf a).getD 0) 32 fun ws =>
      let ys := ws.map (Fm.f32.input t.mode)
      let zs := ys.map (blockVal p.cByte)
      if zs.contains none then .trap .cvtPolicy 0
      else if zs.contains (some none) then .ok (setVs (t.orFlags (blockFlags ys)) d.toNat [0xFF, Fm.f32.nan])
      else
        let x := scaleOf fmt (zs.map (fun z => (z.getD none).getD (.fin false 0 0)))
        .ok (setVs (t.orFlags (blockFlags ys)) d.toNat [(x + 127).toNat, (Fm.f32.round 0 false 1 (-x) 0).code])) s

end Sys2Proof.Machine
end

