-- ==== Sys2Proof/Machine/Control.lean ====
section
/-! DEFINITION. Control transfers (M 0 and M 1): branches, calls and returns, `exit`, `yield`, `brk`, `trap`, and the return
from the handler (R192, R193). -/

namespace Sys2Proof.Machine

/-- No prefix. -/
def noPfx : Pfx := { vx := none, mxa := none }

/-- RCV of a block is nonzero and does not name a header (R24). -/
def State.badRcv (s : State) (tm : Nat) (hdr : DWord) : Bool :=
  match s.rcvOf tm hdr with
  | none => false
  | some h => match s.fetch tm h 8 with
    | .ok w => (hdrOf w).isNone
    | .error _ => true

/-- The members of the issuing group would split, and the block's RCV cannot be read as R24 wants it. -/
def State.splitFault (s : State) (c : Cur) (dest : Nat → Dest) : Bool :=
  decide (1 < (distinct ((s.grp c.gid).members.map dest)).length) && s.badRcv c.tm c.hdr

/-- The members of the issuing group go each to its destination; a split reads RCV (R24, R69, R73). -/
def State.scatter (s : State) (c : Cur) (dest : Nat → Dest) : State :=
  (s.splitTo c.gid dest (s.rcvOf c.tm c.hdr)).arriveAll c.tm c.side

/-- What a thread wants of a transfer: to fall through, to go to a header, or it has met a cause. -/
inductive Wish where
  | fall
  | go (target : DWord)
  | bad (h : Hit)

/-- A wish with the checks of its target (R25, R26): none where the thread may move. -/
def State.wishHit (s : State) (c : Cur) (w : Wish) : Option Hit :=
  match w with
  | .bad h => some h
  | .fall => if c.last && s.fallFault c.tm c.next then some (s.hit .badTarget 0) else none
  | .go a => (s.targetFault c.tm a).map (fun x => s.hit x (if x = .badTarget then 0 else a))

/-- A transfer of a group: every thread's check first, then the check of a split (R24), then the threads move, each changed by
`upd` where it goes (R188). -/
def State.moveAll (s : State) (c : Cur) (wish : Nat → Wish) (upd : Thread → Thread) : Out :=
  let g := s.grp c.gid
  let hits := g.members.filterMap (fun t => (s.wishHit c (wish t)).map (fun h => (t, h)))
  let dest := fun t => match wish t with | .go a => toHeader a g.priv | _ => c.after g.priv
  if !hits.isEmpty then
    .next (s.raise c.gid c.pc c.hdr g.members (fun t => ((hits.find? (fun e => e.1 == t)).map (·.2)).getD s.noHit))
  else if s.splitFault c dest then s.raiseAll c g.members .badHeader 0
  else
    let goes := g.members.filter (fun t => match wish t with | .go _ => true | _ => false)
    let s1 := s.completed c.tm c.side g.members g.priv
    .next ((goes.foldl (fun s t => s.modThr (c.key t) upd) s1).scatter c dest)

/-- A format-B branch: the threads that `taken` names go to the header at current header + 8 × OFF (R26, R333). -/
def branchOp (off : BitVec 16) (taken : Thread → Bool) (s : State) : Out :=
  withCur .both false noPfx (fun _ _ => true) s fun c _ =>
    s.moveAll c (fun t => if taken (s.thr (c.key t)) then .go (hdrPlus c.hdr off) else .fall) id

/-- BR: every thread (R333). -/
def execBr (off : BitVec 16) (s : State) : Out := branchOp off (fun _ => true) s

/-- BRP: the threads whose predicate is 1 (R333). -/
def execBrp (pr : BitVec 7) (off : BitVec 16) (s : State) : Out := branchOp off (fun t => t.pred pr.toNat) s

/-- BRP_NOT: the threads whose predicate is 0 (R333). -/
def execBrpNot (pr : BitVec 7) (off : BitVec 16) (s : State) : Out := branchOp off (fun t => !t.pred pr.toNat) s

/-- CALL: pushes the header after the block, then transfers; a 17th entry raises BAD_TARGET with the target (R333). -/
def execCall (off : BitVec 16) (s : State) : Out :=
  withCur .both false noPfx (fun _ _ => true) s fun c _ =>
    let a := hdrPlus c.hdr off
    s.moveAll c
      (fun t => match s.targetFault c.tm a with
        | some _ => .go a
        | none =>
          if Config.returnDepth ≤ (s.thr (c.key t)).rstack.length then .bad (s.hit .badTarget a) else .go a)
      (fun th => { th with rstack := blockEnd c.hdr c.len :: th.rstack })

/-- RET: to the top entry of each thread's return stack; an empty stack raises BAD_TARGET (R389). -/
def execRet (s : State) : Out :=
  withCur .both false noPfx (fun _ _ => true) s fun c _ =>
    s.moveAll c
      (fun t => match (s.thr (c.key t)).rstack with
        | [] => .bad (s.hit .badTarget 0)
        | a :: _ => .go a)
      (fun th => { th with rstack := th.rstack.drop 1 })

/-- The operand of `brx`: an x register, or an even v pair or an s register on the execute side (R334). -/
def brxOk (sd : Side) (a : Src) : Bool :=
  match a, sd with
  | .reg n, .e => n.toNat % 2 == 0
  | .reg n, .a => decide (n.toNat < 32)
  | .sreg _, .e => true
  | _, _ => false

/-- Where each thread of a `brx` goes: to value(A), or INTEGRITY from a bad register (R131). -/
def State.brxWish (s : State) (k : Nat) (src : Src) : Wish :=
  match s.readSrc k .int64 src (s.rd k) with
  | .ok (v, _) => .go v
  | .trap x a => .bad (s.hit x a)
  | _ => .go 0

/-- BRX: each thread to value(A) (R334). -/
def execBrx (a : Src) (s : State) : Out :=
  withCur .both false noPfx (fun _ c => brxOk c.side a) s fun c _ =>
    s.moveAll c (fun t => s.brxWish (c.key t) a) id

/-- NOP changes no state but the program counter (R376). -/
def execNop (s : State) : Out :=
  withIssue .both false noPfx (fun _ _ => true) s fun c _ => .next (s.retire c)

/-- YIELD: the group counts as having issued and is not ready until another group of its side issues or 16 cycles pass
(R404). -/
def execYield (s : State) : Out :=
  withIssue .both false noPfx (fun _ _ => true) s fun c _ =>
    .next ((s.retire c).modGrp c.gid (fun g => { g with yielded := some s.cycle }))

/-- BRK raises BREAK, to the handler or to the debugger (R191, R204). -/
def execBrk (s : State) : Out :=
  withCur .both false noPfx (fun _ _ => true) s fun c act => .next (s.breakTo c act (s.hit .brk 0))

/-- TRAP: raises TRAP0 to TRAP7 (R191). -/
def execTrap (n : BitVec 3) (s : State) : Out :=
  withCur .both false noPfx (fun _ _ => true) s fun c act => s.raiseAll c act (.trap n) 0

/-- Causes raised before an instruction names operands (R53, R105). -/
def Cause.ofDecode : Cause → Bool
  | .illegalOp => true
  | .badPrefix => true
  | .sideMismatch => true
  | .priv => true
  | .badOperand => true
  | _ => false

/-- The source fields of an instruction word that may name a queue: A, B and C in order (R41). -/
def popFields (r : Raw) : List (BitVec 8) :=
  let m := r.m.toNat
  let f := r.f.toNat
  let a := (decide (4 ≤ m) && decide (m ≤ 21)) || (m == 23 && decide (f < 2)) || (m == 24 && decide (f < 2)) || (m == 37 && f == 0) || (m == 39 && f == 4)
  let b := (m == 2 && f == 4) || (m == 3 && f == 5) || (decide (4 ≤ m) && decide (m ≤ 18) && !(m == 9 && f == 7)) ||
    (m == 21 && decide (f < 3)) || m == 22 || (m == 31 && f == 1) || m == 32 || (m == 34 && decide (f < 2)) || (m == 39 && f == 6)
  let c := (m == 8 && f == 7) || (m == 9 && f == 5) || (m == 11 && f == 3) || (decide (13 ≤ m) && decide (m ≤ 16) && f == 3) ||
    (m == 22 && f == 3)
  (if a then [r.a] else []) ++ (if b then [r.b] else []) ++
    (if c then (match r.vx with | some v => [v.c] | none => []) else [])

/-- Whether the operands of an instruction word have 64 bits on the execute side, so that a pop takes two elements (R97). -/
def popWide (r : Raw) : Bool :=
  let m := r.m.toNat
  m == 6 || m == 12 || m == 16 || (m == 19 && cvtWide (r.b.toNat % 16)) || (m == 39 && r.f == 4)

/-- One element is popped where the head is poppable, and nothing is done otherwise (R105). An uncorrectable error in it, which the
skipped instruction may have met (R131), leaves with it. -/
def skipOne (sd : Side) (q : Nat) (rd : Rd) : Rd :=
  match sd with
  | .e => match (rd.p.queue q).places, (rd.p.queue q).flushed with
    | .full _ tag clk _ :: rest, false =>
      ⟨rd.p.setQ q { rd.p.queue q with places := rest, endSeen := tag }, clkJoin rd.clk clk⟩
    | _, _ => rd
  | .a => match rd.p.getRq q with
    | e :: rest => ⟨rd.p.setRq q rest, clkJoin rd.clk e.clk⟩
    | [] => rd

/-- The elements that a skipped `sta` would have taken leave a store-data queue that holds them (R97, R105). -/
def skipStore (q n : Nat) (rd : Rd) : Rd :=
  let l := rd.p.getSq q
  if l.length < n then rd else ⟨rd.p.setSq q (l.drop n), (l.take n).foldl (fun c e => clkJoin c e.clk) rd.clk⟩

/-- The pops that a skipped instruction word would have performed (R105, R193). -/
def skipWord (sd : Side) (r : Raw) (rd : Rd) : Rd :=
  let pops := (popFields r).filterMap (fun c => match srcOf c none with | some (.pop q) => some q.toNat | _ => none)
  let rd1 := pops.foldl (fun rd q => if popWide r && sd == .e then skipOne sd q (skipOne sd q rd) else skipOne sd q rd) rd
  if r.m == 24 && r.f == 2 then skipOne .a (r.a.toNat % 4) rd1
  else if r.m == 27 && decide (4 ≤ r.f.toNat) then skipStore (r.d.toNat % 4) (if r.f == 7 then 2 else 1) rd1
  else rd1

/-- Whether a thread took part in the skipped instruction's pops: its guard holds, and for `bcast` it stands in the lane
named (R39, R331). -/
def State.skipActive (s : State) (k : Nat) (r : Raw) (imx : Option (BitVec 24)) : Bool :=
  let p : Pfx := { vx := r.vx, mxa := none }
  p.holds (s.thr k) && (!(r.m == 21 && r.f == 3) ||
    (match srcOf r.b imx with
      | some b => (match s.readSrc k .int32 b (s.rd k) with | .ok (v, _) => v.toNat % 32 == (s.thr k).lane | _ => false)
      | none => false))

/-- A thread performs the pops of the instruction at `sr.fpc` that it skips (R105). -/
def State.skipPops (s : State) (k : Nat) : State :=
  let h := (s.thr k).h
  if h.cause.ofDecode || h.done then s
  else
    let n := match s.header (keyTm k) h.fhdr with
      | .ok x => x.len - ((h.fpc - h.fhdr).toNat - 8) / 4
      | .error _ => 0
    match s.fetchSeq (keyTm k) h.fpc n with
    | .error _ => s
    | .ok ws => match ws.getLast?, prefixesOf ws.dropLast 0 with
      | some w, some (vx, imx, mxa) =>
        let r := rawOf vx imx mxa w
        if s.skipActive k r imx then
          let rd := skipWord (keySide k) r (s.rd k)
          s.putLane k { th := { s.thr k with clk := rd.clk }, p := rd.p }
        else s
      | _, _ => s

/-- A pending-fault place leaves its queue (R111); a stream stopped there is freed (R349). -/
def Queue.dropPend (q : Queue) : Queue :=
  { q with places := q.places.filter (fun p => !p.isPend),
           stream := match q.stream with
             | some x => if x.stopped then none else some x
             | none => none }

/-- A stream stopped on a pending-fault place will load the faulting element again, at the element's address (R349). -/
def Queue.redoPend (q : Queue) : Queue :=
  match q.stream with
  | some x =>
    if x.stopped then
      { q with places := q.places.map (fun p => match p with
                 | .pend _ _ (some a) _ => .pend .none a (some a) none
                 | y => y),
               stream := some { x with stopped := false } }
    else q
  | none => q

/-- Changes the queue of a delivered pending-fault place. -/
def State.onPlace (s : State) (k : Nat) (f : Queue → Queue) : State :=
  match (s.thr k).h.place with
  | some q => s.modPair (pairOf k) (fun p => p.setQ q (f (p.queue q)))
  | none => s

/-- Leaving the handler by a retry or a skip (R193): the place of a pending fault is answered, and the count of entries
restarts where the instruction is completed. -/
def State.leaveHandler (s : State) (k : Nat) (skip : Bool) : State :=
  let h := (s.thr k).h
  let s1 := if skip then (s.skipPops k).onPlace k Queue.dropPend else s.onPlace k Queue.redoPend
  s1.modThr k (fun t =>
    { t with park := .none, passOnce := if !skip && !h.done && h.byMatch then some h.fpc else none,
             h := { t.h with place := none, progressed := t.h.progressed || skip || h.done } })

/-- Where a thread goes that leaves the handler (R193, R405). -/
def State.returnDest (s : State) (k : Nat) (skip : Bool) : Dest :=
  let h := (s.thr k).h
  if skip || h.done then s.afterSeq (keyTm k) h.fpc h.fhdr false
  else { pc := h.fpc, hdr := h.fhdr, entering := false, priv := false,
         len := match s.header (keyTm k) h.fhdr with | .ok x => x.len | .error _ => 0 }

/-- What the return of a thread from the handler meets: the checks of the block and of the place in it; where the thread goes on past
the block's last word, that of falling into the header after it (R25, log 123). -/
def State.leaveFault (s : State) (c : Cur) (k : Nat) (skip : Bool) : Option Hit :=
  let h := (s.thr k).h
  let d := s.returnDest k skip
  match s.returnFault c.tm h with
  | some x => some (s.hit x (if x = .badTarget ∨ x = .badHeader then 0 else h.fhdr))
  | none => if d.entering && s.fallFault c.tm d.hdr then some (s.hit .badTarget 0) else none

/-- A retry or a skip of the active threads; the others fall through (R192, R193). -/
def rfhOp (p : Pfx) (skip : Bool) (s : State) : Out :=
  withCur .both true p (fun _ _ => true) s fun c act =>
    let ms := (s.grp c.gid).members
    let hit := fun t => if act.contains t then s.leaveFault c (c.key t) skip else s.wishHit c .fall
    let hits := ms.filterMap (fun t => (hit t).map (fun h => (t, h)))
    let dest := fun t => if act.contains t then s.returnDest (c.key t) skip else c.after true
    if !hits.isEmpty then
      .next (s.raise c.gid c.pc c.hdr ms (fun t => ((hits.find? (fun e => e.1 == t)).map (·.2)).getD s.noHit))
    else if s.splitFault c dest then s.raiseAll c ms .badHeader 0
    else
      let s1 := s.completed c.tm c.side (s.inactive c act) true
      .next ((act.foldl (fun s t => s.leaveHandler (c.key t) skip) s1).scatter c dest)

/-- RFH_RETRY: to `sr.fhdr`, then the instruction at `sr.fpc` again (R192, R193). -/
def execRfhRetry (p : Pfx) (s : State) : Out := rfhOp p false s

/-- RFH_SKIP: to `sr.fhdr`, then on after the instruction sequence at `sr.fpc` (R192, R193). -/
def execRfhSkip (p : Pfx) (s : State) : Out := rfhOp p true s

/-- RFH_END: ends the group and with it its task (R192, R194). -/
def execRfhEnd (p : Pfx) (s : State) : Out :=
  withCur .both true p (fun _ _ => true) s fun c act =>
    let ms := (s.grp c.gid).members
    .next (s.endGroup c.tm c.side (if ms.any (fun t => (s.thr (c.key t)).h.cause != .none) then ms else act))

end Sys2Proof.Machine
end

