-- ==== Sys2Proof/Machine/Shared.lean ====
section
/-! DEFINITION. Instructions on predicates (M 3), on the registers a team shares (`smov`, `ballot`, `tatom`), and across the
lanes of a group (M 21). -/

namespace Sys2Proof.Machine

/-- The attempt of one thread: its sources are read, then `f` acts on the state. -/
def readThen (srcs : List (OTy × Src)) (f : State → Nat → List DWord → Try State) (s : State) (k : Nat) : Try State :=
  tryThen (s.readSrcs k srcs (s.rd k)) fun (vs, rd) =>
    f (s.putLane k { th := { s.thr k with clk := rd.clk }, p := rd.p }) k vs

/-- An instruction that reads sources and acts on what its team shares, lane by lane (R89): `f` is one thread's effect. -/
def seqOp (need : SideReq) (priv : Bool) (p : Pfx) (srcs : Side → List (OTy × Src)) (ok : State → Cur → Bool)
    (z : Side → Thread → Thread) (f : State → Nat → List DWord → Try State) (s : State) : Out :=
  withDst need priv p (fun s c => srcsOk s c (srcs c.side) && ok s c) z s fun c act =>
    s.runSeq c act p (z c.side) (readThen (srcs c.side) f)

/-- A raw predicate number with its inversion in bit 7 (R378). -/
def rawPred (t : Thread) (n : BitVec 8) : Bool := t.pred (n.toNat % 128) != n.getLsbD 7

/-- A logical instruction on predicates; inputs are read first (R378). -/
def plogOp (p : Pfx) (d : BitVec 7) (a b : BitVec 8) (f : Bool → Bool → Bool) (s : State) : Out :=
  valueOp .both p (fun _ => []) (fun _ _ => true) (fun _ t => t.setPred d.toNat false)
    (fun _ _ _ t => .ok (t.setPred d.toNat (f (rawPred t a) (rawPred t b)))) s

/-- PLOG_AND (R378, Table 22-9). -/
def execPlogAnd (p : Pfx) (d : BitVec 7) (a b : BitVec 8) (s : State) : Out := plogOp p d a b (fun x y => x && y) s
/-- PLOG_OR (R378, Table 22-9). -/
def execPlogOr (p : Pfx) (d : BitVec 7) (a b : BitVec 8) (s : State) : Out := plogOp p d a b (fun x y => x || y) s
/-- PLOG_XOR (R378, Table 22-9). -/
def execPlogXor (p : Pfx) (d : BitVec 7) (a b : BitVec 8) (s : State) : Out := plogOp p d a b (fun x y => x != y) s
/-- PLOG_ANDN: a AND NOT b (R378, Table 22-9). -/
def execPlogAndn (p : Pfx) (d : BitVec 7) (a b : BitVec 8) (s : State) : Out := plogOp p d a b (fun x y => x && !y) s
/-- PMOV (R378, Table 22-9). -/
def execPmov (p : Pfx) (d : BitVec 7) (a : BitVec 8) (s : State) : Out := plogOp p d a 0 (fun x _ => x) s

/-- Writes eight predicates from a byte; p0 is never written (R378). -/
def setPreds (t : Thread) (d n : Nat) (b : DWord) : Thread :=
  (List.range n).foldl (fun t i => t.setPred (d + i) (b.getLsbD i)) t

/-- PSET: eight predicates from the low byte of b (R378). -/
def execPset (p : Pfx) (d : BitVec 7) (b : Src) (s : State) : Out :=
  valueOp .both p (fun sd => [(intOf sd, b)]) (fun _ _ => d.toNat % 8 == 0) (fun _ t => setPreds t d.toNat 8 0)
    (fun _ _ vs t => .ok (setPreds t d.toNat 8 (arg vs 0))) s

/-- Whether D names an s register (R44). -/
def sDst (d : BitVec 7) : Bool := decide (d.toNat < 32)

/-- The lanes of active threads for which a predicate holds, as bits (R330). -/
def State.ballotOf (s : State) (c : Cur) (act : List Nat) (n : Nat) : DWord :=
  act.foldl (fun b t => let th := s.thr (c.key t); if th.pred n then setBit b th.lane true else b) 0

/-- BALLOT: one write of sD for the issue (R330). -/
def execBallot (p : Pfx) (d : BitVec 7) (pr : BitVec 7) (s : State) : Out :=
  withIssue .both false p (fun _ _ => sDst d) s fun c act =>
    .next ((s.writeS c.tm c.side d.toNat (s.ballotOf c act pr.toNat)).retire c)

/-- The step of `smov` (R392). -/
def smovStep (d : BitVec 7) (s : State) (k : Nat) (vs : List DWord) : Try State :=
  .ok (s.writeS (keyTm k) (keySide k) d.toNat (arg vs 0))

/-- SMOV: sD is written whole, zero-extended on the execute side; the last active lane stands (R392). -/
def execSmov (p : Pfx) (d : BitVec 7) (a : Src) (s : State) : Out :=
  seqOp .both false p (fun sd => [(intOf sd, a)]) (fun _ _ => sDst d) (fun _ t => t)
    (smovStep d) s

/-- The value of an s register that a write of the same cycle adds to (R89, R392). -/
def State.curS (s : State) (tm : Nat) (sd : Side) (n : Nat) : DWord := (kgetD ((s.team tm).sregs sd) n (freshUReg 0)).cur

/-- The step of `smov.hi` (R392). -/
def smovHiStep (d : BitVec 7) (s : State) (k : Nat) (vs : List DWord) : Try State :=
  .ok (s.writeS (keyTm k) (keySide k) d.toNat
    ((arg vs 0).extractLsb' 0 32 ++ (s.curS (keyTm k) (keySide k) d.toNat).extractLsb' 0 32))

/-- SMOV_HI: bits 63 to 32 of sD from value(A), the low bits kept (R392); execute side only. -/
def execSmovHi (p : Pfx) (d : BitVec 7) (a : Src) (s : State) : Out :=
  seqOp .both false p (fun _ => [(.int32, a)]) (fun _ c => sDst d && c.side == .e) (fun _ t => t)
    (smovHiStep d) s

/-- An operand of `tatom` at 64 bits: sign-extended from 32 on the execute side (R396). -/
def tatomArg (sd : Side) (v : DWord) : DWord := match sd with | .e => (v.extractLsb' 0 32).signExtend 64 | .a => v

/-- The value of a team register that an application starts from. -/
def State.curTr (s : State) (tm n : Nat) : DWord := (kgetD (s.team tm).tr n (freshUReg 0)).cur

/-- The step of one thread of `tatom` (R396, R397). -/
def tatomStep (d : BitVec 7) (tr : BitVec 4) (f : DWord → DWord → DWord → DWord) (s : State) (k : Nat) (vs : List DWord) : Try State :=
  let old := s.curTr (keyTm k) tr.toNat
  let new := f old (tatomArg (keySide k) (arg vs 0)) (tatomArg (keySide k) (arg vs 1))
  .ok ((s.writeTr (keyTm k) tr.toNat new).modThr k (setD (keySide k) false d old))

/-- One application to a team register: D receives the old value (R396, R397). -/
def tatomOp (p : Pfx) (d : BitVec 7) (tr : BitVec 4) (b : Src) (useC : Bool) (f : DWord → DWord → DWord → DWord) (s : State) : Out :=
  seqOp .both false p (fun sd => (intOf sd, b) :: (if useC then cList p (intOf sd) else []))
    (fun _ c => dstOk c.side false d && (!useC || p.cOk)) (fun sd => setD sd false d 0)
    (tatomStep d tr f) s

/-- TATOM_WR: trN becomes b (Table 23-7). -/
def execTatomWr (p : Pfx) (d : BitVec 7) (tr : BitVec 4) (b : Src) (s : State) : Out := tatomOp p d tr b false (fun _ x _ => x) s
/-- TATOM_ADD: trN becomes old + b (Table 23-7). -/
def execTatomAdd (p : Pfx) (d : BitVec 7) (tr : BitVec 4) (b : Src) (s : State) : Out := tatomOp p d tr b false (fun o x _ => o + x) s
/-- TATOM_MAX: trN becomes the larger, signed (Table 23-7). -/
def execTatomMax (p : Pfx) (d : BitVec 7) (tr : BitVec 4) (b : Src) (s : State) : Out :=
  tatomOp p d tr b false (fun o x _ => if o.slt x then x else o) s
/-- TATOM_CAS: trN becomes b where it equals c (Table 23-7); c is 0 without VX. -/
def execTatomCas (p : Pfx) (d : BitVec 7) (tr : BitVec 4) (b : Src) (s : State) : Out :=
  tatomOp p d tr b true (fun o x c => if o = c then x else o) s

/-- What the active threads of a group offer to one another: lane and values read. -/
abbrev Offers := List (Nat × List DWord)

/-- What the active threads offer to one another: each reads its sources (R387, R388). -/
def State.offers (s : State) (c : Cur) (act : List Nat) (srcs : List (OTy × Src)) : Offers :=
  act.filterMap (fun t => match s.readSrcs (c.key t) srcs (s.rd (c.key t)) with
    | .ok (vs, _) => some ((s.thr (c.key t)).lane, vs)
    | _ => none)

/-- The attempt of one thread of an instruction across lanes: its own sources are read, and its result computed from what all
offer. -/
def crossTry (o : Offers) (srcs : List (OTy × Src)) (f : Offers → Nat → List DWord → Thread → Thread) (s : State) (k : Nat) : Try Lane :=
  tryThen (s.readSrcs k srcs (s.rd k)) fun (vs, rd) =>
    .ok { th := f o (s.thr k).lane vs { s.thr k with clk := rd.clk }, p := rd.p }

/-- An instruction across lanes: every active thread reads its sources, then computes from all that were read (R387, R388). -/
def crossOp (p : Pfx) (d : BitVec 7) (srcs : List (OTy × Src)) (ok : Bool) (f : Offers → Nat → List DWord → Thread → Thread)
    (s : State) : Out :=
  withDst .eOnly false p (fun s c => srcsOk s c srcs && ok) (fun _ => setD .e false d 0) s fun c act =>
    s.runLanes c act p (setD .e false d 0) (crossTry (s.offers c act srcs) srcs f s)

/-- The value a lane offers, if a thread is active there. -/
def offered (o : Offers) (l : Int) : Option DWord :=
  (o.find? (fun e => (e.1 : Int) == l)).map (fun e => arg e.2 0)

/-- A shuffle: the value of the source lane, or the thread's own (R387). -/
def shflOp (p : Pfx) (d : BitVec 7) (a b : Src) (src : Nat → Word → Int) (s : State) : Out :=
  crossOp p d [(.int32, a), (.int32, b)] true
    (fun o l vs t =>
      let j := src l ((arg vs 1).setWidth 32)
      setD .e false d ((if 0 ≤ j ∧ j ≤ 31 then offered o j else none).getD (arg vs 0)) t) s

/-- SHFL_I: source lane n mod 32 (R387). -/
def execShflI (p : Pfx) (d : BitVec 7) (a b : Src) (s : State) : Out := shflOp p d a b (fun _ n => (n.toNat % 32 : Nat)) s
/-- SHFL_X: source lane l XOR n (R387). -/
def execShflX (p : Pfx) (d : BitVec 7) (a b : Src) (s : State) : Out := shflOp p d a b (fun l n => (l ^^^ (n.toNat % 32) : Nat)) s
/-- SHFL_D: source lane l + n (R387). -/
def execShflD (p : Pfx) (d : BitVec 7) (a b : Src) (s : State) : Out := shflOp p d a b (fun l n => (l : Int) + n.toInt) s

/-- Whether a source is uniform (R331). -/
def uniform : Src → Bool
  | .imm _ => true
  | .sreg _ => true
  | .tr _ => true
  | .zero => true
  | .imx _ => true
  | _ => false

/-- BCAST: value(A) of lane value(B) mod 32, evaluated there only; 0 where that lane is not active (R331). -/
def execBcast (p : Pfx) (d : BitVec 7) (a b : Src) (s : State) : Out :=
  withDst .eOnly false p (fun s c => srcsOk s c [(.int32, a), (.int32, b)] && uniform b) (fun _ => setD .e false d 0) s fun c act =>
    let write := fun (s : State) (v : DWord) => act.foldl (fun s t => s.modThr (c.key t) (setD .e false d v)) s
    let finish := fun (s : State) => Host.Outcome.next ((s.zeroDst c act p (setD .e false d 0)).retire c)
    let lane := match s.readSrc (c.key (act.headD 0)) .int32 b (s.rd (c.key (act.headD 0))) with
      | .ok (v, _) => v.toNat % 32
      | _ => 0
    match act.find? (fun t => (s.thr (c.key t)).lane == lane) with
    | none => finish (write s 0)
    | some t =>
      let r := s.readSrc (c.key t) .int32 a (s.rd (c.key t))
      s.settle c act [(t, r)] (match r with
        | .ok (v, rd) =>
          finish (write (s.putLane (c.key t) { th := { s.thr (c.key t) with clk := rd.clk }, p := rd.p }) v)
        | _ => .next s)

/-- What a reduction combines: addition, minimum, maximum. -/
inductive RedOp where
  | add
  | min
  | max
deriving DecidableEq, Repr

/-- Combines integers (R388); `sg` says signed. -/
def redInt (op : RedOp) (sg : Bool) (l : List Word) : Word :=
  let empty : Word := match op, sg with
    | .add, _ => 0
    | .min, true => 0x7FFFFFFF
    | .min, false => 0xFFFFFFFF
    | .max, true => 0x80000000
    | .max, false => 0
  let lt := fun (x y : Word) => if sg then x.slt y else x.ult y
  l.foldl (fun acc x => match op with
    | .add => acc + x
    | .min => if lt x acc then x else acc
    | .max => if lt acc x then x else acc) empty

/-- Combines f32 values: the exact sum rounded once, or the least or greatest (R388). -/
def redFloat (op : RedOp) (e : Env) (l : List Nat) : Nat × Env :=
  let cs := l.map (Fm.f32.flushIn e.mode)
  let vs := cs.map Fm.f32.decode
  match op, cs, vs with
  | .add, _, [] => (0, e)
  | .add, _, v :: t =>
    let both := vs.contains (.inf true) && vs.contains (.inf false)
    let x := t.foldl (fun acc y => (vAdd 0 acc y).1) v
    let (r, fl) := Fm.f32.deliverV e.mode 0 (if both then .nan false else x) (both || sigIn vs) 0
    (r, { e with flags := e.flags ||| fl })
  | .min, [], _ => (Fm.f32.infOrMax false, e)
  | .max, [], _ => (Fm.f32.infOrMax true, e)
  | o, c :: t, _ =>
    let x := t.foldl (fun a b => Fm.f32.minMax (o == .max) a b (Fm.f32.decode a) (Fm.f32.decode b)) c
    e.exact .f32 (if (Fm.f32.decode x).isNan then Fm.f32.nan else x) (sigIn vs)

/-- A reduction or scan: which lanes a lane combines is given by `within` (R388). -/
def redOp (p : Pfx) (d : BitVec 7) (a : Src) (ty : BitVec 2) (op : RedOp) (within : Nat → Nat → Bool) (s : State) : Out :=
  crossOp p d [(if ty = 2 then .flt .f32 else .int32, a)] (ty != 3)
    (fun o l _ t =>
      let xs := (sortBy (fun x y => decide (x.1 < y.1)) (o.filter (fun e => within e.1 l))).map (fun e => arg e.2 0)
      if ty = 2 then
        let (r, e) := redFloat op (t.env 0) (xs.map BitVec.toNat)
        setD .e false d (BitVec.ofNat 64 r) (t.putEnv e)
      else setD .e false d (ofWord (redInt op (ty == 0) (xs.map (fun x => x.setWidth 32)))) t) s

/-- RED_ADD: the sum over the active threads (R388). -/
def execRedAdd (p : Pfx) (d : BitVec 7) (a : Src) (ty : BitVec 2) (s : State) : Out := redOp p d a ty .add (fun _ _ => true) s
/-- RED_MIN: the least over the active threads (R388). -/
def execRedMin (p : Pfx) (d : BitVec 7) (a : Src) (ty : BitVec 2) (s : State) : Out := redOp p d a ty .min (fun _ _ => true) s
/-- RED_MAX: the greatest over the active threads (R388). -/
def execRedMax (p : Pfx) (d : BitVec 7) (a : Src) (ty : BitVec 2) (s : State) : Out := redOp p d a ty .max (fun _ _ => true) s

/-- The lanes that a scan combines: those below a lane, and itself unless exclusive (R388). -/
def scanned (excl : Bool) (j l : Nat) : Bool := decide (j < l) || (!excl && j == l)

/-- SCAN_ADD (R388). -/
def execScanAdd (p : Pfx) (d : BitVec 7) (a : Src) (excl : Bool) (ty : BitVec 2) (s : State) : Out := redOp p d a ty .add (scanned excl) s
/-- SCAN_MIN (R388). -/
def execScanMin (p : Pfx) (d : BitVec 7) (a : Src) (excl : Bool) (ty : BitVec 2) (s : State) : Out := redOp p d a ty .min (scanned excl) s
/-- SCAN_MAX (R388). -/
def execScanMax (p : Pfx) (d : BitVec 7) (a : Src) (excl : Bool) (ty : BitVec 2) (s : State) : Out := redOp p d a ty .max (scanned excl) s

end Sys2Proof.Machine
end

