-- ==== Sys2Proof/Machine/Sync.lean ====
section
/-! DEFINITION. Rejoin masks (R74 to R78), `reform` (R79), named barriers (R85 to R87, R289, R326), and the end of a thread
with all that it touches (R343, R75, R86, Table 4-4, R112, R350, R94). -/

namespace Sys2Proof.Machine

/-- The oldest deferred cause of a thread that a condition picks (R261, R268, R286). -/
def State.owedFor (s : State) (k : Nat) (f : Deferred → Bool) : Option Deferred :=
  match (s.thr k).deferred.filter f with
  | [] => none
  | d :: t => some (t.foldl (fun m x => if x.id < m.id then x else m) d)

/-- An attempt that first delivers a deferred cause, if the thread owes one here. -/
def State.orLate {α : Type} (s : State) (k : Nat) (f : Deferred → Bool) (t : Try α) : Try α :=
  match s.owedFor k f with
  | some d => .late d.cause d.faddr (.request d.id) d.race
  | none => t

/-- An attempt that would park on a line which a failed copy of the thread left absent delivers the copy's cause (R268). -/
def State.lateLine {α : Type} (s : State) (k : Nat) (t : Try α) : Try α :=
  match t with
  | .park (.line tm l) => s.orLate k (fun d => d.lines.contains (tm, l)) t
  | _ => t

/-- Changes a rejoin mask. -/
def State.modMask (s : State) (tm j : Nat) (f : JMask → JMask) : State :=
  s.modTeam tm (fun t => { t with jm := kput t.jm j (f (t.jmask j)) })

/-- ENROL: the active threads join the enrolled set (R75). -/
def execEnrol (p : Pfx) (j : BitVec 4) (s : State) : Out :=
  withIssue .eOnly false p (fun _ _ => true) s fun c act =>
    .next ((s.modMask c.tm j.toNat (fun m => { m with enrolled := act.foldl (fun b t => setBit b t true) m.enrolled })).retire c)

/-- STRIKE: the active threads leave the enrolled set; completion is evaluated at the end of the cycle (R75, R77). -/
def execStrike (p : Pfx) (j : BitVec 4) (s : State) : Out :=
  withIssue .eOnly false p (fun _ _ => true) s fun c act =>
    .next ((s.modMask c.tm j.toNat (fun m => { m with enrolled := act.foldl (fun b t => setBit b t false) m.enrolled })).retire c)

/-- JOIN: enrolled threads arrive and park at the next instruction, out of their group; the others go on. All of the group pass the
`join`, and leave its records (R73, R76, log 6, log 124). -/
def execJoin (p : Pfx) (j : BitVec 4) (s : State) : Out :=
  withIssue .eOnly false p (fun _ _ => true) s fun c act =>
    let g := s.grp c.gid
    let en := act.filter (fun t => ((s.team c.tm).jmask j.toNat).enrolled.getLsbD t)
    let s1 := s.modMask c.tm j.toNat (fun m =>
      { m with arrived := en.foldl (fun b t => setBit b t true) m.arrived,
               clk := en.foldl (fun b t => clkJoin b (s.thr (c.key t)).clk) m.clk })
    let s2 := en.foldl (fun s t => s.modThr (c.key t) (fun th => { th with park := .joined j.toNat }))
      (s1.completed c.tm c.side g.members g.priv)
    let on := fun (x : Group) => { x.goto (c.after g.priv) with stack := [] }
    let s3 := if en.isEmpty then s2 else (s2.takeOut c.gid en).newGroup { on g with members := en }
    .next ((s3.modGrp c.gid on).leaveRecords c.tm c.side g.stack g.members)

/-- A word of one of the sets of a rejoin mask (R76). -/
def maskWord (m : BitVec 1024) (w : Nat) : DWord := m.extractLsb' (64 * w) 64

/-- One thread's write of `jmask`: the word of the set that it names, or 0 where it is not active (R39, R76). -/
def jmaskTry (d : BitVec 7) (b : Src) (set : BitVec 1024) (c : Cur) (act : List Nat) (s : State) (k : Nat) : Try State :=
  if act.contains (keyIx k) then
    tryThen (s.readSrcs k [(.int32, b)] (s.rd k)) fun (vs, rd) =>
      let w := ((arg vs 0).setWidth 32).toNat
      if 15 < w then .trap .badOperand 0
      else .ok ((s.putLane k { th := { s.thr k with clk := rd.clk }, p := rd.p }).writeS c.tm c.side d.toNat (maskWord set w))
  else .ok (s.writeS c.tm c.side d.toNat 0)

/-- `jmask`: a word of the set into sD, lane by lane; inactive threads write 0 where the prefix says so (R39, R74, R76). -/
def jmaskOp (p : Pfx) (d : BitVec 7) (j : BitVec 4) (b : Src) (arr : Bool) (s : State) : Out :=
  checked .eOnly false p (fun s c => srcsOk s c [(.int32, b)] && sDst d)
      (fun s c => if p.zeroes then s.writeS c.tm c.side d.toNat 0 else s) s fun c act => s.fallOr c <|
    let ts := if p.zeroes then (s.grp c.gid).members else act
    let m := (s.team c.tm).jmask j.toNat
    let set := if arr then m.arrived else m.enrolled
    let (rs, done) := s.seqTry c ts (jmaskTry d b set c act)
    s.settle c act rs (.next (done.retire c))

/-- JMASK: of the enrolled set. -/
def execJmask (p : Pfx) (d : BitVec 7) (j : BitVec 4) (b : Src) (s : State) : Out := jmaskOp p d j b false s
/-- JMASK_ARR: of the arrived set. -/
def execJmaskArr (p : Pfx) (d : BitVec 7) (j : BitVec 4) (b : Src) (s : State) : Out := jmaskOp p d j b true s

/-- REFORM: the active threads leave their group and are filed under the header that follows the block; the others fall through to
it. All of the group pass the `reform`, and leave its records (R73, R79, R80, log 124). -/
def execReform (p : Pfx) (s : State) : Out :=
  withIssue .eOnly false p (fun _ c => c.last) s fun c act =>
    let g := s.grp c.gid
    let s1 := (s.completed c.tm c.side g.members g.priv).takeOut c.gid act
    let s2 := (s1.modGrp c.gid (fun x => { x.goto (c.after g.priv) with stack := [] })).leaveRecords c.tm c.side g.stack g.members
    .next (s2.fileThreads (s2.coreOf c.tm) c.tm c.next g.priv act)

/-- The key of a team barrier: nb0 has one for each side (R86). -/
def barKey (sd : Side) (n : Nat) : Nat :=
  match sd with
  | .e => n
  | .a => if n = 0 then 15 else n

/-- A named barrier as a side sees it; nb15 stands with the cluster (R85, R86). -/
def State.bar (s : State) (tm : Nat) (sd : Side) (n : Nat) : Barrier :=
  if n = 15 then
    match kget s.clusters (s.team tm).cluster, sd with
    | some c, .e => c.nb15E
    | some c, .a => c.nb15A
    | none, _ => freshBarrier none
  else (s.team tm).barrier (barKey sd n)

/-- Changes a named barrier. -/
def State.modBar (s : State) (tm : Nat) (sd : Side) (n : Nat) (f : Barrier → Barrier) : State :=
  if n = 15 then
    { s with clusters := kmod s.clusters (s.team tm).cluster (fun c => match sd with
        | .e => { c with nb15E := f c.nb15E }
        | .a => { c with nb15A := f c.nb15A }) }
  else s.modTeam tm (fun t => { t with nb := kput t.nb (barKey sd n) (f (t.barrier (barKey sd n))) })

/-- Whether a barrier has one instance for each side (R86). -/
def perSide (n : Nat) : Bool := n == 0 || n == 15

/-- A count operand is in range: 1 to 2,048, or 0 on nb0 and nb15 (R86, R326). -/
def countOk (n : Nat) (c : Nat) : Bool := if perSide n then c == 0 else decide (1 ≤ c) && decide (c ≤ 2048)

/-- An access thread's arrival waits until B[t] is empty and the load of every earlier `ldq` and `nget` has been taken
(Table 6-2, R289). -/
def State.mayArrive (s : State) (k : Nat) : Try Unit :=
  match keySide k with
  | .e => .ok ()
  | .a =>
    if !(s.thr k).sb.isEmpty then .park (.reach 0)
    else if (s.pair (pairOf k)).flights.any (fun f => match f.cargo with | .remote _ _ => true | _ => false) then .park .loads
    else .ok ()

/-- The threads that name another count than the one that stands; every thread where several are named and none stands
(R86). -/
def countHits (exp : Option Nat) (cs : List (Nat × Nat)) : List Nat :=
  match exp with
  | some e => (cs.filter (fun x => x.2 != e)).map (·.1)
  | none => if 1 < (distinct (cs.map (·.2))).length then cs.map (·.1) else []

/-- One thread's arrival at a named barrier: what it read, and its count (R86, R326). -/
def State.arriveTry (s : State) (n : Nat) (b : Src) (k : Nat) : Try (Rd × Nat) :=
  tryThen (s.readSrcs k [(.int32, b)] (s.rd k)) fun (vs, rd) =>
    let cnt := ((arg vs 0).setWidth 32).toNat
    if countOk n cnt then tryThen (s.mayArrive k) (fun _ => .ok (rd, cnt)) else .trap .badOperand 0

/-- The active threads park at the next instruction until a phase of a barrier completes; where others of their group go on, the
parked ones stand in a group of their own with the same records (R85, R290, log 121). -/
def State.parkPhase (s : State) (c : Cur) (act : List Nat) (nb : Nat) (ph : Word) : State :=
  let g := s.grp c.gid
  let on := fun (x : Group) => x.goto (c.after g.priv)
  let s1 := act.foldl (fun s t => s.modThr (c.key t) (fun th => { th with park := .phase nb ph }))
    (s.completed c.tm c.side g.members g.priv)
  let s2 := if (s.inactive c act).isEmpty then s1 else (s1.takeOut c.gid act).newGroup { on g with members := act }
  (s2.modGrp c.gid on).arriveHdr c.gid (Config.splitDepth + 1)

/-- Arrivals at a named barrier (R85, R86, R326); `wait` parks them until the phase completes (R290). -/
def arriveOp (wait : Bool) (p : Pfx) (nb : BitVec 4) (b : Src) (s : State) : Out :=
  withIssue .both false p (fun s c => srcsOk s c [(.int32, b)]) s fun c act =>
    let n := nb.toNat
    let rs := act.map (fun t => (t, s.arriveTry n b (c.key t)))
    let cs := rs.filterMap (fun e => match e.2 with | .ok (_, x) => some (e.1, x) | _ => none)
    let bar := s.bar c.tm c.side n
    let wrong := if perSide n then [] else countHits bar.expected cs
    s.settle c act rs (
      if !wrong.isEmpty then
        .next (s.raise c.gid c.pc c.hdr act (fun t => if wrong.contains t then s.hit .badOperand 0 else s.noHit))
      else
        let s1 := rs.foldl (fun s e => match e.2 with
          | .ok (rd, _) => s.putLane (c.key e.1) { th := { s.thr (c.key e.1) with clk := rd.clk }, p := rd.p }
          | _ => s) s
        let s2 := s1.modBar c.tm c.side n (fun b =>
          { b with arrived := b.arrived + act.length, who := b.who ++ act.map c.key,
                   expected := if perSide n then b.expected else some ((cs.headD (0, 0)).2),
                   clk := act.foldl (fun k t => clkJoin k (s1.thr (c.key t)).clk) b.clk })
        .next (if wait then s2.parkPhase c act n bar.phase else s2.retire c))

/-- ARRIVE: arrives and continues (R326). -/
def execArrive (p : Pfx) (nb : BitVec 4) (b : Src) (s : State) : Out := arriveOp false p nb b s
/-- ARWAIT: arrives, then parks until the phase it arrived in completes (R326, R290). -/
def execArwait (p : Pfx) (nb : BitVec 4) (b : Src) (s : State) : Out := arriveOp true p nb b s

/-- BWAIT: parks until the phase current at issue completes, without arriving (R326). -/
def execBwait (p : Pfx) (nb : BitVec 4) (s : State) : Out :=
  withIssue .both false p (fun _ _ => true) s fun c act =>
    .next (s.parkPhase c act nb.toNat (s.bar c.tm c.side nb.toNat).phase)

/-- Whether the execute partner's pops have reached a pending-fault place of a queue: its instruction needs that place next
(R111, R349). -/
def State.pendReached (s : State) (k q : Nat) : Option (Cause × DWord × Option (Acc × Bool)) :=
  match (s.thr (tkey (keyTm k) .e (keyIx k))).park with
  | .retry (.popQ n i) =>
    match (if n = q then ((s.pair (pairOf k)).queue q).places[i]? else none) with
    | some (.pend .none _ _ _) => none
    | some (.pend c a _ e) => some (c, a, e)
    | _ => none
  | _ => none

/-- Closing a stream: what `fclose` meets (R349, R350). -/
def State.closeTry (s : State) (k q : Nat) : Try Unit :=
  let qu := (s.pair (pairOf k)).queue q
  match qu.stream with
  | none => .ok ()
  | some x =>
    if x.stopped then
      match s.pendReached k q with
      | some (c, a, e) => .late c a (.stream q) e
      | none => .park (.stream q)
    else if s.partnerGone k then
      if 0 < x.rem then .late .queueFullExit x.addr (.stream q) none
      else if x.tail then .late .queueFullExit 0 (.stream q) none
      else .ok ()
    else if x.rem = 0 && !x.tail && qu.places.all (fun y => match y with | .pend _ _ _ _ => false | _ => true) then .ok ()
    else .park (.stream q)

/-- Closes the streams of some queues, one after another. -/
def State.closeAll (s : State) (k : Nat) (qs : List Nat) : Try Unit :=
  match qs with
  | [] => .ok ()
  | q :: t => tryThen (s.closeTry k q) (fun _ => s.closeAll k t)

/-- What `exit` meets (R343, Table 6-2): an access thread's store buffer first, then its open streams, then a deferred cause; of an
execute thread the RACE of one of its Bear commands (R143, log 125). -/
def State.exitTry (s : State) (k : Nat) : Try Unit :=
  match keySide k with
  | .e => s.orLate k (fun _ => true) (.ok ())
  | .a =>
    if !(s.thr k).sb.isEmpty then .park (.reach 0)
    else tryThen (s.closeAll k (List.range 16)) (fun _ => s.orLate k (fun _ => true) (.ok ()))

/-- Access threads parked at a pending fault that is cancelled go on after their instruction (R112). -/
def State.resumePend (s : State) (tm : Nat) (ts : List Nat) : State :=
  let gs := distinct (ts.filterMap (fun t => s.groupOf tm .a t))
  (gs.foldl (fun s gid =>
    let g := s.grp gid
    let sel := g.members.filter (fun t => ts.contains t)
    (s.completed tm .a sel g.priv).splitTo gid
      (fun t => if sel.contains t then s.afterSeq tm g.pc g.hdr g.priv else g.dest) none) s).arriveAll tm .a

/-- The threads among some whose access partner is parked on a pending fault, in queue q where one is named. -/
def State.pendHolders (s : State) (tm : Nat) (ts : List Nat) (q : Option Nat) : List Nat :=
  ts.filter (fun t => match (s.thr (tkey tm .a t)).park, q with
    | .pending _, none => true
    | .pending n, some m => n == m
    | _, _ => false)

/-- A data queue whose consumer has exited (Table 4-4, R350). -/
def Queue.orphan (q : Queue) : Queue :=
  { q with places := [], stream := match q.stream with
      | some x => if x.stopped then none else some x
      | none => none }

/-- What an exit does to the pair's queues (Table 4-4). -/
def Pair.exited (p : Pair) (sd : Side) : Pair :=
  match sd with
  | .e => { p with q := p.q.map (fun (e : Nat × Queue) => (e.1, e.2.orphan)) }
  | .a => { p with rq := [], sq := [], q := p.q.map (fun (e : Nat × Queue) => (e.1, { e.2 with stream := none })) }

/-- An exit before an arrival in the phase lowers the expected count (R86). -/
def exitBar (k : Nat) (b : Barrier) : Barrier :=
  if b.who.contains k then b else { b with expected := b.expected.map (· - 1) }

/-- One thread ends: its registers and return stack are discarded, it is struck from every mask, nb0 and nb15 and the partner's
queues take notice (R343, R75, R86). -/
def State.exitOne (s : State) (k : Nat) : State :=
  let tm := keyTm k
  let sd := keySide k
  let s1 := s.modThr k (fun t => { t with exited := true, v := [], x := [], preds := 0, rstack := [], park := .none })
  let s2 := match sd with
    | .e => s1.modTeam tm (fun t => { t with jm := t.jm.map (fun (e : Nat × JMask) => (e.1, { e.2 with enrolled := setBit e.2.enrolled (keyIx k) false })) })
    | .a => s1
  ((s2.modBar tm sd 0 (exitBar k)).modBar tm sd 15 (exitBar k)).modPair (pairOf k) (fun p => p.exited sd)

/-- A team retires when every thread of both sides has exited; its queues are discarded (R94). -/
def State.retireTeam (s : State) (tm : Nat) : State :=
  if (s.liveOf tm .e).isEmpty && (s.liveOf tm .a).isEmpty then
    let s1 : State := { s with pairs := s.pairs.filter (fun e => e.1 / 1024 != tm) }
    (s1.modTeam tm (fun t => { t with mode := .retired })).modTask (s.team tm).task (fun t => { t with retired := t.retired + 1 })
  else s

/-- EXIT ends every thread of the group (R343). -/
def execExit (s : State) : Out :=
  withCur .both false noPfx (fun _ _ => true) s fun c act =>
    let g := s.grp c.gid
    let rs := act.map (fun t => (t, s.exitTry (c.key t)))
    let pend := match c.side with | .e => s.pendHolders c.tm act none | .a => []
    s.settle c act rs (
      let s1 := act.foldl (fun s t => s.exitOne (c.key t)) s
      let s2 := (s1.takeOut c.gid act).leaveRecords c.tm c.side g.stack act
      .next ((s2.resumePend c.tm pend).retireTeam c.tm))

end Sys2Proof.Machine
end

