-- ==== Sys2Proof/Machine/QueueOps.lean ====
section
/-! DEFINITION. The queue instructions (M 23 and M 24; R96 to R109, R357, R380, R390) and the streams (M 31; R346 to R350). -/

namespace Sys2Proof.Machine

/-- The attempt of one thread of a push from the execute side (R390). -/
def sendTry (a : Src) (push : Pair → Word → Bool → Clock → Try Pair) (s : State) (k : Nat) : Try Lane :=
  if s.partnerGone k then .trap .queueFullExit 0
  else tryThen (s.readSrcs k [(.int32, a)] (s.rd k)) fun (vs, rd) =>
    tryThen (push rd.p ((arg vs 0).setWidth 32) false rd.clk) fun q => .ok { th := { s.thr k with clk := rd.clk }, p := q }

/-- A push from the execute side: refused where the partner has exited, else one word (R390). -/
def sendOp (p : Pfx) (d : BitVec 7) (a : Src) (push : Pair → Word → Bool → Clock → Try Pair) (s : State) : Out :=
  withIssue .eOnly false p (fun s c => srcsOk s c [(.int32, a)] && decide (d.toNat < 4)) s fun c act =>
    s.runLanes c act p id (sendTry a push s)

/-- SDQ: one word onto a store-data queue (R390). -/
def execSdq (p : Pfx) (d : BitVec 7) (a : Src) (s : State) : Out := sendOp p d a (fun q w g c => q.pushStore d.toNat w g c) s

/-- SENDX: one word onto a return queue (R390). -/
def execSendx (p : Pfx) (d : BitVec 7) (a : Src) (s : State) : Out := sendOp p d a (fun q w g c => q.pushRet d.toNat w g c) s

/-- The queue number is declared (R96). -/
def queueOk (s : State) (c : Cur) (q : BitVec 4) : Bool := decide (q.toNat < s.nq c.tm)

/-- The status word of a queue into D (R109). -/
def qstatOp (need : SideReq) (p : Pfx) (d : BitVec 7) (q : BitVec 4) (s : State) : Out :=
  withDst need false p (fun s c => queueOk s c q && dstOk c.side false d) (fun sd => setD sd false d 0) s fun c act =>
    s.runLanes c act p (setD c.side false d 0) fun k =>
      let l := s.lane k
      let w := (l.p.queue q.toNat).status (s.team c.tm).lim.depth (s.partnerGone k)
      .ok { l with th := setD c.side false d (ofWord w) l.th }

/-- QSTAT_E (R109, R380). -/
def execQstatE (p : Pfx) (d : BitVec 7) (q : BitVec 4) (s : State) : Out := qstatOp .eOnly p d q s
/-- QSTAT_A: zero-extended (R109, R380). -/
def execQstatA (p : Pfx) (d : BitVec 7) (q : BitVec 4) (s : State) : Out := qstatOp .aOnly p d q s

/-- Every place of a queue is discarded, a stream cancelled, and the marks set (R107, R108, R380). -/
def Queue.flush (q : Queue) (sd : Side) : Queue :=
  match sd with
  | .e => { q with places := [], stream := none, flushed := true }
  | .a => { q with places := [], stream := none, flushed := false, endSeen := false }

/-- A flush; a pending-fault record in the queue is cancelled (R112). -/
def flushOp (need : SideReq) (p : Pfx) (q : BitVec 4) (s : State) : Out :=
  withIssue need false p (fun s c => queueOk s c q) s fun c act =>
    let hold := s.pendHolders c.tm act (some q.toNat)
    let s1 := act.foldl (fun s t => s.modPair (pairOf (c.key t)) (fun x => x.setQ q.toNat ((x.queue q.toNat).flush c.side))) s
    .next ((s1.retire c).resumePend c.tm hold)

/-- QFLUSH_E (R107). -/
def execQflushE (p : Pfx) (q : BitVec 4) (s : State) : Out := flushOp .eOnly p q s
/-- QFLUSH_A (R108). -/
def execQflushA (p : Pfx) (q : BitVec 4) (s : State) : Out := flushOp .aOnly p q s

/-- QEND: p receives the end tag of the element last popped (R102, R103). -/
def execQend (p : Pfx) (d : BitVec 7) (q : BitVec 4) (s : State) : Out :=
  withDst .eOnly false p (fun s c => queueOk s c q) (fun _ t => t.setPred d.toNat false) s fun c act =>
    s.runLanes c act p (fun t => t.setPred d.toNat false) fun k =>
      let l := s.lane k
      .ok { l with th := l.th.setPred d.toNat (l.p.queue q.toNat).endSeen }

/-- The attempt of one thread of a push from the access side (R357). -/
def feedTry (tag : Bool) (d : BitVec 7) (a : Src) (s : State) (k : Nat) : Try Lane :=
  let q := (s.pair (pairOf k)).queue d.toNat
  if q.stream.isSome then .trap .badOperand 0
  else if !q.flushed && s.partnerGone k then .trap .queueFullExit 0
  else tryThen (s.readSrcs k [(.int64, a)] (s.rd k)) fun (vs, rd) =>
    tryThen (rd.p.room d.toNat 1 (s.team (keyTm k)).lim.depth false) fun free =>
      .ok { th := { s.thr k with clk := rd.clk },
            p := if free then rd.p.addPlaces d.toNat [.full ((arg vs 0).setWidth 32) tag rd.clk false] else rd.p }

/-- A push of one element from the access side (R357). -/
def feedOp (tag : Bool) (p : Pfx) (d : BitVec 7) (a : Src) (s : State) : Out :=
  withIssue .aOnly false p (fun s c => srcsOk s c [(.int64, a)] && decide (d.toNat < 16) && decide (d.toNat < s.nq c.tm)) s fun c act =>
    s.runLanes c act p id (feedTry tag d a s)

/-- FEED (R357). -/
def execFeed (p : Pfx) (d : BitVec 7) (a : Src) (s : State) : Out := feedOp false p d a s
/-- FEED_END: with the end tag (R357). -/
def execFeedEnd (p : Pfx) (d : BitVec 7) (a : Src) (s : State) : Out := feedOp true p d a s

/-- One more, up to 2^32 − 1 (R113). -/
def satInc (n : Nat) : Nat := if n < 2 ^ 32 - 1 then n + 1 else n

/-- The attempt of one thread of `recvx`. -/
def recvxTry (d : BitVec 7) (q : BitVec 2) (s : State) (k : Nat) : Try Lane :=
  let rd := s.rd k
  tryThen (rd.p.popRet q.toNat (s.partnerGone k) rd.clk) fun (w, x, clk) =>
    .ok { th := setD .a false d (ofWord w) { s.thr k with clk := clk }, p := { x with nrecv := satInc x.nrecv } }

/-- RECVX: pops a return queue into x(D), zero-extended (R97, R100); NRECV counts it (R113). -/
def execRecvx (p : Pfx) (d : BitVec 7) (q : BitVec 2) (s : State) : Out :=
  withDst .aOnly false p (fun _ c => dstOk c.side false d) (fun _ => setD .a false d 0) s fun c act =>
    s.runLanes c act p (setD .a false d 0) (recvxTry d q s)

/-- Streams that a pair has open. -/
def Pair.openStreams (p : Pair) : Nat := (p.q.filter (fun e => e.2.stream.isSome)).length

/-- Bytes of a stream's element (Table 20-17, Table 4-2). -/
def elemBytes (esz : BitVec 2) : Nat := 2 ^ esz.toNat

/-- The attempt of one thread of `fopen` (R346, R347). -/
def fopenTry (p : Pfx) (d : BitVec 7) (a b : Src) (s : State) (k : Nat) : Try State :=
  let pr := s.pair (pairOf k)
  let q := pr.queue d.toNat
  let va := s.addr k a b
  if q.stream.isSome || decide (Config.maxStreams ≤ pr.openStreams) then .trap .badOperand 0
  else tryThen (s.soundOps k [a, b]) fun _ => s.lateLine k (tryThen (s.loadCheck k va 16 16 p.order p.obs) fun r =>
    let (bs, s1) := s.loadStep k r 16 p.order p.obs
    let base := BitVec.ofNat 64 (leNat (bs.take 8))
    let w := leNat (bs.drop 8)
    let esz := BitVec.ofNat 2 (bitsOf w 48 2)
    let stride := (BitVec.ofNat 16 (bitsOf w 32 16)).signExtend 64
    let cnt := bitsOf w 0 32
    if base.toNat % elemBytes esz ≠ 0 || stride.toNat % elemBytes esz ≠ 0 then .trap .align va
    else if bitsOf w 51 13 ≠ 0 || cnt = 0 then .trap .badOperand 0
    else .ok (s1.modPair (pairOf k) (fun x => x.setQ d.toNat { x.queue d.toNat with
      stream := some { addr := base, stride := stride, esz := esz, rem := cnt, tail := bitsOf w 50 1 == 1, order := p.order,
                       mask := p.obs, stopped := false } })))

/-- FOPEN: reads the stream record and opens a stream (R346, R347). -/
def execFopen (p : Pfx) (d : BitVec 7) (a b : Src) (s : State) : Out :=
  withIssue .aOnly false p (fun s c => addrOk a b && decide (d.toNat < 16) && decide (d.toNat < s.nq c.tm)) s fun c act =>
    s.runSeq c act p id (fopenTry p d a b)

/-- The attempt of one thread of `fadv` (R348). -/
def fadvTry (d : BitVec 7) (q : BitVec 4) (b : Src) (s : State) (k : Nat) : Try Lane :=
  tryThen (s.readSrcs k [(.int64, b)] (s.rd k)) fun (vs, rd) =>
    let th := { s.thr k with clk := rd.clk }
    let qu := rd.p.queue q.toNat
    match qu.stream with
    | none => .ok { th := th.setX d.toNat 0, p := rd.p }
    | some x =>
      let n := min (arg vs 0).toNat x.rem
      .ok { th := th.setX d.toNat (BitVec.ofNat 64 x.rem),
            p := rd.p.setQ q.toNat { qu with stream := some { x with rem := x.rem - n, addr := x.addr + BitVec.ofNat 64 n * x.stride } } }

/-- FADV: x(D) receives REM, and up to n elements are passed over (R348). -/
def execFadv (p : Pfx) (d : BitVec 7) (q : BitVec 4) (b : Src) (s : State) : Out :=
  withIssue .aOnly false p (fun s c => srcsOk s c [(.int64, b)] && dstOk c.side false d && queueOk s c q) s fun c act =>
    s.runLanes c act p id (fadvTry d q b s)

/-- FEND: REM becomes 0 (R348). -/
def execFend (p : Pfx) (q : BitVec 4) (s : State) : Out :=
  withIssue .aOnly false p (fun s c => queueOk s c q) s fun c act =>
    s.runLanes c act p id fun k =>
      let l := s.lane k
      let qu := l.p.queue q.toNat
      .ok { l with p := l.p.setQ q.toNat { qu with stream := qu.stream.map (fun x => { x with rem := 0 }) } }

/-- FCLOSE: waits until the stream has reserved and filled its last place, then frees it (R349, R350). -/
def execFclose (p : Pfx) (q : BitVec 4) (s : State) : Out :=
  withIssue .aOnly false p (fun s c => queueOk s c q) s fun c act =>
    s.runLanes c act p id fun k =>
      tryThen (s.closeTry k q.toNat) fun _ =>
        let l := s.lane k
        .ok { l with p := l.p.setQ q.toNat { l.p.queue q.toNat with stream := none } }

/-- The words of a loaded element, low word first (Table 4-2). -/
def elemWords (bs : List Byte) : List Word :=
  if bs.length ≤ 4 then [BitVec.ofNat 32 (leNat bs)] else bytesWords (bs.length / 4) bs

/-- Full places for some words, with the clock of their push (R101). -/
def fullPlaces (ws : List Word) (clk : Clock) : List Place := ws.map (fun w => .full w false clk false)

/-- Places that a stream's load leads to: the data, or a pending-fault place at which the stream stops (R347). None where the
load waits. -/
def State.streamLoad (s : State) (k : Nat) (x : Stream) (va : DWord) : Option (List Place × Bool × State) :=
  let n := elemBytes x.esz
  match s.loadCheck k va n n x.order x.mask with
  | .ok r =>
    let (bs, s1) := s.loadStep k r n x.order x.mask
    some (fullPlaces (elemWords bs) (s1.thr k).clk, false, s1)
  | .trap c _ => some ([.pend c va (some va) none], true, s)
  | .raced a e w => some ([.pend .race a (some va) (some (e, w))], true, s)
  | _ => none

/-- Puts places where a stream's pending-fault place was sent back for another load. -/
def redoPlaces (l new : List Place) : List Place :=
  l.flatMap (fun p => match p with
    | .pend .none _ (some _) _ => new
    | x => [x])

/-- The address of a stream's place that is to be loaded again (R349). -/
def redoAddr (l : List Place) : Option DWord :=
  l.findSome? (fun p => match p with
    | .pend .none _ (some a) _ => some a
    | _ => none)

/-- A stream that has passed an element. -/
def Stream.next (x : Stream) : Stream := { x with rem := x.rem - 1, addr := x.addr + x.stride }

/-- STREAM_ELEMENT: a stream reserves its next place and fills it, or pushes its end element; to a flushed queue every push is
discarded, without a memory access (R347, Table 4-4). -/
def execStreamElement (tm tid q : Nat) (s : State) : Out :=
  let k := tkey tm .a tid
  let pr := s.pair (pairOf k)
  let qu := pr.queue q
  let no : Out := .refused (.notEnabled "STREAM_ELEMENT")
  if !s.power then .fault .poweredOff
  else match qu.stream with
  | none => no
  | some x =>
    if x.stopped || s.partnerGone k || (s.team tm).mode != .running || s.savedThr k then no
    else
      let put := fun (s : State) (f : Queue → Queue) => Host.Outcome.next (s.modPair (pairOf k) (fun p => p.setQ q (f (p.queue q))))
      if qu.flushed then
        (if 0 < x.rem then put s (fun qu => { qu with stream := some x.next })
          else if x.tail then put s (fun qu => { qu with stream := some { x with tail := false } })
          else no)
      else match redoAddr qu.places with
      | some a => match s.streamLoad k x a with
        | none => no
        | some (l, stop, s1) => put s1 (fun qu => { qu with places := redoPlaces qu.places l, stream := some { x with stopped := stop } })
      | none =>
        if 0 < x.rem then
          if (s.team tm).lim.depth < qu.places.length + (if x.esz = 3 then 2 else 1) then no
          else match s.streamLoad k x x.addr with
            | none => no
            | some (l, stop, s1) => put s1 (fun qu =>
              { qu with places := qu.places ++ l,
                        stream := some { x.next with stopped := stop } })
        else if x.tail && decide (qu.places.length < (s.team tm).lim.depth) then
          put s (fun qu => { qu with places := qu.places ++ [.full 0 true (s.thr k).clk false], stream := some { x with tail := false } })
        else no

end Sys2Proof.Machine
end

