-- ==== Sys2Proof/Machine/LoadStore.lean ====
section
/-! DEFINITION. Loads, loads into queues, stores, atomics and commutative updates (M 25 to M 29), `fence` and `pref` (M 30), and
the ownership of tiles (M 30; R398, R399). -/

namespace Sys2Proof.Machine

/-- D names an x register (R44). -/
def xOk (d : BitVec 7) : Bool := decide (d.toNat < 32)

/-- What a load of n bytes gives an x register: the bytes, zero-extended or sign-extended (R362). -/
def loadValue (n : Nat) (sg : Bool) (v : Nat) : DWord :=
  if sg && v / 2 ^ (8 * n - 1) == 1 then BitVec.ofNat 64 (2 ^ 64 - 2 ^ (8 * n) + v) else BitVec.ofNat 64 v

/-- The attempt of one thread of a load (R362, R363). -/
def loadTry (n : Nat) (sg : Bool) (p : Pfx) (d : BitVec 7) (a b : Src) (s : State) (k : Nat) : Try State :=
  let va := s.addr k a b
  tryThen (s.soundOps k [a, b]) fun _ => s.lateLine k (tryThen (s.loadCheck k va n n p.order p.obs) fun r =>
    let (bs, s1) := s.loadStep k r n p.order p.obs
    .ok (s1.modThr k (fun t => t.setX d.toNat (loadValue n sg (leNat bs)))))

/-- A load of n bytes into x(D) (R362, R363). -/
def loadOp (n : Nat) (sg : Bool) (p : Pfx) (d : BitVec 7) (a b : Src) (s : State) : Out :=
  withDst .aOnly false p (fun _ _ => addrOk a b && xOk d) (fun _ t => t.setX d.toNat 0) s fun c act =>
    s.runSeq c act p (fun t => t.setX d.toNat 0) (loadTry n sg p d a b)

/-- LD_I8 (Table 21-4). -/
def execLdI8 (p : Pfx) (d : BitVec 7) (a b : Src) (s : State) : Out := loadOp 1 true p d a b s
/-- LD_N8 (Table 21-4). -/
def execLdN8 (p : Pfx) (d : BitVec 7) (a b : Src) (s : State) : Out := loadOp 1 false p d a b s
/-- LD_I16 (Table 21-4). -/
def execLdI16 (p : Pfx) (d : BitVec 7) (a b : Src) (s : State) : Out := loadOp 2 true p d a b s
/-- LD_N16 (Table 21-4). -/
def execLdN16 (p : Pfx) (d : BitVec 7) (a b : Src) (s : State) : Out := loadOp 2 false p d a b s
/-- LD_I32 (Table 21-4). -/
def execLdI32 (p : Pfx) (d : BitVec 7) (a b : Src) (s : State) : Out := loadOp 4 true p d a b s
/-- LD_N32 (Table 21-4). -/
def execLdN32 (p : Pfx) (d : BitVec 7) (a b : Src) (s : State) : Out := loadOp 4 false p d a b s
/-- LD_B64 (Table 21-4). -/
def execLdB64 (p : Pfx) (d : BitVec 7) (a b : Src) (s : State) : Out := loadOp 8 false p d a b s

/-- Whether an issue of a thread outside handler code retries the instruction whose pending-fault place stands in the queue
(R111). -/
def State.retries (s : State) (c : Cur) (k q : Nat) : Bool :=
  !(s.grp c.gid).priv && ((s.pair (pairOf k)).queue q).places.any Place.isRecord

/-- Whether a flight's places still stand. -/
def Queue.holds (q : Queue) (id : Nat) : Bool := q.places.contains (.wait id)

/-- Reserves n places for a flight: at the tail, or where its pending-fault place stands (R99, R111). -/
def Queue.reserve (q : Queue) (again : Bool) (n f : Nat) : Queue :=
  let w := List.replicate n (Place.wait f)
  if again then { q with places := q.places.flatMap (fun p => if p.isRecord then w else [p]) }
  else { q with places := q.places ++ w }

/-- Removes a flight. -/
def Pair.dropFlight (p : Pair) (id : Nat) : Pair := { p with flights := p.flights.filter (fun e => e.id != id) }

/-- The flight that holds places of an `ldq` while its thread waits at it (R365). -/
def Pair.heldFlight (p : Pair) (q : Nat) : Option Nat := (p.flights.find? (fun f => f.q == q && f.cargo == .held)).map (·.id)

/-- How a push of `ldq` or `nget` stands before it looks at memory: it is discarded; its places are free; it fills a pending-fault
place; its places were reserved before its thread had to wait; or those are gone, by a flush or the consumer's exit. -/
inductive Push where
  | discard
  | fresh
  | again
  | held (flight : Nat)
  | gone (flight : Nat)
deriving DecidableEq, Repr

/-- The checks of an `ldq` or `nget` that raise at once: an open stream, the consumer's exit, alignment (R346, R365, Table 4-4). False
where the queue is flushed, and nothing is checked. -/
def State.pushNow (s : State) (k q : Nat) (align : Bool) (va : DWord) : Try Bool :=
  let pr := s.pair (pairOf k)
  let qu := pr.queue q
  if qu.stream.isSome then .trap .badOperand 0
  else if (pr.heldFlight q).isSome then .ok true
  else if qu.flushed then .ok false
  else if s.partnerGone k then .trap .queueFullExit 0
  else if align then .ok true else .trap .align va

/-- A push of n places by `ldq` or `nget` to queue q: what it meets before it looks at memory (R346, R365, Table 4-4). -/
def State.pushTry (s : State) (c : Cur) (k q n : Nat) (align : Bool) (va : DWord) : Try Push :=
  let pr := s.pair (pairOf k)
  tryThen (s.pushNow k q align va) fun go =>
    if !go then .ok .discard
    else match pr.heldFlight q with
      | some f => .ok (if (pr.queue q).holds f then .held f else .gone f)
      | none =>
        let again := s.retries c k q
        tryThen (pr.room q (if again then n - 1 else n) (s.team c.tm).lim.depth false) (fun _ => .ok (if again then .again else .fresh))

/-- An `ldq` or `nget` goes into flight (R212): its places are reserved and what it will bring is noted. -/
def State.launch (s : State) (c : Cur) (k q n : Nat) (push : Push) (cargo : Cargo) : State :=
  let id := match push with | .held f => f | _ => s.fresh
  let s1 := match cargo with
    | .remote _ _ => s.modThr k (fun t => { t with out := t.out ++ [2 * id + 1] })
    | _ => s
  let flight : Flight := { id := id, q := q, clk := (s.thr k).clk, cargo := cargo, translated := cargo == .held, fpc := c.pc, fhdr := c.hdr }
  (s1.bump).modPair (pairOf k) (fun p =>
    let p1 := p.dropFlight id
    let qu := p1.queue q
    let qu1 := match push with | .held _ => qu | x => qu.reserve (x == .again) n id
    { p1.setQ q qu1 with flights := p1.flights ++ [flight] })

/-- What a load for a queue holds (R110, R365): its data, or the XLATE, PERM or INTEGRITY that its translation or its data met. -/
def State.heldCargo (s : State) (t : Try (List Byte × State)) : Try (Cargo × State) :=
  match t with
  | .ok (bs, s1) => .ok (.data (elemWords bs), s1)
  | .trap .xlate a => .ok (.fault .xlate a, s)
  | .trap .perm a => .ok (.fault .perm a, s)
  | .trap .integrity a => .ok (.fault .integrity a, s)
  | .trap x a => .trap x a
  | .park w => .park w
  | .raced a e w => .raced a e w
  | .late x a o e => .late x a o e

/-- A load of n bytes for a queue (R110, R365). -/
def State.cargoOf (s : State) (k : Nat) (va : DWord) (n : Nat) (order : BitVec 3) (mask : BitVec 5) : Try (Cargo × State) :=
  s.heldCargo (tryThen (s.lateLine k (s.loadCheck k va n n order mask)) fun r => .ok (s.loadStep k r n order mask))

/-- The threads whose `ldq` or `nget` is in translation issue nothing until it completes (R212). -/
def State.parkFlights (s : State) (c : Cur) (act : List Nat) : State :=
  act.foldl (fun s t =>
    match (s.pair (pairOf (c.key t))).flights.find? (fun f => !f.translated) with
    | some f => s.modThr (c.key t) (fun th => { th with park := .translating f.id })
    | none => s) s

/-- The operands of a push of n places to a queue: what is read of registers, the alignment, and the address reported. -/
structure PushArgs where
  pre : State → Nat → Try Unit
  q : Nat
  n : Nat
  align : State → Nat → Bool
  va : State → Nat → DWord

/-- The attempt of one thread of a push that loads. -/
def State.pushLoad (c : Cur) (x : PushArgs) (cargo : State → Nat → Try (Cargo × State)) (s : State) (k : Nat) : Try State :=
  tryThen (x.pre s k) fun _ =>
  tryThen (s.pushTry c k x.q x.n (x.align s k) (x.va s k)) fun push =>
    match push with
    | .discard => .ok s
    | .gone f => .ok (s.modPair (pairOf k) (fun p => p.dropFlight f))
    | _ => tryThen (cargo s k) fun (cg, s1) => .ok (s1.launch c k x.q x.n push cg)

/-- The threads of a group that wait at an `ldq` after its reservation hold their places (R99, R365). -/
def State.holdPlaces (s : State) (c : Cur) (act : List Nat) (x : PushArgs) : State :=
  act.foldl (fun s t =>
    let k := c.key t
    match s.pushTry c k x.q x.n (x.align s k) (x.va s k) with
    | .ok .fresh => s.launch c k x.q x.n .fresh .held
    | .ok .again => s.launch c k x.q x.n .again .held
    | _ => s) s

/-- Places held for an `ldq` that raises are released (R365). -/
def State.releasePlaces (s : State) (c : Cur) (act : List Nat) (q : Nat) : State :=
  act.foldl (fun s t =>
    match (s.pair (pairOf (c.key t))).heldFlight q with
    | some f => s.modPair (pairOf (c.key t)) (fun p =>
        (p.dropFlight f).setQ q { p.queue q with places := (p.queue q).places.filter (fun y => y != .wait f) })
    | none => s) s

/-- Pushes that load, of the active threads of a group: what is raised at once comes before any wait for places; a wait that comes
after the reservation holds the places (R99, R110, R365). -/
def State.runPush (s : State) (c : Cur) (act : List Nat) (x : PushArgs) (cargo : State → Nat → Try (Cargo × State)) : Out :=
  let (rs, done) := s.seqTry c act (State.pushLoad c x cargo)
  let hits := rs.filterMap (fun e => (s.hitOf e.2).map (fun h => (e.1, h)))
  let waits := rs.filterMap (fun e => parkOf e.2)
  let now := act.any (fun t =>
    (s.hitOf (tryThen (x.pre s (c.key t)) (fun _ => s.pushNow (c.key t) x.q (x.align s (c.key t)) (x.va s (c.key t))))).isSome)
  let free := s.releasePlaces c act x.q
  if now then .next (free.raise c.gid c.pc c.hdr act (fun t => ((hits.find? (fun e => e.1 == t)).map (·.2)).getD s.noHit))
  else
    let s1 := if !hits.isEmpty then free else if !waits.isEmpty && waits.all (fun w => !w.early) then s.holdPlaces c act x else s
    s1.settle c act rs (.next ((done.retire c).parkFlights c act))

/-- What a load of n bytes into a queue names. -/
def ldqArgs (n : Nat) (d : BitVec 7) (a b : Src) : PushArgs :=
  { pre := fun s k => s.soundOps k [a, b], q := d.toNat, n := ceilDiv n 4, align := fun s k => (s.addr k a b).toNat % n == 0,
    va := fun s k => s.addr k a b }

/-- The attempt of one thread of a load into a queue (R364 to R367). -/
def ldqTry (n : Nat) (p : Pfx) (d : BitVec 7) (a b : Src) (c : Cur) (s : State) (k : Nat) : Try State :=
  State.pushLoad c (ldqArgs n d a b) (fun s k => s.cargoOf k (s.addr k a b) n p.order p.obs) s k

/-- A load of n bytes into the tail of a queue (R364 to R367). -/
def ldqOp (n : Nat) (p : Pfx) (d : BitVec 7) (a b : Src) (s : State) : Out :=
  withIssue .aOnly false p (fun s c => addrOk a b && decide (d.toNat < 16) && decide (d.toNat < s.nq c.tm) &&
      decide (n ≤ 8 ∨ 32 ≤ (s.team c.tm).lim.depth)) s fun c act =>
    s.runPush c act (ldqArgs n d a b) (fun s k => s.cargoOf k (s.addr k a b) n p.order p.obs)

/-- LDQ_B8 (Table 4-2). -/
def execLdqB8 (p : Pfx) (d : BitVec 7) (a b : Src) (s : State) : Out := ldqOp 1 p d a b s
/-- LDQ_B16 (Table 4-2). -/
def execLdqB16 (p : Pfx) (d : BitVec 7) (a b : Src) (s : State) : Out := ldqOp 2 p d a b s
/-- LDQ_B32 (Table 4-2). -/
def execLdqB32 (p : Pfx) (d : BitVec 7) (a b : Src) (s : State) : Out := ldqOp 4 p d a b s
/-- LDQ_B64 (Table 4-2). -/
def execLdqB64 (p : Pfx) (d : BitVec 7) (a b : Src) (s : State) : Out := ldqOp 8 p d a b s
/-- LDQ_LINE (Table 4-2). -/
def execLdqLine (p : Pfx) (d : BitVec 7) (a b : Src) (s : State) : Out := ldqOp 128 p d a b s

/-- The attempt of one thread of a store (R393, R394). -/
def storeTry (n : Nat) (p : Pfx) (d : BitVec 7) (a b : Src) (s : State) (k : Nat) : Try State :=
  tryThen (s.soundOps k [a, b, .reg d]) fun _ => s.lateLine k (tryThen (s.storeCheck k (s.addr k a b) n p.order p.obs) fun r =>
    .ok (s.storeStep k r (leBytes n ((s.thr k).getX d.toNat).toNat) p.order p.obs))

/-- A store of the low n bytes of x(D) (R393, R394). -/
def storeOp (n : Nat) (p : Pfx) (d : BitVec 7) (a b : Src) (s : State) : Out :=
  withIssue .aOnly false p (fun _ _ => addrOk a b && xOk d) s fun c act =>
    s.runSeq c act p id (storeTry n p d a b)

/-- ST_B8 (Table 23-6). -/
def execStB8 (p : Pfx) (d : BitVec 7) (a b : Src) (s : State) : Out := storeOp 1 p d a b s
/-- ST_B16 (Table 23-6). -/
def execStB16 (p : Pfx) (d : BitVec 7) (a b : Src) (s : State) : Out := storeOp 2 p d a b s
/-- ST_B32 (Table 23-6). -/
def execStB32 (p : Pfx) (d : BitVec 7) (a b : Src) (s : State) : Out := storeOp 4 p d a b s
/-- ST_B64 (Table 23-6). -/
def execStB64 (p : Pfx) (d : BitVec 7) (a b : Src) (s : State) : Out := storeOp 8 p d a b s

/-- The attempt of one thread of a store of data popped from a store-data queue (R395). -/
def staTry (n : Nat) (p : Pfx) (d : BitVec 7) (a b : Src) (s : State) (k : Nat) : Try State :=
  let va := s.addr k a b
  let rd := s.rd k
  tryThen (s.soundOps k [a, b]) fun _ => tryThen (rd.p.takeStore d.toNat (ceilDiv n 4) (s.partnerGone k) rd.clk) fun (ws, pr, clk) =>
    let s1 := s.putLane k { th := { s.thr k with clk := clk }, p := pr }
    s1.lateLine k (tryThen (s1.storeCheck k va n p.order p.obs) fun r =>
      .ok (s1.storeStep k r ((wordBytes ws).take n) p.order p.obs))

/-- A store of data popped from a store-data queue (R395). -/
def staOp (n : Nat) (p : Pfx) (d : BitVec 7) (a b : Src) (s : State) : Out :=
  withIssue .aOnly false p (fun _ _ => addrOk a b && decide (d.toNat < 4)) s fun c act =>
    s.runSeq c act p id (staTry n p d a b)

/-- STA_B8 (R395). -/
def execStaB8 (p : Pfx) (d : BitVec 7) (a b : Src) (s : State) : Out := staOp 1 p d a b s
/-- STA_B16 (R395). -/
def execStaB16 (p : Pfx) (d : BitVec 7) (a b : Src) (s : State) : Out := staOp 2 p d a b s
/-- STA_B32 (R395). -/
def execStaB32 (p : Pfx) (d : BitVec 7) (a b : Src) (s : State) : Out := staOp 4 p d a b s
/-- STA_B64: two elements, low word first (R395). -/
def execStaB64 (p : Pfx) (d : BitVec 7) (a b : Src) (s : State) : Out := staOp 8 p d a b s

/-- Bytes of an atomic's operand (R327). -/
def atomBytes (w : Bool) : Nat := if w then 8 else 4

/-- The checks of one thread of an atomic that reads some x registers besides its address (R131, R405). -/
def atomPre (p : Pfx) (w : Bool) (a b : Src) (xs : List Nat) (s : State) (k : Nat) : Try Unit :=
  tryThen (s.soundOps k [a, b]) fun _ => tryThen ((s.thr k).soundRegs xs) fun _ => s.lateLine k (tryThen (s.atomCheck k (s.addr k a b) (atomBytes w) true p.order p.obs) fun _ => .ok ())

/-- What an atomic gives D: the old value, zero-extended or, for the signed orders, sign-extended (R328). -/
def atomOld (w sg : Bool) (v : Nat) : DWord := if sg && !w then (BitVec.ofNat 32 v).signExtend 64 else BitVec.ofNat 64 v

/-- The step of one thread of an atomic (R327 to R329). -/
def atomTry (p : Pfx) (w : Bool) (d : BitVec 5) (a b : Src) (sg : Bool) (f : Thread → Nat → Nat) (s : State) (k : Nat) : Try State :=
  tryThen (s.atomCheck k (s.addr k a b) (atomBytes w) true p.order p.obs) fun r =>
    let (old, s1) := s.atomStep k r (atomBytes w) p.order p.obs (fun m => some (leBytes (atomBytes w) (f (s.thr k) (leNat m))))
    .ok (s1.modThr k (fun t => t.setX d.toNat (atomOld w sg (leNat old))))

/-- A read-modify-write step of each active thread (R327 to R329, R405): `f` gives the new memory value from the old one; `sg`
sign-extends the old word (R328); `pair` reads x(D + 1) too. -/
def atomOp (p : Pfx) (w : Bool) (d : BitVec 5) (a b : Src) (pair sg : Bool) (f : Thread → Nat → Nat) (s : State) : Out :=
  withDst .aOnly false p (fun _ _ => addrOk a b && (!pair || d.toNat % 2 == 0)) (fun _ t => t.setX d.toNat 0) s fun c act =>
    s.runSteps c act p (fun t => t.setX d.toNat 0) (atomPre p w a b (d.toNat :: if pair then [d.toNat + 1] else []) s) (atomTry p w d a b sg f)

/-- The operand of an atomic: x(D), its low 32 bits for `.b32` (R328). -/
def atomArg (w : Bool) (d : BitVec 5) (t : Thread) : Nat := (t.getX d.toNat).toNat % 2 ^ (8 * atomBytes w)

/-- The smaller or the larger of two values of a width, by the signed or the unsigned order (Table 20-5). -/
def atomPick (w : Bool) (mx sg : Bool) (m v : Nat) : Nat :=
  let lt := if sg then (if w then (BitVec.ofNat 64 m).slt (BitVec.ofNat 64 v) else (BitVec.ofNat 32 m).slt (BitVec.ofNat 32 v))
            else decide (m < v)
  if lt = mx then v else m

/-- ATOM_ADD (Table 20-5). -/
def execAtomAdd (p : Pfx) (w : Bool) (d : BitVec 5) (a b : Src) (s : State) : Out :=
  atomOp p w d a b false false (fun t m => (m + atomArg w d t) % 2 ^ (8 * atomBytes w)) s
/-- ATOM_MIN (Table 20-5). -/
def execAtomMin (p : Pfx) (w : Bool) (d : BitVec 5) (a b : Src) (s : State) : Out :=
  atomOp p w d a b false true (fun t m => atomPick w false true m (atomArg w d t)) s
/-- ATOM_MIN_N (Table 20-5). -/
def execAtomMinN (p : Pfx) (w : Bool) (d : BitVec 5) (a b : Src) (s : State) : Out :=
  atomOp p w d a b false false (fun t m => atomPick w false false m (atomArg w d t)) s
/-- ATOM_MAX (Table 20-5). -/
def execAtomMax (p : Pfx) (w : Bool) (d : BitVec 5) (a b : Src) (s : State) : Out :=
  atomOp p w d a b false true (fun t m => atomPick w true true m (atomArg w d t)) s
/-- ATOM_MAX_N (Table 20-5). -/
def execAtomMaxN (p : Pfx) (w : Bool) (d : BitVec 5) (a b : Src) (s : State) : Out :=
  atomOp p w d a b false false (fun t m => atomPick w true false m (atomArg w d t)) s
/-- ATOM_AND (Table 20-5). -/
def execAtomAnd (p : Pfx) (w : Bool) (d : BitVec 5) (a b : Src) (s : State) : Out :=
  atomOp p w d a b false false (fun t m => m &&& atomArg w d t) s
/-- ATOM_OR (Table 20-5). -/
def execAtomOr (p : Pfx) (w : Bool) (d : BitVec 5) (a b : Src) (s : State) : Out :=
  atomOp p w d a b false false (fun t m => m ||| atomArg w d t) s
/-- ATOM_XOR (Table 20-5). -/
def execAtomXor (p : Pfx) (w : Bool) (d : BitVec 5) (a b : Src) (s : State) : Out :=
  atomOp p w d a b false false (fun t m => m ^^^ atomArg w d t) s
/-- ATOM_XCHG (Table 20-5). -/
def execAtomXchg (p : Pfx) (w : Bool) (d : BitVec 5) (a b : Src) (s : State) : Out :=
  atomOp p w d a b false false (fun t _ => atomArg w d t) s
/-- CAS: memory becomes x(D + 1) where it equals x(D) (Table 20-5); D is even. -/
def execCas (p : Pfx) (w : Bool) (d : BitVec 5) (a b : Src) (s : State) : Out :=
  atomOp p w d a b true false
    (fun t m => if m = atomArg w d t then (t.getX (d.toNat + 1)).toNat % 2 ^ (8 * atomBytes w) else m) s

/-- A partial is combined with an operand under its form; a releasing contribution leaves its mark (R126, R138). -/
def Partial.fold (q : Option Partial) (form : Nat) (v : DWord) (task : Nat) (tag : Option RelTag) : Partial :=
  let old := match q with
    | some x => x.val
    | none => credIdentity form
  let t := match q with
    | some x => match x.tag, tag with
      | some a, some b => some { a with clk := clkJoin a.clk b.clk, mask := a.mask &&& b.mask }
      | some a, none => some a
      | none, b => b
    | none => tag
  { form := form, val := credCombine form old v, tasks := insertNat task ((q.map (·.tasks)).getD []), tag := t }

/-- Partials of a core that stand in the line of a word under another form. -/
def Core.otherForm (c : Core) (key form : Nat) : List Nat :=
  (c.upd.filter (fun e => lineKey e.1 == lineKey key && e.2.form != form)).map (·.1)

/-- The step of a `cred` (R126, R337, R338): at the bank for a window address, else into the core's update-only line. -/
def State.credStep (s : State) (k form : Nat) (r : Res) (v : DWord) (order : BitVec 3) (mask : BitVec 5) : State :=
  let n := credBytes form
  let s1 := (s.keepTlb r).recordThr k r n true true none
  let tag : Option RelTag := if releases order then some { clk := (s1.thr k).clk, mask := mask, cls := clsC } else none
  match r.loc with
  | .scratch _ _ =>
    let m := leNat (s1.readMs r.loc n)
    let pv : Nat := if form = 1 ∨ form = 6 then f32ToFx (v.toNat % 2 ^ 32) else if form = 5 then v.toNat else v.toNat % 2 ^ 32
    (s1.writeBytes r.loc (leBytes n (credMerge form m pv)) none).markWords (r.loc.words n) tag
  | _ =>
    let core := s1.coreOf (keyTm k)
    let key := r.loc.wkey
    let s2 := ((s1.core core).otherForm key form).foldl (fun s w => s.mergeWord core w) s1
    s2.modCore core (fun c => { c with upd := kput c.upd key (Partial.fold (kget c.upd key) form v (s.taskOf k) tag) })

/-- The attempt of one thread of a commutative update (R337, R338). -/
def credTry (form : Nat) (p : Pfx) (d : BitVec 7) (a b : Src) (s : State) (k : Nat) : Try State :=
  tryThen (s.soundOps k [a, b, .reg d]) fun _ => s.lateLine k (tryThen (s.atomCheck k (s.addr k a b) (credBytes form) true p.order p.obs) fun r =>
    .ok (s.credStep k form r ((s.thr k).getX d.toNat) p.order p.obs))

/-- A commutative update (R337, R338). -/
def credOp (form : Nat) (p : Pfx) (d : BitVec 7) (a b : Src) (s : State) : Out :=
  withIssue .aOnly false p (fun _ _ => addrOk a b && xOk d) s fun c act =>
    s.runSeq c act p id (credTry form p d a b)

/-- CRED_ADD_I32 (Table 20-10). -/
def execCredAddI32 (p : Pfx) (d : BitVec 7) (a b : Src) (s : State) : Out := credOp 0 p d a b s
/-- CRED_ADD_F32 (Table 20-10). -/
def execCredAddF32 (p : Pfx) (d : BitVec 7) (a b : Src) (s : State) : Out := credOp 1 p d a b s
/-- CRED_MIN_I32 (Table 20-10). -/
def execCredMinI32 (p : Pfx) (d : BitVec 7) (a b : Src) (s : State) : Out := credOp 2 p d a b s
/-- CRED_MAX_I32 (Table 20-10). -/
def execCredMaxI32 (p : Pfx) (d : BitVec 7) (a b : Src) (s : State) : Out := credOp 3 p d a b s
/-- CRED_OR_B32 (Table 20-10). -/
def execCredOrB32 (p : Pfx) (d : BitVec 7) (a b : Src) (s : State) : Out := credOp 4 p d a b s
/-- CRED_ADD_I64 (Table 20-10). -/
def execCredAddI64 (p : Pfx) (d : BitVec 7) (a b : Src) (s : State) : Out := credOp 5 p d a b s
/-- CRED_MAX_F32 (Table 20-10). -/
def execCredMaxF32 (p : Pfx) (d : BitVec 7) (a b : Src) (s : State) : Out := credOp 6 p d a b s

/-- What a fence waits for (R139). -/
def Thread.fenceTry (t : Thread) (o : BitVec 3) (mask : BitVec 5) : Try Unit :=
  if releases o && !t.reached mask then .park (.reach mask) else .ok ()

/-- FENCE: a step of each active thread, `sc` over every class without MXA (R139). -/
def execFence (p : Pfx) (s : State) : Out :=
  withIssue .aOnly false p (fun _ _ => true) s fun c act =>
    let o := match p.mxa with | some m => m.order | none => ordSc
    let mask := match p.mxa with | some m => m.obs | none => allClasses
    s.runLanes c act p id fun k => tryThen ((s.thr k).fenceTry o mask) fun _ => .ok (s.lane k)

/-- The attempt of one thread of `pref`. -/
def prefTry (p : Pfx) (a b : Src) (s : State) (k : Nat) : Try State :=
  tryThen (s.loadReady k p.order p.obs) fun _ =>
    .ok (match s.resolve (keyTm k) (s.addr k a b) with
      | some r => s.keepTlb r
      | none => s)

/-- PREF: no access and no fault; an `sc` one waits as a load does, and a translation it makes may stay (R379, R121). -/
def execPref (p : Pfx) (a b : Src) (s : State) : Out :=
  withIssue .aOnly false p (fun _ _ => addrOk a b) s fun c act =>
    s.runSeq c act p id (prefTry p a b)

/-- The tile is within the team's allocation (R122). -/
def tileOk (s : State) (c : Cur) (t : BitVec 6) : Bool := decide (t.toNat < (s.team c.tm).lim.tiles)

/-- A `tgive` hands on what its threads know, and what the presence of the tile's lines tells them, to the commands that use the tile
(R123, R124, Table 6-7). -/
def State.giveTile (s : State) (tm t : Nat) (clk : Clock) : State :=
  let known := clkJoin clk (s.lineClocks (.scratch tm (16384 * t)) 16384)
  s.modTeam tm (fun x => { x with owner := setBit x.owner t true, gives := kput x.gives t known })

/-- What the `tgive` of some tiles handed on. -/
def Team.givenTo (x : Team) (tiles : List Nat) (clk : Clock) : Clock := tiles.foldl (fun c t => clkJoin c (kgetD x.gives t [])) clk

/-- The first absent line of a tile. -/
def Team.absentIn (x : Team) (t : Nat) : Option Nat := x.absent.find? (fun l => l / 128 == t)

/-- TGIVE: the owner bit goes to the engines once every line is present and every active thread's store buffer is empty
(R399). -/
def execTgive (p : Pfx) (t : BitVec 6) (s : State) : Out :=
  withIssue .aOnly false p (fun s c => tileOk s c t) s fun c act =>
    let x := s.team c.tm
    let rs := act.map (fun u => (u,
      if x.owner.getLsbD t.toNat then (Try.trap .owner 0 : Try Unit)
      else match x.absentIn t.toNat with
        | some l => s.lateLine (c.key u) (.park (.line c.tm l))
        | none => if !(s.thr (c.key u)).sb.isEmpty then .park (.reach 0) else .ok ()))
    s.settle c act rs (
      let clk := act.foldl (fun k u => clkJoin k (s.thr (c.key u)).clk) []
      .next ((s.giveTile c.tm t.toNat clk).retire c))

/-- Whether an accepted engine command names a tile of a team (R236). -/
def State.tileNamed (s : State) (tm t : Nat) : Bool :=
  (s.core (s.coreOf tm)).bear.any (fun b => b.tm == tm && b.tiles.contains t) || s.kvqs.any (fun q => q.tm == tm && q.tile == t)

/-- TCLAIM: waits until no command names the tile, then takes the owner bit back (R399); a failed `kvq` for the tile is
delivered here (R261). -/
def execTclaim (p : Pfx) (t : BitVec 6) (s : State) : Out :=
  withIssue .aOnly false p (fun s c => tileOk s c t) s fun c act =>
    let rs := act.map (fun u => (u, s.orLate (c.key u) (fun d => d.tile == some t.toNat)
      (if s.tileNamed c.tm t.toNat then (Try.park (.tile t.toNat) : Try Unit) else .ok ())))
    s.settle c act rs (
      let clk := kgetD (s.team c.tm).flips t.toNat []
      let s1 := act.foldl (fun s u => s.modThr (c.key u) (fun th => { th with clk := clkJoin th.clk clk })) s
      .next ((s1.modTeam c.tm (fun x => { x with owner := setBit x.owner t.toNat false })).retire c))

/-- TCHK: whether threads own the tile (R399). -/
def execTchk (p : Pfx) (d : BitVec 7) (t : BitVec 6) (s : State) : Out :=
  withDst .aOnly false p (fun s c => tileOk s c t) (fun _ th => th.setPred d.toNat false) s fun c act =>
    let own := !(s.team c.tm).owner.getLsbD t.toNat
    let clk := kgetD (s.team c.tm).flips t.toNat []
    s.runLanes c act p (fun th => th.setPred d.toNat false) fun k =>
      let l := s.lane k
      .ok { l with th := { l.th with clk := if own then clkJoin l.th.clk clk else l.th.clk }.setPred d.toNat own }

end Sys2Proof.Machine
end

