-- ==== Sys2Proof/Machine/Rings.lean ====
section
/-! DEFINITION. Top-k records and rings (M 32; R299 to R306), and the shape of every instruction whose threads take their steps
one at a time at a home agent (R405). -/

namespace Sys2Proof.Machine

/-- The checks of one thread before any step (R405). -/
def homePre {α : Type} (srcs : List (OTy × Src)) (check : State → Nat → List DWord → Try α) (s : State) (k : Nat) : Try Unit :=
  tryThen (s.readSrcs k srcs (s.rd k)) fun (vs, _) => tryThen (s.lateLine k (check s k vs)) (fun _ => .ok ())

/-- The step of one thread at a home agent (R405). -/
def homeTry {α : Type} (srcs : List (OTy × Src)) (check : State → Nat → List DWord → Try α)
    (f : State → Nat → List DWord → α → Try State) (s : State) (k : Nat) : Try State :=
  tryThen (s.readSrcs k srcs (s.rd k)) fun (vs, rd) =>
    tryThen (check s k vs) (fun x => f (s.putLane k { th := { s.thr k with clk := rd.clk }, p := rd.p }) k vs x)

/-- An instruction of R405 that reads operands: `check` gives what the step needs or the cause met before any step, `f` is one
thread's step. -/
def homeOp {α : Type} (p : Pfx) (srcs : List (OTy × Src)) (ok : State → Cur → Bool) (z : Thread → Thread)
    (check : State → Nat → List DWord → Try α) (f : State → Nat → List DWord → α → Try State) (s : State) : Out :=
  withDst .aOnly false p (fun s c => srcsOk s c srcs && ok s c) (fun _ => z) s fun c act =>
    s.runSteps c act p z (homePre srcs check s) (homeTry srcs check f)

/-- The checks of a step at a home Sett on partition memory backed by HBM: alignment, no window and no host address, the
translation and permission, then the waits, races and errors of an atomic (R300, Table 6-2). -/
def State.homeCheck (s : State) (k : Nat) (va : DWord) (al n : Nat) (write : Bool) (o : BitVec 3) (mask : BitVec 5) : Try Res :=
  if va.toNat % al ≠ 0 then .trap .align va
  else if inWindow va then .trap .badOperand 0
  else match s.resolve (keyTm k) va with
    | none => .trap (s.xlateCause (s.partOf (keyTm k)) va) va
    | some r =>
      match r.loc with
      | .host _ => .trap .badOperand 0
      | _ =>
        if write && !r.w then .trap .perm va
        else tryThen (s.atomReady k o mask) fun _ =>
          tryThen (s.raceCheck k r va n write true) fun _ =>
          if s.corrupt (r.loc.words n) then .trap .integrity va else .ok r

/-- A pair of a top-k record: score and expert index. -/
abbrev Scored := Nat × Nat

/-- A score as a number that orders f32 values other than NaN; −0 and +0 are equal. -/
def scoreKey (c : Nat) : Int := if c / 2 ^ 31 = 1 then -((c % 2 ^ 31 : Nat) : Int) else ((c % 2 ^ 31 : Nat) : Int)

/-- Whether a code is a NaN. -/
def isNan32 (c : Nat) : Bool := (Fm.f32.decode c).isNan

/-- The pairs of a record (R299, R301): entries that are not empty and whose score is not NaN. -/
def scoresOf (bs : List Byte) : List Scored :=
  distinct ((List.range 8).filterMap (fun e =>
    let i := leNat ((bs.drop (8 * e)).take 4)
    let sc := leNat ((bs.drop (8 * e + 4)).take 4)
    if i = 0xFFFFFFFF || isNan32 sc then none else some (sc, i)))

/-- By score descending, on equal scores by index ascending (R301). -/
def scoredBefore (x y : Scored) : Bool :=
  decide (scoreKey y.1 < scoreKey x.1) || (scoreKey x.1 == scoreKey y.1 && decide (x.2 < y.2))

/-- The bytes of a record that holds some pairs, every other entry empty. -/
def scoreBytes (l : List Scored) : List Byte :=
  (List.range 8).flatMap (fun e => match l[e]? with
    | some x => leBytes 4 x.2 ++ leBytes 4 x.1
    | none => List.replicate 8 0xFF)

/-- The effect of `kins` on a record (R301). -/
def kinsBytes (k sc ix : Nat) (bs : List Byte) : List Byte :=
  let l := scoresOf bs
  let new := if sc = 0x80000000 then 0 else sc
  let l' := if l.any (fun x => x.2 == ix) then
      distinct (l.map (fun x => if x.2 = ix then (if scoreKey x.1 < scoreKey new then new else x.1, ix) else x))
    else l ++ [(new, ix)]
  scoreBytes ((sortBy scoredBefore l').take k)

/-- The record of a top-k instruction stands at x(A) (R300). -/
def recOk (a : Src) : Bool := match a with | .reg n => decide (n.toNat < 32) | _ => false

/-- What `kins` needs: a pair that may be inserted, and the record's place (R300, R301). -/
def kinsCheck (p : Pfx) (a : Src) (s : State) (t : Nat) (vs : List DWord) : Try Res :=
  let v := arg vs 0
  if v.extractLsb' 0 32 == 0xFFFFFFFF#32 || isNan32 (v.extractLsb' 32 32).toNat then .trap .badOperand 0
  else tryThen (s.soundOps t [a]) fun _ => s.homeCheck t (s.plainA t a) 64 64 true p.order p.obs

/-- The step of `kins` (R301). -/
def kinsStep (p : Pfx) (k : Nat) (s : State) (t : Nat) (vs : List DWord) (r : Res) : Try State :=
  let v := arg vs 0
  .ok (s.atomStep t r 64 p.order p.obs
    (fun bs => some (kinsBytes k (v.extractLsb' 32 32).toNat (v.extractLsb' 0 32).toNat bs))).2

/-- KINS: one pair into a record, as an atomic step at its home Sett (R300, R301). -/
def execKins (p : Pfx) (d : BitVec 7) (a b : Src) (s : State) : Out :=
  let k := d.toNat % 16
  homeOp p [(.int64, b)] (fun _ _ => recOk a && d.toNat < 16 && 1 ≤ k && k ≤ 8) id (kinsCheck p a) (kinsStep p k) s

/-- What `kget` needs (R300). -/
def kgetCheck (p : Pfx) (a : Src) (s : State) (t : Nat) (vs : List DWord) : Try Res :=
  if 7 < (arg vs 0).toNat then .trap .badOperand 0 else tryThen (s.soundOps t [a]) fun _ => s.homeCheck t (s.plainA t a) 64 64 false p.order p.obs

/-- The step of `kget` (R301). -/
def kgetStep (p : Pfx) (d : BitVec 7) (s : State) (t : Nat) (vs : List DWord) (r : Res) : Try State :=
  let (bs, s1) := s.atomStep t r 64 p.order p.obs (fun _ => none)
  .ok (s1.modThr t (fun th => th.setX d.toNat (BitVec.ofNat 64 (leNat ((bs.drop (8 * (arg vs 0).toNat)).take 8)))))

/-- KGET: x(D) receives entry value(B) of a record (R300, R301). -/
def execKget (p : Pfx) (d : BitVec 7) (a b : Src) (s : State) : Out :=
  homeOp p [(.int64, b)] (fun _ _ => recOk a && xOk d) (fun t => t.setX d.toNat 0) (kgetCheck p a) (kgetStep p d) s

/-- Slots of a ring. -/
def Ring.slots (r : Ring) : Nat := 2 ^ r.cfg.logn
/-- Free slots of a ring (R302). -/
def Ring.free (r : Ring) : Nat := r.slots - (r.tail - r.rel).toNat
/-- The address of slot n (R302). -/
def Ring.slotAddr (r : Ring) (n : Word) : DWord := r.cfg.base + BitVec.ofNat 64 (128 * r.cfg.ssize * (n.toNat % r.slots))

/-- The index of the slot that starts at an address (R303). -/
def Ring.slotAt (r : Ring) (va : DWord) : Option Nat :=
  let off := (va - r.cfg.base).toNat
  let sz := 128 * r.cfg.ssize
  if off % sz = 0 && decide (off / sz < r.slots) then some (off / sz) else none

/-- The counter value from `lo` below `hi` that stands for a slot index, if there is one. -/
def Ring.numberOf (r : Ring) (ix : Nat) (lo hi : Word) : Option Word :=
  let n := lo + BitVec.ofNat 32 ((ix + r.slots - lo.toNat % r.slots) % r.slots)
  if (n - lo).toNat < (hi - lo).toNat then some n else none

/-- Moves a counter over the marked slots above it and clears their marks. -/
def advance (n : Nat) (c : Word) (marks : List Word) : Word × List Word :=
  match n with
  | 0 => (c, marks)
  | n + 1 => if marks.contains c then advance n (c + 1) (marks.filter (· != c)) else (c, marks)

/-- A ring that an id names for a thread (R302, R303). -/
def State.ringFor (s : State) (k : Nat) (id : DWord) : Try Ring :=
  if 1024 ≤ id.toNat then .trap .badOperand 0
  else match kget s.rings id.toNat with
    | none => .trap .badOperand 0
    | some r =>
      if r.cfg.ssize = 0 then .trap .badOperand 0
      else if r.part ≠ s.partOf (keyTm k) then .trap .perm 0
      else .ok r

/-- What a ring instruction needs before any step: its ring, and the waits of an atomic (R303, R405, Table 6-2). -/
def ringCheck (p : Pfx) (slot : Option Src) (s : State) (k : Nat) (vs : List DWord) : Try Unit :=
  tryThen (s.soundOps k slot.toList) fun _ => tryThen (s.ringFor k (arg vs 0)) fun _ => s.atomReady k p.order p.obs

/-- The step of a ring instruction; a slot address that is no slot start is found here (R303, R405). -/
def ringStep (slot : Option Src) (f : State → Nat → Nat → Ring → Nat → Try State) (s : State) (k : Nat) (vs : List DWord) (_ : Unit) :
    Try State :=
  match kget s.rings (arg vs 0).toNat, slot with
  | some r, none => f s k (arg vs 0).toNat r 0
  | some r, some a => match r.slotAt (s.plainA k a) with
    | some i => f s k (arg vs 0).toNat r i
    | none => .trap .badOperand 0
  | none, _ => .trap .badOperand 0

/-- A ring instruction: its ring, its slot where it names one, and the waits of an atomic (R303, Table 6-2). -/
def ringOp (p : Pfx) (b : Src) (slot : Option Src) (ok : Bool) (z : Thread → Thread)
    (f : State → Nat → Nat → Ring → Nat → Try State) (s : State) : Out :=
  homeOp p [(.int64, b)] (fun _ _ => ok && (match slot with | some a => recOk a | none => true)) z
    (ringCheck p slot) (ringStep slot f) s

/-- Puts a ring back. -/
def State.setRing (s : State) (id : Nat) (r : Ring) : State := { s with rings := kput s.rings id r }

/-- The step of `ring.claim` (Table 18-4). -/
def claimStep (d : BitVec 7) (s : State) (k id : Nat) (r : Ring) (_ : Nat) : Try State :=
  if r.free = 0 then .park (.ringFull id)
  else .ok ((s.setRing id { r with tail := r.tail + 1 }).modThr k (fun t =>
    { t with clk := clkJoin t.clk (kgetD r.freeClk (r.tail.toNat % r.slots) []) }.setX d.toNat (r.slotAddr r.tail)))

/-- The step of `ring.post` (Table 18-4). -/
def postStep (s : State) (k id : Nat) (r : Ring) (i : Nat) : Try State :=
  match r.numberOf i r.pub r.tail with
  | none => .trap .badOperand 0
  | some n =>
    if r.posted.contains n then .trap .badOperand 0
    else
      let (pub, marks) := advance r.slots r.pub (r.posted ++ [n])
      .ok (s.setRing id { r with pub := pub, posted := marks, postClk := kput r.postClk i (s.thr k).clk })

/-- The step of `ring.take` (Table 18-4). -/
def takeStep (d : BitVec 7) (s : State) (k id : Nat) (r : Ring) (_ : Nat) : Try State :=
  if r.head = r.pub then .park (.ringEmpty id)
  else .ok ((s.setRing id { r with head := r.head + 1 }).modThr k (fun t =>
    { t with clk := clkJoin t.clk (kgetD r.postClk (r.head.toNat % r.slots) []) }.setX d.toNat (r.slotAddr r.head)))

/-- The step of `ring.free` (Table 18-4). -/
def freeStep (s : State) (k id : Nat) (r : Ring) (i : Nat) : Try State :=
  match r.numberOf i r.rel r.head with
  | none => .trap .badOperand 0
  | some n =>
    if r.freed.contains n then .trap .badOperand 0
    else
      let (rel, marks) := advance r.slots r.rel (r.freed ++ [n])
      .ok (s.setRing id { r with rel := rel, freed := marks, freeClk := kput r.freeClk i (s.thr k).clk })

/-- RING_CLAIM: parks while no slot is free, then x(D) receives the address of slot TAIL (Table 18-4). -/
def execRingClaim (p : Pfx) (d : BitVec 7) (b : Src) (s : State) : Out :=
  ringOp p b none (xOk d) (fun t => t.setX d.toNat 0)
    (claimStep d) s

/-- RING_POST: publishes a claimed slot (Table 18-4). -/
def execRingPost (p : Pfx) (a b : Src) (s : State) : Out :=
  ringOp p b (some a) true id
    postStep s

/-- RING_TAKE: parks while no slot is published, then x(D) receives the address of slot HEAD (Table 18-4). -/
def execRingTake (p : Pfx) (d : BitVec 7) (b : Src) (s : State) : Out :=
  ringOp p b none (xOk d) (fun t => t.setX d.toNat 0)
    (takeStep d) s

/-- RING_FREE: frees a taken slot (Table 18-4). -/
def execRingFree (p : Pfx) (a b : Src) (s : State) : Out :=
  ringOp p b (some a) true id
    freeStep s

/-- Whether the window of a parked `ring.take` has passed (R306). -/
def State.starved (s : State) (k : Nat) : Bool :=
  let t := s.thr k
  let w := (s.part (s.partOf (keyTm k))).eddl.extractLsb' 0 32
  match t.park, t.since with
  | .retry (.ringEmpty id), some (.runs at_) => match kget s.rings id with
    | some r => r.cfg.deadline && w != 0 && r.head == r.pub && decide (w.toNat ≤ (s.gtc - at_).toNat)
    | none => false
  | _, _ => false

/-- The place of a group, as an issue there reports it. -/
def State.placeOf (s : State) (gid : Nat) : Cur :=
  let g := s.grp gid
  { tm := g.tm, side := g.side, gid := gid, pc := g.pc, hdr := g.hdr, len := g.len, next := g.pc, last := false }

/-- Whether a group of a running team can take a delivery: it has not been saved. -/
def State.awake (s : State) (gid : Nat) : Bool := (s.team (s.grp gid).tm).mode == .running && !(s.grp gid).saved

/-- EXPERT_STARVED: a `ring.take` on a ring with DL that stayed parked for WINDOW ns raises it precisely there; it has taken no
slot (R306). -/
def execExpertStarved (tm tid : Nat) (s : State) : Out :=
  let k := tkey tm .a tid
  if !s.power then .fault .poweredOff
  else match s.groupOf tm .a tid with
  | none => .refused (.notEnabled "EXPERT_STARVED")
  | some gid =>
    if s.starved k && s.awake gid then
      let c := s.placeOf gid
      .next (s.raise gid c.pc c.hdr (s.activeAt gid) (fun t => if s.starved (tkey tm .a t) then s.hit .expertStarved 0 else s.noHit))
    else .refused (.notEnabled "EXPERT_STARVED")

end Sys2Proof.Machine
end

