-- ==== Sys2Proof/Machine/Units.lean ====
section
/-! DEFINITION. Accesses of engines and Sett units to memory (R134, R142, R143, R312), mb objects and counts on them (R270 to
R272, R368), and causes held for an issuer (R261, R268, R286). -/

namespace Sys2Proof.Machine

/-- What an access of a unit met: the cause, the address, and of a RACE the earlier access and whether this one writes. -/
structure Bad where
  cause : Cause
  va : DWord
  race : Option (Acc × Bool)
deriving DecidableEq, Repr

/-- A cause at an address. -/
def badAt (c : Cause) (va : DWord) : Bad := { cause := c, va := va, race := none }

/-- Pieces of n bytes from an address, cut at 4 KiB boundaries. -/
def pieces (va : DWord) (n : Nat) : List (DWord × Nat) :=
  let first := min n (4096 - va.toNat % 4096)
  let rest := (List.range (ceilDiv (n - first) 4096)).map (fun i =>
    (va + BitVec.ofNat 64 (first + 4096 * i), min 4096 (n - first - 4096 * i)))
  ((va, first) :: rest).filter (fun e => e.2 != 0)

/-- Where one piece of a unit's access leads, or what it meets: XLATE, PERM, RACE, INTEGRITY. -/
def State.unitRes (s : State) (w : Who) (va : DWord) (n : Nat) (write strong : Bool) : Except Bad Res :=
  match s.resolve w.tm va with
  | none => .error (badAt (s.xlateCause (s.partOf w.tm) va) va)
  | some r =>
    if write && !r.w then .error (badAt .perm va)
    else match (if r.tracked then s.raceOf w (r.loc.words n) write strong else none) with
      | some (i, e) => .error { cause := .race, va := wordVa va i, race := some (e, write) }
      | none => if !write && s.corrupt (r.loc.words n) then .error (badAt .integrity va) else .ok r

/-- The same for a list of pieces. -/
def State.unitResAll (s : State) (w : Who) (l : List (DWord × Nat)) (write strong : Bool) : Except Bad (List (Res × Nat)) :=
  match l with
  | [] => .ok []
  | (va, n) :: t => match s.unitRes w va n write strong with
    | .error e => .error e
    | .ok r => match s.unitResAll w t write strong with
      | .error e => .error e
      | .ok rs => .ok ((r, n) :: rs)

/-- Reads pieces that have passed their checks: merges owed first; the accesses are recorded. -/
def State.unitTake (s : State) (w : Who) (l : List (Res × Nat)) (strong : Bool) : List Byte × State :=
  match l with
  | [] => ([], s)
  | (r, n) :: t =>
    let ws := r.loc.words n
    let s1 := (s.keepTlb r).mergeLines ws
    let s2 := if r.tracked then s1.record w ws false strong none else s1
    let bs := s2.readMs r.loc n
    let (bt, s3) := s2.unitTake w t strong
    (bs ++ bt, s3)

/-- Writes bytes over pieces that have passed their checks. -/
def State.unitPut (s : State) (w : Who) (l : List (Res × Nat)) (bs : List Byte) (strong : Bool) : State :=
  match l with
  | [] => s
  | (r, n) :: t =>
    let s1 := s.keepTlb r
    let s2 := if r.tracked then s1.record w (r.loc.words n) true strong none else s1
    (s2.unitWrite r.loc (bs.take n) none).unitPut w t (bs.drop n) strong

/-- A read of n bytes by a unit. -/
def State.unitRead (s : State) (w : Who) (va : DWord) (n : Nat) (strong : Bool) : Except Bad (List Byte × State) :=
  match s.unitResAll w (pieces va n) false strong with
  | .error e => .error e
  | .ok l => .ok (s.unitTake w l strong)

/-- A write by a unit. -/
def State.unitStore (s : State) (w : Who) (va : DWord) (bs : List Byte) (strong : Bool) : Except Bad State :=
  match s.unitResAll w (pieces va bs.length) true strong with
  | .error e => .error e
  | .ok l => .ok (s.unitPut w l bs strong)

/-- The scratchpad lines of n bytes from an address of a team, as team and line. -/
def State.linesOf (s : State) (tm : Nat) (va : DWord) (n : Nat) : List (Nat × Nat) :=
  if n = 0 || !isWindow va then []
  else match s.windowLoc tm va with
    | some (.scratch t off) =>
      let last := min (off + n - 1) ((s.team t).lim.tiles * 16384 - 1)
      (List.range (last / 128 + 1 - off / 128)).map (fun i => (t, off / 128 + i))
    | _ => []

/-- The records that a cause met by a unit writes: a machine check for an uncorrectable error (R131), a record for an access
that leaves the grant (R307). -/
def State.badRecords (s : State) (tm source : Nat) (b : Bad) : State :=
  let p := s.partOf tm
  match b.cause with
  | .integrity => s.consumed p tm source b.va
  | .xlate => s.noteLeave p source b.va
  | _ => s

/-- A cause is held for the issuing thread, unless it has exited. -/
def State.owe (s : State) (k : Nat) (d : Deferred) : State :=
  if (s.thr k).exited then s else s.modThr k (fun t => { t with deferred := t.deferred ++ [d] })

/-- The contents of an mb object (Table 15-3). -/
structure Mb where
  exp : Word
  rem : Word
  phase : Word
  tarr : Nat
  tcount : Nat
deriving DecidableEq, Repr

/-- An mb object from its bytes. -/
def mbOf (bs : List Byte) : Mb :=
  let at_ := fun o n => leNat ((bs.drop o).take n)
  { exp := BitVec.ofNat 32 (at_ 0 4), rem := BitVec.ofNat 32 (at_ 4 4), phase := BitVec.ofNat 32 (at_ 8 4),
    tarr := at_ 14 2, tcount := at_ 12 2 }

/-- The bytes of an mb object. -/
def Mb.bytes (m : Mb) : List Byte :=
  leBytes 4 m.exp.toNat ++ leBytes 4 m.rem.toNat ++ leBytes 4 m.phase.toNat ++ leBytes 2 m.tcount ++ leBytes 2 m.tarr

/-- `evaluate` (R271): a phase completes when every byte and every arrival is in. -/
def Mb.evaluate (m : Mb) : Mb :=
  if m.rem = 0 ∧ m.tarr = m.tcount then { m with phase := m.phase + 1, exp := 0, tarr := 0 } else m

/-- The key of the word of an mb object that carries what its completed phases knew. -/
def mbPast (l : Loc) : Nat := (l.plus 8).wkey
/-- The key of the word that carries what has arrived in the current phase. -/
def mbNow (l : Loc) : Nat := (l.plus 12).wkey

/-- What a clock on an mb object's word is; a mask of no class keeps acquire loads from reading it. -/
def mbTag (c : Clock) : RelTag := { clk := c, mask := 0, cls := 0 }

/-- What an arrival or a count adds to an mb object, and what a completed phase hands on (R272): `old` is the release table
before the write. -/
def State.mbEdge (s : State) (l : Loc) (old : KMap RelTag) (new : Clock) (done : Bool) : State :=
  let get := fun k => ((kget old k).map (·.clk)).getD []
  let past := get (mbPast l)
  let now := clkJoin (get (mbNow l)) new
  let rel := if done then kdel (kput s.rel (mbPast l) (mbTag (clkJoin past now))) (mbNow l)
    else kput (kput s.rel (mbPast l) (mbTag past)) (mbNow l) (mbTag now)
  { s with rel := rel }

/-- What an `mbwait` that sees a phase complete learns (R272). -/
def State.mbPastClk (s : State) (l : Loc) : Clock := ((kget s.rel (mbPast l)).map (·.clk)).getD []

/-- The checks of a count on an mb object (R270, R368). -/
def State.mbCheck (s : State) (w : Who) (va : DWord) : Except Bad Res :=
  if va.toNat % 16 ≠ 0 then .error (badAt .align va)
  else match s.unitRes w va 16 true true with
    | .error e => .error e
    | .ok r => match r.loc with
      | .host _ => .error (badAt .perm va)
      | _ => if s.corrupt (r.loc.words 16) then .error (badAt .integrity va) else .ok r

/-- n bytes are counted on an mb object (R271). -/
def State.mbTake (s : State) (l : Loc) (n : Nat) (clk : Clock) : State :=
  let s1 := s.mergeLines (l.words 16)
  let m := mbOf (s1.readMs l 16)
  let m' := ({ m with rem := m.rem - BitVec.ofNat 32 n }).evaluate
  (s1.unitWrite l m'.bytes none).mbEdge l s1.rel clk (m'.phase != m.phase)

/-- A unit counts n bytes on an mb object: a strong access of it (R271, Table 6-8). -/
def State.mbCount (s : State) (w : Who) (r : Res) (n : Nat) : State :=
  let s1 := if r.tracked then s.record w (r.loc.words 16) true true none else s
  s1.mbTake r.loc n w.clk

end Sys2Proof.Machine
end

