-- ==== Sys2Proof/Machine/Rotary.lean ====
section
/-! DEFINITION. Page descriptors (R245, R246) and the rotation of key pairs on load (R249, R250). -/

namespace Sys2Proof.Machine

/-- A page descriptor (Table 14-1). -/
structure Desc where
  page : DWord
  crcv : Bool
  freed : Bool
  quar : Bool
  fmt : Nat
  kind : Nat
  head : Nat
  pos : Word
  pin : Word
  refs : Word
  freq : Nat
  crc : Word
  /-- A reserved field, a KIND or FMT value or a PAGE that the table marks (R246). -/
  wrong : Bool
deriving DecidableEq, Repr

/-- A descriptor from its 32 bytes. -/
def descOf (bs : List Byte) : Desc :=
  let w := fun i => leNat ((bs.drop (8 * i)).take 8)
  { page := BitVec.ofNat 64 (w 0), crcv := bitsOf (w 1) 54 1 == 1, freed := bitsOf (w 1) 53 1 == 1,
    quar := bitsOf (w 1) 52 1 == 1, fmt := bitsOf (w 1) 50 2, kind := bitsOf (w 1) 48 2, head := bitsOf (w 1) 32 16,
    pos := BitVec.ofNat 32 (w 1), pin := BitVec.ofNat 32 (bitsOf (w 2) 32 32), refs := BitVec.ofNat 32 (w 2),
    freq := bitsOf (w 3) 32 16, crc := BitVec.ofNat 32 (w 3),
    wrong := bitsOf (w 1) 55 9 != 0 || decide (1 < bitsOf (w 1) 50 2) || decide (1 < bitsOf (w 1) 48 2) ||
      bitsOf (w 3) 48 16 != 0 || w 0 % 4096 != 0 }

/-- The element format of a page. -/
def Desc.fm (d : Desc) : Fm := if d.fmt = 0 then .f16 else .bf16

/-- S[k] of R250: sin(2πk ÷ 1024) × 2^31, rounded to nearest even, for k = 0 to 256. -/
def sineTable : List Nat :=
  [0, 13176712, 26352928, 39528151, 52701887, 65873638, 79042909, 92209205,
      105372028, 118530885, 131685278, 144834714, 157978697, 171116733, 184248325, 197372981]
    ++ [210490206, 223599506, 236700388, 249792358, 262874923, 275947592, 289009871, 302061269,
      315101295, 328129457, 341145265, 354148230, 367137861, 380113669, 393075166, 406021865]
    ++ [418953276, 431868915, 444768294, 457650927, 470516330, 483364019, 496193509, 509004318,
      521795963, 534567963, 547319836, 560051104, 572761285, 585449903, 598116479, 610760536]
    ++ [623381598, 635979190, 648552838, 661102068, 673626408, 686125387, 698598533, 711045377,
      723465451, 735858287, 748223418, 760560380, 772868706, 785147934, 797397602, 809617249]
    ++ [821806413, 833964638, 846091463, 858186435, 870249095, 882278992, 894275671, 906238681,
      918167572, 930061894, 941921200, 953745043, 965532978, 977284562, 988999351, 1000676905]
    ++ [1012316784, 1023918550, 1035481766, 1047005996, 1058490808, 1069935768, 1081340445, 1092704411,
      1104027237, 1115308496, 1126547765, 1137744621, 1148898640, 1160009405, 1171076495, 1182099496]
    ++ [1193077991, 1204011567, 1214899813, 1225742318, 1236538675, 1247288478, 1257991320, 1268646800,
      1279254516, 1289814068, 1300325060, 1310787095, 1321199781, 1331562723, 1341875533, 1352137822]
    ++ [1362349204, 1372509294, 1382617710, 1392674072, 1402678000, 1412629117, 1422527051, 1432371426,
      1442161874, 1451898025, 1461579514, 1471205974, 1480777044, 1490292364, 1499751576, 1509154322]
    ++ [1518500250, 1527789007, 1537020244, 1546193612, 1555308768, 1564365367, 1573363068, 1582301533,
      1591180426, 1599999411, 1608758157, 1617456335, 1626093616, 1634669676, 1643184191, 1651636841]
    ++ [1660027308, 1668355276, 1676620432, 1684822463, 1692961062, 1701035922, 1709046739, 1716993211,
      1724875040, 1732691928, 1740443581, 1748129707, 1755750017, 1763304224, 1770792044, 1778213194]
    ++ [1785567396, 1792854372, 1800073849, 1807225553, 1814309216, 1821324572, 1828271356, 1835149306,
      1841958164, 1848697674, 1855367581, 1861967634, 1868497586, 1874957189, 1881346202, 1887664383]
    ++ [1893911494, 1900087301, 1906191570, 1912224073, 1918184581, 1924072871, 1929888720, 1935631910,
      1941302225, 1946899451, 1952423377, 1957873796, 1963250501, 1968553292, 1973781967, 1978936331]
    ++ [1984016189, 1989021350, 1993951625, 1998806829, 2003586779, 2008291295, 2012920201, 2017473321,
      2021950484, 2026351522, 2030676269, 2034924562, 2039096241, 2043191150, 2047209133, 2051150040]
    ++ [2055013723, 2058800036, 2062508835, 2066139983, 2069693342, 2073168777, 2076566160, 2079885360,
      2083126254, 2086288720, 2089372638, 2092377892, 2095304370, 2098151960, 2100920556, 2103610054]
    ++ [2106220352, 2108751352, 2111202959, 2113575080, 2115867626, 2118080511, 2120213651, 2122266967,
      2124240380, 2126133817, 2127947206, 2129680480, 2131333572, 2132906420, 2134398966, 2135811153]
    ++ [2137142927, 2138394240, 2139565043, 2140655293, 2141664948, 2142593971, 2143442326, 2144209982,
      2144896910, 2145503083, 2146028480, 2146473080, 2146836866, 2147119825, 2147321946, 2147443222]
    ++ [2147483648]

/-- P of R250: 2π × 2^32, rounded to nearest even. -/
def turnP : Nat := 26986075409

/-- Clamped to the range 0 to 2^31 (R250 step 5). -/
def clamp31 (x : Int) : Int := max 0 (min x (2 ^ 31))

/-- c and s of a phase, scaled by 2^31 (R250). -/
def cosSin (th : Nat) : Int × Int :=
  let q := bitsOf th 30 2
  let i := bitsOf th 22 8
  let sn : Int := (sineTable.getD i 0 : Nat)
  let cs : Int := (sineTable.getD (256 - i) 0 : Nat)
  let dd : Int := (bitsOf th 0 22 * turnP / 2 ^ 24 : Nat)
  let e2 := (dd * dd) / 2 ^ 41
  let e3 := (e2 * dd) / (3 * 2 ^ 40)
  let s := clamp31 (sn + (cs * (dd - e3) - sn * e2) / 2 ^ 40)
  let c := clamp31 (cs - (sn * (dd - e3) + cs * e2) / 2 ^ 40)
  match q with
  | 0 => (c, s)
  | 1 => (-s, c)
  | 2 => (-c, -s)
  | _ => (s, -c)

/-- A signed integer scaled by 2^−31, as a value. -/
def unitVal (x : Int) : FVal := .fin (decide (x < 0)) x.natAbs (-31)

/-- An exact value to f32 and then to a page's format, under policy 0x00, reading no mode (R249). -/
def rotDeliver (f : Fm) (v : FVal) : Nat :=
  let a := (convert .f32 0 0 0 v 0).code
  (convert f 0 0 0 (Fm.f32.decode a) 0).code

/-- Whether a value is finite. -/
def FVal.isFin : FVal → Bool
  | .fin _ _ _ => true
  | _ => false

/-- A key pair rotated by the phase of a position (R249): codes in the page's format. -/
def rotatePair (f : Fm) (omega : Nat) (pos : Nat) (k0 k1 : Nat) : Nat × Nat :=
  let a := f.decode k0
  let b := f.decode k1
  if !(a.isFin && b.isFin) then (f.nan, f.nan)
  else
    let (c, s) := cosSin (pos * omega % 2 ^ 32)
    let y0 := (vAdd 0 (vMul a (unitVal c)).1 (vNeg (vMul b (unitVal s)).1)).1
    let y1 := (vAdd 0 (vMul a (unitVal s)).1 (vMul b (unitVal c)).1).1
    (rotDeliver f y0, rotDeliver f y1)

/-- A word that holds a key pair, rotated (R245, R249). -/
def rotateWord (f : Fm) (omega : Nat) (pos : Nat) (w : Nat) : Nat :=
  let (y0, y1) := rotatePair f omega pos (w % 2 ^ 16) (bitsOf w 16 16)
  y0 + 2 ^ 16 * y1

/-- Position of token j of a page (R245). -/
def Desc.posOf (d : Desc) (j : Nat) : Nat := (d.pos.toNat + j) % 2 ^ 32

/-- The address of word i of a page's frequency table (R247). -/
def State.freqAddr (s : State) (p : Nat) (f i : Nat) : DWord := (s.part p).kvfreq + BitVec.ofNat 64 (256 * f + 4 * i)

/-- Whether a page's CRC matches its stored bytes (R263). -/
def Desc.crcOk (d : Desc) (page : List Byte) : Bool := crc32c page == d.crc

end Sys2Proof.Machine
end

