-- ==== Sys2Proof/Machine/Copies.lean ====
section
/-! DEFINITION. Copy requests (R264 to R269, R273): the record and its checks, `kick`, and the rows of the request engine. -/

namespace Sys2Proof.Machine

/-- A floating source format by its code in a record or a card: 1 f32, 2 f16, 3 bf16 (Table 15-1). -/
def copyFm (n : Nat) : Option Fm :=
  match n with
  | 1 => some .f32
  | 2 => some .f16
  | 3 => some .bf16
  | _ => none

/-- Width of a source element in bits (R265). -/
def Copy.srcW (c : Copy) : Nat :=
  match copyFm c.sfmt with
  | some f => f.width
  | none => if c.plane = 0 then 8 * 2 ^ c.esz else 8

/-- Width of a destination element in bits (R265); a six-bit code takes a byte where no plane is named. -/
def Copy.dstW (c : Copy) : Nat :=
  match c.plane with
  | 1 => 4
  | 2 => 2
  | 3 => 8
  | _ => if c.dfmt = 0 then c.srcW else if sixCode c.dfmt then 8 else codeWidth c.dfmt

/-- Elements of a source row. -/
def Copy.cols (c : Copy) : Nat := c.len * 8 / c.srcW

/-- Bytes of a destination row (R265). -/
def Copy.dstRow (c : Copy) : Nat :=
  if c.tr then c.rows * c.dstW / 8
  else if c.plane = 0 && c.dfmt = 0 then c.len
  else c.cols * c.dstW / 8

/-- Destination rows. -/
def Copy.dstRows (c : Copy) : Nat := if c.tr then c.cols else c.rows

/-- Address of a destination row (R265). -/
def Copy.dstAt (c : Copy) (d : Nat) : DWord := c.dst + BitVec.ofNat 64 (16 * c.dstr * d)

/-- Bytes that a plane of w-bit fields takes for n codes. -/
def planeBytes (w n : Nat) : Nat := ceilDiv (n * w) 8

/-- What the request engine reads for a destination row: addresses and lengths (R265). With ROPE it reads a page instead. -/
def Copy.reads (c : Copy) (d : Nat) : List (DWord × Nat) :=
  let at_ := fun r => c.src + BitVec.ofNat 64 (16 * c.sstr * r)
  if c.plane = 3 then
    let rows := if c.tr then List.range c.rows else [d]
    rows.flatMap (fun r => [(at_ r, planeBytes 4 c.len), (at_ (c.rows + r), planeBytes 2 c.len)])
  else if c.tr then
    (List.range c.rows).map (fun r => (at_ r + BitVec.ofNat 64 (d * (c.srcW / 8)), c.srcW / 8))
  else [(at_ d, c.len)]

/-- A record's fields (Table 15-1). -/
def copyOf (core tm thread : Nat) (recAddr : DWord) (mode : DWord) (clk : Clock) (bs : List Byte) : Copy :=
  let w := fun i => leNat ((bs.drop (8 * i)).take 8)
  let mb := bitsOf (w 3) 4 52
  { id := 0, core := core, tm := tm, thread := thread, recAddr := recAddr, crc := bitsOf (w 0) 63 1 == 1,
    tr := bitsOf (w 0) 62 1 == 1, rope := bitsOf (w 0) 61 1 == 1, plane := bitsOf (w 0) 59 2, esz := bitsOf (w 0) 56 3,
    src := sext56 (bitsOf (w 0) 0 56), dst := sext56 (bitsOf (w 1) 0 56), policy := BitVec.ofNat 8 (bitsOf (w 1) 56 8),
    dstr := bitsOf (w 2) 48 16, sstr := bitsOf (w 2) 32 16, rows := bitsOf (w 2) 20 12, len := bitsOf (w 2) 0 20,
    dfmt := BitVec.ofNat 8 (bitsOf (w 3) 56 8), mb := if mb = 0 then none else some (sext56 (mb * 16)),
    sfmt := bitsOf (w 3) 0 4, mode := mode, row := 0, sum := 0xFFFFFFFF, snap := [], lines := [], clk := clk }

/-- Misaligned element addresses (R265, check 1); with ROPE the source is a descriptor (R246). -/
def Copy.misaligned (c : Copy) : Bool :=
  c.src.toNat % (if c.rope then 32 else if c.plane = 3 then 1 else c.srcW / 8) != 0 || c.dst.toNat % (max 1 (c.dstW / 8)) != 0

/-- A conversion's formats: a source format, and a destination other than e8m0 and b1 (R265). -/
def Copy.badFormat (c : Copy) : Bool :=
  decide (3 < c.sfmt) || (c.dfmt != 0 && (!narrowLegal c.dfmt || c.dfmt == 0x25 || c.dfmt == 0x35 || c.sfmt == 0))

/-- Fields of a ROPE record (R265). -/
def Copy.badRope (c : Copy) : Bool :=
  c.rope && (c.rows != 1 || c.sstr != 0 || c.sfmt != 0 || c.plane != 0 || c.tr || c.esz != 2 || c.len % 4 != 0 || decide (4096 < c.len))

/-- A field outside Table 15-1 or a reserved combination (R265, check 2). -/
def Copy.badField (c : Copy) : Bool :=
  decide (3 < c.esz) || (decide (c.esz ≠ 0) && (c.sfmt != 0 || c.plane != 0)) || c.rows == 0 || c.len == 0 || c.badFormat ||
    c.badRope || (decide (c.plane = 1 ∨ c.plane = 2) && (decide (c.sfmt ≠ 0) != sixCode c.dfmt)) || (c.plane == 3 && c.sfmt != 0) ||
    (c.tr && !(c.dstW == 8 || c.dstW == 16 || c.dstW == 32 || c.dstW == 64))

/-- A destination row that is not whole, or a stride below it (R265, check 3). -/
def Copy.badRow (c : Copy) : Bool :=
  let whole := c.plane == 0 && c.dfmt == 0 && !c.tr
  (!whole && (c.len * 8 % c.srcW != 0 || (!c.tr && c.cols * c.dstW % 8 != 0))) || (decide (1 < c.rows) && decide (16 * c.dstr < c.dstRow))

/-- Every range of bytes that a request names: source, or with ROPE the descriptor and, where it is known, the page; destination; and mb
object. -/
def Copy.ranges (c : Copy) (page : Option DWord) : List (DWord × Nat) :=
  (List.range c.dstRows).flatMap (fun d => (c.dstAt d, c.dstRow) ::
      (if c.rope then (c.src, 32) :: page.toList.map (fun a => (a, c.len)) else c.reads d)) ++
    c.mb.toList.map (fun a => (a, 16))

/-- Whether a range touches an engine-owned tile other than the one that holds the record (R265, check 4). -/
def State.rangeOwned (s : State) (tm recTile : Nat) (e : DWord × Nat) : Bool :=
  (s.linesOf tm e.1 e.2).any (fun l => (s.team l.1).owner.getLsbD (l.2 / 128) && !(l.1 == tm && l.2 / 128 == recTile))

/-- The page descriptor of a ROPE request as it stands, after the merges owed to the read (R126, R246). -/
def State.ropeDesc (s : State) (c : Copy) : Option Desc :=
  if c.rope then (s.resolve c.tm c.src).map (fun r => descOf ((s.mergeLines (r.loc.words 32)).readMs r.loc 32)) else none

/-- The first check that a record fails (R265). A ROPE record's descriptor is read too (R246). -/
def State.copyCheck (s : State) (c : Copy) : Option Cause :=
  let desc := s.ropeDesc c
  if c.misaligned then some .align
  else if c.badField || desc.any (fun d => d.wrong || d.kind != 0) then some .badOperand
  else if c.badRow then some .badOperand
  else if (c.ranges (desc.map (·.page))).any (s.rangeOwned c.tm ((c.recAddr - localWin).toNat / 16384)) then some .owner
  else none

/-- An address as far as the scratchpad windows name one place twice. -/
def State.sameSpace (s : State) (tm : Nat) (va : DWord) : Nat × Nat :=
  if isWindow va then (match s.windowLoc tm va with
    | some (.scratch t off) => (t + 1, off)
    | _ => (0, va.toNat))
  else (0, va.toNat)

/-- Whether a request's source and destination overlap (R269). -/
def State.overlaps (s : State) (c : Copy) : Bool :=
  let (x, a) := s.sameSpace c.tm c.src
  let (y, b) := s.sameSpace c.tm c.dst
  let la := 16 * c.sstr * (if c.plane = 3 then 2 * c.rows else c.rows - 1) + c.len
  let lb := 16 * c.dstr * (c.dstRows - 1) + c.dstRow
  !c.rope && x == y && decide (a < b + lb) && decide (b < a + la)

/-- The bytes of some ranges as they stand, by location. -/
def State.snapOf (s : State) (tm : Nat) (l : List (DWord × Nat)) : KMap Byte :=
  (l.flatMap (fun e => pieces e.1 e.2)).foldl (fun m e => match s.resolve tm e.1 with
    | some r => (List.range e.2).foldl (fun m i => kput m (r.loc.plus i).key (s.readM (r.loc.plus i))) m
    | none => m) []

/-- The scratchpad lines that destination rows from d on touch. -/
def State.dstLines (s : State) (c : Copy) (d : Nat) : List (Nat × Nat) :=
  (List.range (c.dstRows - d)).flatMap (fun i => s.linesOf c.tm (c.dstAt (d + i)) c.dstRow)

/-- The presence bits of lines are cleared (R124). -/
def State.clearLines (s : State) (l : List (Nat × Nat)) : State :=
  l.foldl (fun s e => s.modTeam e.1 (fun t => { t with absent := insertNat e.2 t.absent })) s

/-- The presence bits of lines are set, by a write that knew a clock (R124). -/
def State.setLines (s : State) (l : List (Nat × Nat)) (clk : Clock) : State :=
  l.foldl (fun s e => s.modTeam e.1 (fun t =>
    { t with absent := t.absent.filter (· != e.2), lineClk := kput t.lineClk e.2 (clkJoin (kgetD t.lineClk e.2 []) clk) })) s

/-- A request is accepted: it takes its place in the order, and its destination lines become absent (R267). -/
def State.accept (s : State) (c : Copy) : State :=
  let lines := distinct (s.dstLines c 0)
  let snap := if s.overlaps c then s.snapOf c.tm ((List.range c.dstRows).flatMap c.reads) else []
  { s with copies := s.copies ++ [{ c with id := s.nextId, lines := lines, snap := snap }], nextId := s.nextId + 1 }.clearLines lines

/-- Whether an address lies in the local window (Table 5-1). -/
def inLocal (va : DWord) : Bool := decide ((va - localWin).toNat < 2 ^ 20)

/-- The checks of a command block in the local window: the window, alignment, bounds, absent lines and races; its own tile may be
engine-owned where `own` says so. -/
def State.blockCheck (s : State) (k : Nat) (va : DWord) (al n : Nat) (own : Bool) : Try Res :=
  if !inLocal va then .trap .badOperand 0
  else if va.toNat % al ≠ 0 then .trap .align va
  else match s.resolve (keyTm k) va, s.resolve (keyTm k) (va + BitVec.ofNat 64 (n - 1)) with
    | some r, some _ =>
      let lines := s.linesOf (keyTm k) va n
      if !own && lines.any (fun l => (s.team l.1).owner.getLsbD (l.2 / 128)) then .trap .owner va
      else match lines.find? (fun l => (s.team l.1).absent.contains l.2) with
        | some l => .park (.line l.1 l.2)
        | none => tryThen (s.raceCheck k r va n false false) (fun _ => .ok r)
    | _, _ => .trap .xlate va

/-- Reading and checking one record of a `kick` (R265, R266). -/
def State.recordTry (s : State) (k : Nat) (va : DWord) : Try Copy :=
  tryThen (s.blockCheck k va 32 32 true) fun r =>
    let t := s.thr k
    let c := copyOf (s.coreOf (keyTm k)) (keyTm k) k va t.mode (s.whoAt k r.loc 32).clk (s.readMs r.loc 32)
    if s.corrupt (r.loc.words 32) then .trap .integrity va
    else match s.copyCheck c with
      | some x => .trap x va
      | none => .ok c

/-- Reading and checking n records (R266). -/
def State.recordsTry (s : State) (k : Nat) (va : DWord) (n : Nat) : Try (List Copy) :=
  match n with
  | 0 => .ok []
  | n + 1 => tryThen (s.recordTry k va) fun c => tryThen (s.recordsTry k (va + 32) n) fun cs => .ok (c :: cs)

/-- What one thread of a `kick` submits: its records, all checked (R266, R267). -/
def kickTry (d : BitVec 7) (a b : Src) (s : State) (k : Nat) : Try (List Copy) :=
  let n := ((s.thr k).getX d.toNat).toNat
  tryThen (s.soundOps k [a, b, .reg d]) fun _ =>
  if n = 0 ∨ 64 < n then .trap .badOperand 0
  else if !(s.thr k).reached 0 then .park (.reach 0)
  else s.lateLine k (s.recordsTry k (s.addr k a b) n)

/-- KICK: the request engine reads and checks every record and accepts them all or none (R266, R267). -/
def execKick (p : Pfx) (d : BitVec 7) (a b : Src) (s : State) : Out :=
  withIssue .aOnly false p (fun _ _ => addrOk a b && xOk d) s fun c act =>
    let rs := act.map (fun t => (t, kickTry d a b s (c.key t)))
    s.settle c act rs (
      let s1 := rs.foldl (fun s e => match e.2 with
        | .ok l => l.foldl (fun s x => (match s.resolve c.tm x.recAddr with
            | some r => s.recordThr (c.key e.1) r 32 false false none
            | none => s).accept { x with clk := (s.thr (c.key e.1)).clk }) s
        | _ => s) s
      .next (s1.retire c))

/-- A request's engine as the performer of an access (Table 6-9). -/
def State.whoCopy (s : State) (c : Copy) : Who :=
  { tm := c.tm, agent := copyAgent c.id, clk := c.clk, source := s.srcCore c.core, kind := 1, thread := 0 }

/-- A source byte of an overlapping request: as it stands, or as it stood at acceptance (R269, log 25). -/
def State.snapByte (s : State) (c : Copy) (l : Loc) (b : Byte) : Byte :=
  match kget c.snap l.key with
  | some o => if o = b || s.choose (2 ^ 85 + l.key) 2 = 0 then b else o
  | none => b

/-- Reads ranges for a request, with the choice that an overlap leaves. -/
def State.copyTake (s : State) (c : Copy) (w : Who) (l : List (Res × Nat)) : List Byte × State :=
  let (bs, s1) := s.unitTake w l false
  let locs := l.flatMap (fun e => (List.range e.2).map (fun i => e.1.loc.plus i))
  ((locs.zip bs).map (fun e => s.snapByte c e.1 e.2), s1)

/-- Codes of w bits from bytes, element 0 lowest. -/
def codesOf (w n : Nat) (bs : List Byte) : List Nat :=
  (List.range n).map (fun i => bitsOf (leNat ((bs.drop (i * w / 8)).take (w / 8 + 1))) (i * w % 8) w)

/-- Codes of w bits as bytes. -/
def packCodes (w : Nat) (l : List Nat) : List Byte :=
  if w % 8 = 0 then l.flatMap (leBytes (w / 8))
  else (List.range (ceilDiv (l.length * w) 8)).map (fun i =>
    BitVec.ofNat 8 (joinElems w ((l.drop (i * (8 / w))).take (8 / w))))

/-- An element from one floating format into a narrow code (R165), rounded to nearest even. -/
def convCode (f : Fm) (fmt pol : Byte) (mode : DWord) (x : Nat) : Conv :=
  match narrowFm fmt with
  | some g => convert g 0 mode pol (f.input mode x) 0
  | none => convertInt ⟨fmt == 0x33, 8⟩ 0 pol (f.input mode x) 0

/-- Elements of a row converted: none where the policy of one is a fault (R165). -/
def convCodes (f : Fm) (fmt pol : Byte) (mode : DWord) (l : List Nat) : Option (List Nat × BitVec 5) :=
  let cs := l.map (convCode f fmt pol mode)
  if cs.any (·.fault) then none else some (cs.map (·.code), cs.foldl (fun x y => x ||| y.flags) 0)

/-- The codes of a destination row from the bytes read for it (R265). -/
def Copy.elems (c : Copy) (d : Nat) (bs : List Byte) : List Nat :=
  if c.plane = 3 then
    let n4 := planeBytes 4 c.len
    let n2 := planeBytes 2 c.len
    let row := fun (x : List Byte) => ((codesOf 4 c.len x).zip (codesOf 2 c.len (x.drop n4))).map (fun e => e.1 * 4 + e.2)
    if c.tr then (List.range c.rows).map (fun r => (row ((bs.drop (r * (n4 + n2))).take (n4 + n2))).getD d 0) else row bs
  else codesOf c.srcW (if c.tr then c.rows else c.cols) bs

/-- The bytes of a destination row, with the flags of its conversions; none where a policy faults. -/
def Copy.outRow (c : Copy) (d : Nat) (bs : List Byte) : Option (List Byte × BitVec 5) :=
  if c.plane = 0 && c.dfmt = 0 && !c.tr then some (bs, 0)
  else
    let es := c.elems d bs
    let conv := match copyFm c.sfmt with
      | some f => if c.dfmt = 0 then some (es, 0) else convCodes f c.dfmt c.policy c.mode es
      | none => some (es, 0)
    conv.map (fun e => (match c.plane with
      | 1 => packCodes 4 (e.1.map (fun x => x % 64 / 4))
      | 2 => packCodes 2 (e.1.map (fun x => x % 4))
      | _ => packCodes c.dstW e.1, e.2))

/-- The scratchpad lines that a request reads for its row: with ROPE those of the descriptor and of its page (R267). -/
def State.rowLines (s : State) (c : Copy) : List (Nat × Nat) :=
  let l := if c.rope then (c.src, 32) :: (s.ropeDesc c).toList.map (fun d => (d.page, c.len)) else c.reads c.row
  l.flatMap (fun e => s.linesOf c.tm e.1 e.2)

/-- Whether a request has to wait: an earlier one of its core has not started, or still holds a line absent that it reads (R267). -/
def State.rowWaits (s : State) (c : Copy) : Bool :=
  let ls := s.rowLines c
  s.copies.any (fun e => decide (e.id < c.id) &&
    ((e.core == c.core && e.row == 0 && c.row == 0) || ls.any (fun l => e.lines.contains l)))

/-- Words of a key page rotated for a ROPE request (R249, R265): needs the descriptor, the page and its frequency table. -/
def State.ropeRow (s : State) (c : Copy) (w : Who) : Except Bad (List Byte × State) :=
  match s.unitRead w c.src 32 true with
  | .error e => .error e
  | .ok (db, s1) =>
    let d := descOf db
    if d.wrong || d.kind != 0 then .error (badAt .badOperand c.src)
    else if d.quar then .error (badAt .kvPageQuarantined c.src)
    else match s1.unitRead w d.page c.len false with
      | .error e => .error e
      | .ok (bs, s2) =>
        match s2.unitRead w (s.freqAddr (s.partOf c.tm) d.freq 0) (4 * min 64 (c.len / 4)) false with
        | .error e => .error e
        | .ok (fs, s3) =>
          let out := (List.range (c.len / 4)).flatMap (fun i =>
            leBytes 4 (rotateWord d.fm (leNat ((fs.drop (4 * (i % 64))).take 4)) (d.posOf (i / 64)) (leNat ((bs.drop (4 * i)).take 4))))
          .ok (out, s3)

/-- The places of the bytes of a request's destination row, in order. -/
def State.rowKeys (s : State) (c : Copy) : List Nat :=
  (pieces (c.dstAt c.row) c.dstRow).flatMap (fun e => match s.resolve c.tm e.1 with
    | some r => (List.range e.2).map (fun i => (r.loc.plus i).key)
    | none => List.replicate e.2 0)

/-- Source bytes of a row of which some are taken as the row itself has written them (R269, log 25). -/
def State.mixRow (s : State) (keys : List Nat) (src : List (Loc × Byte)) (out : List Byte) : List Byte :=
  src.map (fun e => if s.choose (2 ^ 86 + e.1.key) 2 = 1 then (match keys.findIdx? (· == e.1.key) with
    | some j => out.getD j e.2
    | none => e.2) else e.2)

/-- A row whose source bytes may be bytes that the row wrote earlier: each such byte is the one that is in the end written there. None
where the bytes chosen would depend on themselves. -/
def State.overlapRow (s : State) (c : Copy) (n : Nat) (keys : List Nat) (src : List (Loc × Byte)) (x : List Byte × BitVec 5) :
    Option (List Byte × BitVec 5) :=
  match n with
  | 0 => none
  | n + 1 => match c.outRow c.row (s.mixRow keys src x.1) with
    | none => none
    | some y => if y = x then some y else s.overlapRow c n keys src y

/-- What a request reads for its row, as the bytes of the destination row with their flags. -/
def State.rowBytes (s : State) (c : Copy) (w : Who) : Except Bad ((List Byte × BitVec 5) × State) :=
  if c.rope then match s.ropeRow c w with
    | .error e => .error e
    | .ok (bs, s1) => .ok ((bs, 0), s1)
  else match s.unitResAll w ((c.reads c.row).flatMap (fun e => pieces e.1 e.2)) false false with
    | .error e => .error e
    | .ok l =>
      let (bs, s1) := s.copyTake c w l
      match c.outRow c.row bs with
      | none => .error (badAt .cvtPolicy c.recAddr)
      | some x =>
        if c.snap.isEmpty then .ok (x, s1)
        else
          let locs := l.flatMap (fun e => (List.range e.2).map (fun i => e.1.loc.plus i))
          let keys := s.rowKeys c
          .ok ((s.overlapRow c (keys.length + 2) keys (locs.zip bs) x).getD x, s1)

/-- A request leaves the engine's order. -/
def State.dropCopy (s : State) (id : Nat) : State := { s with copies := s.copies.filter (fun e => e.id != id) }

/-- Changes a request. -/
def State.modCopy (s : State) (id : Nat) (f : Copy → Copy) : State :=
  { s with copies := s.copies.map (fun e => if e.id = id then f e else e) }

/-- A request stops at a row: its cause is held for the issuer, with the address of the descriptor where that, its page or its
frequencies fail, and of the record otherwise (R261, R268, log 59). -/
def State.failCopy (s : State) (c : Copy) (desc : Bool) (b : Bad) : State :=
  let mb := c.mb.bind (fun a => (s.resolve c.tm a).map (·.loc))
  ((s.badRecords c.tm (s.srcCore c.core) b).owe c.thread
    { id := c.id, cause := b.cause, faddr := if desc then c.src else c.recAddr, mb := mb, mbVa := c.mb, tile := none, lines := c.lines,
      send := false, race := b.race }).dropCopy c.id

/-- The checks of what a row writes: the destination, the mb object, and with the last row the record's checksum word. -/
def State.rowChecks (s : State) (c : Copy) (w : Who) (n : Nat) (last : Bool) :
    Except Bad (List (Res × Nat) × Option Res × List (Res × Nat)) :=
  match s.unitResAll w (pieces (c.dstAt c.row) n) true false with
  | .error e => .error e
  | .ok l =>
    match (if last && c.crc then s.unitResAll w [(c.recAddr + 16, 4)] true false else .ok []) with
    | .error e => .error e
    | .ok x => match c.mb with
      | none => .ok (l, none, x)
      | some a => match s.mbCheck w a with
        | .error e => .error e
        | .ok r => .ok (l, some r, x)

/-- A destination row is written: presence bits, flags, the checksum with the last row, and the count (R265, R267, R273). -/
def State.writeRow (s : State) (c : Copy) (w : Who) (bs : List Byte) (fl : BitVec 5) (l : List (Res × Nat)) (mb : Option Res)
    (x : List (Res × Nat)) : State :=
  let left := s.dstLines c (c.row + 1)
  let sum := if c.crc then bs.foldl (fun r b => crcBits 8 (r ^^^ b.toNat)) c.sum else c.sum
  let w' := { w with clk := w.tick }
  let s1 := (s.unitPut w l bs false).setLines (c.lines.filter (fun e => !left.contains e)) w'.clk
  let s2 := s1.modThr c.thread (fun t => t.orFlags fl)
  let s3 := s2.unitPut w x (leBytes 4 (sum ^^^ 0xFFFFFFFF)) false
  let s4 := match mb with
    | some r => s3.mbCount w' r bs.length
    | none => s3
  if c.row + 1 < c.dstRows then
    s4.modCopy c.id (fun e => { e with row := e.row + 1, sum := sum, lines := e.lines.filter (fun y => left.contains y), clk := w'.tick })
  else s4.dropCopy c.id

/-- COPY_ROW: the request engine writes the next destination row of a request, or the request stops there (R267, R268). -/
def execCopyRow (id : Nat) (s : State) : Out :=
  if !s.power then .fault .poweredOff
  else match s.copies.find? (fun e => e.id == id) with
  | none => .refused (.notEnabled "COPY_ROW")
  | some c =>
    if s.rowWaits c then .refused (.notEnabled "COPY_ROW")
    else
      let clk := (s.rowLines c).foldl (fun k l => clkJoin k (kgetD (s.team l.1).lineClk l.2 [])) c.clk
      let w := s.whoCopy { c with clk := clk }
      match s.rowBytes c w with
      | .error e => .next (s.failCopy c c.rope e)
      | .ok ((bs, fl), s1) => match s1.rowChecks c w bs.length (c.row + 1 == c.dstRows) with
        | .error e => .next (s.failCopy c false e)
        | .ok (l, mb, x) => .next (s1.writeRow c w bs fl l mb x)

end Sys2Proof.Machine
end

