-- ==== Sys2Proof/Machine/Barriers.lean ====
section
/-! DEFINITION. The mb instructions (M 33; R271, R272, R368) and transform cards (R274, R275). -/

namespace Sys2Proof.Machine

/-- A step of a thread on an mb object (R271): `f` gives the new contents, `tell` says whether it is an arrival whose accesses
the phase hands on (R272). -/
def State.mbStep (s : State) (k : Nat) (r : Res) (tell : Bool) (f : Mb → Mb) : State :=
  let m := mbOf ((s.mergeLines (r.loc.words 16)).readMs r.loc 16)
  let (_, s1) := s.atomStep k r 16 ordPlain 0 (fun bs => some (f (mbOf bs)).bytes)
  s1.mbEdge r.loc s.rel (if tell then (s1.thr k).clk else []) ((f m).phase != m.phase)

/-- The checks of an mb instruction that do not depend on the object (R368, R405). -/
def State.mbTry (s : State) (k : Nat) (a b : Src) (write : Bool) : Try Res :=
  s.lateLine k (s.atomCheck k (s.addr k a b) 16 write ordPlain 0)

/-- The checks of one thread of an mb instruction before any step (R405): the registers that it reads, what comes `first`, then those of
the object. -/
def mbPre (xs : List Nat) (first : State → Nat → DWord → Try Unit) (a b : Src) (write : Bool) (pre : State → Nat → Try Unit) (s : State)
    (k : Nat) : Try Unit :=
  tryThen (s.soundOps k [a, b]) fun _ => tryThen ((s.thr k).soundRegs xs) fun _ => tryThen (first s k (s.addr k a b)) fun _ =>
    tryThen (s.mbTry k a b write) (fun _ => pre s k)

/-- The step of one thread of an mb instruction at the object's home (R271). -/
def mbStepTry (a b : Src) (write : Bool) (f : State → Nat → Res → Try State) (s : State) (k : Nat) : Try State :=
  tryThen (s.mbTry k a b write) (fun r => f s k r)

/-- An mb instruction: its step at the object's home, thread by thread (R271, R405). -/
def mbOp (p : Pfx) (d : Option (BitVec 7)) (a b : Src) (write : Bool) (first : State → Nat → DWord → Try Unit) (pre : State → Nat → Try Unit)
    (f : State → Nat → Res → Try State) (s : State) : Out :=
  withIssue .aOnly false p (fun _ _ => addrOk a b && d.all xOk) s fun c act =>
    s.runSteps c act p id (mbPre (d.toList.map BitVec.toNat) first a b write pre s) (mbStepTry a b write f)

/-- x(D) of a thread as a number. -/
def State.xArg (s : State) (k : Nat) (d : BitVec 7) : Nat := ((s.thr k).getX d.toNat).toNat

/-- TCOUNT of an `mbinit` is 1 to 65,535 (R271, R368). -/
def mbinitPre (d : BitVec 7) (s : State) (k : Nat) : Try Unit :=
  if s.xArg k d = 0 ∨ 65535 < s.xArg k d then .trap .badOperand 0 else .ok ()

/-- The step of `mbinit` (R271). -/
def mbinitStep (d : BitVec 7) (s : State) (k : Nat) (r : Res) : Try State :=
  let s1 := s.mbStep k r false (fun _ => { exp := 0, rem := 0, phase := 0, tarr := 0, tcount := s.xArg k d })
  .ok { s1 with rel := kdel (kdel s1.rel (mbPast r.loc)) (mbNow r.loc) }

/-- The step of `mbexp` (R271, R368). -/
def mbexpStep (d : BitVec 7) (s : State) (k : Nat) (r : Res) : Try State :=
  let n := BitVec.ofNat 32 (s.xArg k d)
  .ok (s.mbStep k r false (fun m => ({ m with exp := m.exp + n, rem := m.rem + n }).evaluate))

/-- The step of `mbarr` (R271, R368). -/
def mbarrStep (s : State) (k : Nat) (r : Res) : Try State :=
  let m := mbOf ((s.mergeLines (r.loc.words 16)).readMs r.loc 16)
  if m.tarr = m.tcount then .trap .badOperand 0
  else .ok (s.mbStep k r true (fun m => ({ m with tarr := m.tarr + 1 }).evaluate))

/-- Where the mb object of a deferred cause lies, if its address leads anywhere. -/
def State.mbAt (s : State) (k : Nat) (d : Deferred) : Option Loc :=
  d.mb.or (d.mbVa.bind (fun v => (s.resolve (keyTm k) v).map (·.loc)))

/-- A deferred cause that names the object is delivered at `mbwait` before the checks of the object, which may itself be what failed
(R261, R268, R286). -/
def mbwaitFirst (s : State) (k : Nat) (va : DWord) : Try Unit :=
  let at_ := (s.resolve (keyTm k) va).map (·.loc)
  s.orLate k (fun d => d.mbVa == some va || (at_.isSome && s.mbAt k d == at_)) (.ok ())

/-- The step of `mbwait` (R271, R272, R368). -/
def mbwaitStep (d : BitVec 7) (s : State) (k : Nat) (r : Res) : Try State :=
  let m := mbOf ((s.mergeLines (r.loc.words 16)).readMs r.loc 16)
  if m.phase = BitVec.ofNat 32 (s.xArg k d) then .park (.mb r.loc m.phase)
  else
    let past := s.mbPastClk r.loc
    let (_, s1) := s.atomStep k r 16 ordPlain 0 (fun _ => none)
    .ok (s1.modThr k (fun t => { t with clk := clkJoin t.clk past }.setX d.toNat (m.phase.setWidth 64)))

/-- Nothing further is checked. -/
def mbFine (_ : State) (_ : Nat) : Try Unit := .ok ()

/-- Nothing comes before the checks of the object. -/
def mbNone (_ : State) (_ : Nat) (_ : DWord) : Try Unit := .ok ()

/-- MBINIT: a fresh object with TCOUNT from x(D) (R271). -/
def execMbinit (p : Pfx) (d : BitVec 7) (a b : Src) (s : State) : Out :=
  mbOp p (some d) a b true mbNone (mbinitPre d) (mbinitStep d) s

/-- MBEXP: x(D)[31:0] more bytes are expected (R271, R368). -/
def execMbexp (p : Pfx) (d : BitVec 7) (a b : Src) (s : State) : Out :=
  mbOp p (some d) a b true mbNone mbFine (mbexpStep d) s

/-- MBARR: a thread's arrival; refused where TARR already equals TCOUNT (R271, R368). -/
def execMbarr (p : Pfx) (a b : Src) (s : State) : Out :=
  mbOp p none a b true mbNone mbFine mbarrStep s

/-- MBWAIT: a deferred cause that names the object is delivered first; then it parks until PHASE differs from x(D)[31:0], and
x(D) receives PHASE (R271, R272, R368). -/
def execMbwait (p : Pfx) (d : BitVec 7) (a b : Src) (s : State) : Out :=
  mbOp p (some d) a b false mbwaitFirst mbFine (mbwaitStep d) s

/-- A transform card (Table 15-4). -/
structure Card where
  dfmt : Byte
  policy : Byte
  doff : BitVec 8
  resv : Nat
  crc : Bool
  op : Nat
  sfmt : Nat
  esz : Nat
deriving DecidableEq, Repr

/-- A card from its 64 bits. -/
def cardOf (w : Nat) : Card :=
  { dfmt := BitVec.ofNat 8 (bitsOf w 56 8), policy := BitVec.ofNat 8 (bitsOf w 48 8), doff := BitVec.ofNat 8 (bitsOf w 40 8),
    resv := bitsOf w 8 32, crc := bitsOf w 7 1 == 1, op := bitsOf w 4 3, sfmt := bitsOf w 2 2, esz := bitsOf w 0 2 }

/-- The fields of a card are legal (R274). -/
def Card.ok (c : Card) : Bool :=
  c.resv == 0 && decide (c.op ≤ 4) && decide (c.sfmt ≤ 2) && (c.op == 1 || c.esz == 0) &&
    (c.op != 2 || (narrowLegal c.dfmt && c.dfmt != 0x35))

/-- The bytes that a card writes, and its flags; none where a policy faults (R274). -/
def Card.apply (c : Card) (mode : DWord) (bs : List Byte) : Option (List Byte × BitVec 5) :=
  match c.op with
  | 0 => some (bs, 0)
  | 1 =>
    let w := 2 ^ c.esz
    let cols := 16 / w
    some ((List.range cols).flatMap (fun j => (List.range 8).flatMap (fun r => (bs.drop ((r * cols + j) * w)).take w)), 0)
  | 2 => match copyFm (c.sfmt + 1) with
    | some f => (convCodes f c.dfmt c.policy mode (codesOf f.width (1024 / f.width) bs)).map
        (fun e => (packCodes (if sixCode c.dfmt then 8 else codeWidth c.dfmt) e.1, e.2))
    | none => none
  | 3 => let cs := bs.map (fun b => b.toNat % 64)
    some (packCodes 4 (cs.map (· / 4)) ++ packCodes 2 (cs.map (· % 4)), 0)
  | _ => some (((codesOf 4 128 (bs.take 64)).zip (codesOf 2 128 (bs.drop 64))).map (fun e => BitVec.ofNat 8 (e.1 * 4 + e.2)), 0)

/-- Bytes that a card writes. -/
def Card.size (c : Card) : Nat :=
  match c.op with
  | 2 => match copyFm (c.sfmt + 1) with
    | some f => 1024 / f.width * (if sixCode c.dfmt then 8 else codeWidth c.dfmt) / 8
    | none => 0
  | 3 => 96
  | _ => 128

/-- A plain access of a card to the local window: bounds, OWNER, absent lines, races (R275). -/
def State.cardPlace (s : State) (k : Nat) (va : DWord) (n : Nat) (write : Bool) : Try Res :=
  match s.resolve (keyTm k) va, s.resolve (keyTm k) (va + BitVec.ofNat 64 (n - 1)) with
  | some r, some _ =>
    let lines := s.linesOf (keyTm k) va n
    if lines.any (fun l => (s.team l.1).owner.getLsbD (l.2 / 128)) then .trap .owner va
    else match lines.find? (fun l => (s.team l.1).absent.contains l.2) with
      | some l => .park (.line l.1 l.2)
      | none => tryThen (s.raceCheck k r va n write false) (fun _ =>
          if !write && s.corrupt (r.loc.words n) then .trap .integrity va else .ok r)
  | _, _ => .trap .xlate va

/-- What an `xform` needs before its step: the places of source and destination (R274, R275). -/
def State.cardTry (s : State) (k : Nat) (va : DWord) (c : Card) : Try (Res × Res) :=
  if !inLocal va then .trap .badOperand 0
  else if va.toNat % 128 ≠ 0 then .trap .align va
  else if !c.ok then .trap .badOperand 0
  else tryThen (s.cardPlace k va 128 false) fun r =>
    tryThen (s.cardPlace k (va + (c.doff.signExtend 64) * 2048) c.size true) fun q =>
    tryThen (s.atomReady k ordPlain 0) fun _ => .ok (r, q)

/-- The step of one thread of `xform` (R274, R275). -/
def xformTry (d : BitVec 7) (a b : Src) (s : State) (k : Nat) : Try State :=
  let card := cardOf (s.xArg k d)
  tryThen (s.soundOps k [a, b, .reg d]) fun _ => s.lateLine k (tryThen (s.cardTry k (s.addr k a b) card) fun (r, q) =>
    match card.apply (s.thr k).mode (s.readMs r.loc 128) with
    | none => .trap .cvtPolicy 0
    | some (out, fl) =>
      let s1 := s.recordThr k r 128 false false none
      let s2 := s1.recordThr k q out.length true false none
      let s3 := (s2.writeBytes q.loc out none).markWords (q.loc.words out.length) none
      .ok (s3.modThr k (fun t =>
        let t1 := t.orFlags fl
        if card.crc then t1.setX d.toNat ((crc32c out).setWidth 64) else t1)))

/-- XFORM: the card in x(D) applied to a line of the local scratchpad, in one step of the thread (R274, R275). -/
def execXform (p : Pfx) (d : BitVec 7) (a b : Src) (s : State) : Out :=
  withIssue .aOnly false p (fun _ _ => addrOk a b && xOk d) s fun c act =>
    s.runSeq c act p id (xformTry d a b)

end Sys2Proof.Machine
end

