-- ==== Sys2Proof/Machine/Remote.lean ====
section
/-! DEFINITION. Remote transfers (M 35 and the steps of the Lynx ports; R277 to R287), and the flights of `ldq` and `nget`:
translation, arrival and the delivery of a pending fault (R110, R111, R212, R213, R365). -/

namespace Sys2Proof.Machine

/-- Fields of a peer operand: index and window; the other bits must be 0 (R278). -/
def peerOk (v : DWord) : Bool := v.extractLsb' 20 44 == 0

/-- The window that a peer operand names in the partition's peer table. -/
def State.peerWindow (s : State) (p : Nat) (v : DWord) : Option (Peer × Window) :=
  match kget (s.part p).cfg.peers (v.extractLsb' 0 16).toNat with
  | none => none
  | some x => (kget x.windows (v.extractLsb' 16 4).toNat).map (fun w => (x, w))

/-- What an `nget` brings: it is refused at once where the table has no window that permits it (R277, R278). -/
def State.ngetCargo (s : State) (p : Nat) (v : DWord) (off : DWord) : Cargo :=
  match s.peerWindow p v with
  | some (x, w) => if x.rud && w.readOk && decide (off.toNat + 4 ≤ w.size) then .remote v off else .fault .remoteRefused off
  | none => .fault .remoteRefused off

/-- What an `nget` names (R278, R279): a peer operand whose other bits are 0, and an offset. -/
def ngetArgs (d : BitVec 7) (a b : Src) : PushArgs :=
  { pre := fun s k => tryThen (s.soundOps k [b]) (fun _ => if peerOk (s.plainA k a) then .ok () else .trap .badOperand 0),
    q := d.toNat, n := 1, align := fun s k => (s.plainA k b).toNat % 4 == 0, va := fun s k => s.plainA k b }

/-- The attempt of one thread of `nget` to learn what it will bring (R278, R279). -/
def ngetLoad (a b : Src) (s : State) (k : Nat) : Try (Cargo × State) :=
  .ok (s.ngetCargo (s.partOf (keyTm k)) (s.plainA k a) (s.plainA k b), s)

/-- NGET_B32: a word of a peer window into a data queue (R278, R279). -/
def execNgetB32 (p : Pfx) (d : BitVec 7) (a b : Src) (s : State) : Out :=
  let bOk := match b with | .reg n => decide (n.toNat < 32) | .imx _ => true | _ => false
  withIssue .aOnly false p (fun s c => a.isS && bOk && decide (d.toNat < 16) && decide (d.toNat < s.nq c.tm)) s fun c act =>
    s.runPush c act (ngetArgs d a b) (ngetLoad a b)

/-- A send record (Table 15-6), without what the step assigns. -/
def sendOf (tm thread : Nat) (recAddr : DWord) (mode : DWord) (clk : Clock) (bs : List Byte) : Send :=
  let w := fun i => leNat ((bs.drop (8 * i)).take 8)
  { id := 0, tm := tm, thread := thread, recAddr := recAddr, src := BitVec.ofNat 64 (w 0), roff := BitVec.ofNat 64 (w 1),
    len := bitsOf (w 2) 32 32, peer := BitVec.ofNat 64 (bitsOf (w 2) 0 32), resid := BitVec.ofNat 64 (w 3),
    rmb := if bitsOf (w 6) 7 1 = 1 then some (BitVec.ofNat 64 (w 4)) else none,
    lmb := if w 5 = 0 then none else some (BitVec.ofNat 64 (w 5)), policy := BitVec.ofNat 8 (bitsOf (w 6) 16 8),
    e5 := bitsOf (w 6) 6 1 == 1, rsr := bitsOf (w 6) 5 1 == 1, rfmt := bitsOf (w 6) 3 2, sf := bitsOf (w 6) 2 1,
    quant := bitsOf (w 6) 0 2, mode := mode, peerIx := bitsOf (w 2) 0 16, port := 0, flow := 0, seq := 0, nrows := 0, started := 0, acked := 0,
    flags := 0, pending := [], sent := [], dead := false, clk := clk }

/-- Reserved fields of a send record (R280). -/
def sendResv (bs : List Byte) : Bool :=
  let w6 := leNat ((bs.drop 48).take 8)
  bitsOf w6 32 32 != 0 || bitsOf w6 24 8 != 0 || bitsOf w6 8 8 != 0

/-- Bytes of a source element. -/
def Send.srcB (x : Send) : Nat := if x.sf = 0 then 4 else 2
/-- Source bytes of a full row (R281): 4,096, or 32 blocks of 32 elements. -/
def Send.rowB (x : Send) : Nat := if x.quant = 0 then Config.rowBytes else 1024 * x.srcB
/-- Source elements of a transfer. -/
def Send.elems (x : Send) : Nat := x.len / x.srcB
/-- Bytes that n quantised elements take at the peer. -/
def Send.outB (x : Send) (n : Nat) : Nat := if x.quant = 1 then n else n / 2

/-- The fields of a send record are legal (R280). -/
def Send.legal (x : Send) : Bool :=
  let unit := if x.quant = 0 then 4 else 32 * x.srcB
  decide (4 ≤ x.len) && x.len % unit == 0 && peerOk x.peer && decide (x.rfmt ≤ 1) && decide (x.quant ≤ 2) &&
    (x.quant != 0 || x.resid == 0)

/-- A flow of the partition to a peer, with its number (R281). -/
def State.flowFor (s : State) (p peer : Nat) : Flow :=
  (kget (s.part p).flows peer).getD { id := s.choose (2 ^ 86 + peer) (2 ^ 24), next := 0, unacked := 0, base := 0, accepted := [] }

/-- A transfer starts: flow, sequence numbers, O[t], and the record's dword of the device (R280, R281). -/
def State.startSend (s : State) (x : Send) (r : Res) : State :=
  let p := s.partOf x.tm
  let f := s.flowFor p x.peerIx
  let n := ceilDiv x.len x.rowB
  let id := s.nextId
  let y := { x with id := id, flow := f.id, seq := f.next, nrows := n, port := 320 + s.choose (2 ^ 87) 12, clk := (s.thr x.thread).clk }
  let s1 : State := { s with sends := s.sends ++ [y], nextId := id + 1 }
  let s2 := s1.modPart p (fun q => { q with flows := kput q.flows x.peerIx { f with next := f.next + BitVec.ofNat 32 n } })
  let s3 := s2.modThr x.thread (fun t => { t with out := t.out ++ [2 * id + 1] })
  (s3.writeBytes (r.loc.plus 56) (leBytes 8 0) none).markWords ((r.loc.plus 56).words 8) none

/-- What one thread of an `nsend` submits: its record, checked, and where it stands (R280); a release waits for every class of its mask
(R135, R281), and the issuer's `sr.mode` is sampled (R160). -/
def nsendTry (p : Pfx) (a b : Src) (s : State) (k : Nat) : Try (Send × Res) :=
  let va := s.addr k a b
  let mask := 2 ||| (if releases p.order then p.obs else 0)
  tryThen (s.soundOps k [a, b]) fun _ =>
  if !(s.thr k).reached mask then .park (.reach mask)
  else s.lateLine k (tryThen (s.blockCheck k va 64 64 false) fun r =>
    let bs := s.readMs r.loc 64
    let x := sendOf (keyTm k) k va (s.thr k).mode [] bs
    if s.corrupt (r.loc.words 64) then .trap .integrity va
    else if sendResv bs || !x.legal then .trap .badOperand 0
    else tryThen (s.raceCheck k { r with loc := r.loc.plus 56 } (va + 56) 8 true false) fun _ => .ok (x, r))

/-- NSEND: reads the send record and starts a transfer to a peer window (R280, R281). -/
def execNsend (p : Pfx) (a b : Src) (s : State) : Out :=
  withIssue .aOnly false p (fun _ _ => addrOk a b) s fun c act =>
    let rs := act.map (fun t => (t, nsendTry p a b s (c.key t)))
    s.settle c act rs (
      let s1 := rs.foldl (fun s e => match e.2 with
        | .ok (x, r) =>
          let s1 := s.recordThr (c.key e.1) r 64 false false none
          (s1.recordThr (c.key e.1) { r with loc := r.loc.plus 56 } 8 true false none).startSend x r
        | _ => s) s
      .next (s1.retire c))

/-- What one thread of an `nfence` waits for or takes (R286, R287). -/
def nfenceTry (s : State) (k : Nat) : Try Lane :=
  s.orLate k (fun d => d.send) (tryThen ((s.thr k).fenceTry ordSc 2) fun _ => .ok (s.lane k))

/-- NFENCE: delivers a failed transfer's cause; else waits until every transfer has been acknowledged, then acts as
`fence.sc.obs(P)` (R286, R287). -/
def execNfence (p : Pfx) (s : State) : Out :=
  withIssue .aOnly false p (fun _ _ => true) s fun c act =>
    s.runLanes c act p id (nfenceTry s)

/-- A transfer's port as the performer of an access. -/
def State.whoSend (s : State) (x : Send) : Who :=
  { tm := x.tm, agent := unitAgent x.id, clk := x.clk, source := x.port, kind := 1, thread := 0 }

/-- Changes a transfer. -/
def State.modSend (s : State) (id : Nat) (f : Send → Send) : State :=
  { s with sends := s.sends.map (fun e => if e.id = id then f e else e) }

/-- A transfer leaves the ports and O[t]. -/
def State.dropSend (s : State) (x : Send) : State :=
  { s with sends := s.sends.filter (fun e => e.id != x.id) }.modThr x.thread (fun t => { t with out := t.out.filter (· != 2 * x.id + 1) })

/-- The cause of a failed transfer is held for the issuer (R286); one that has failed already holds no second cause. -/
def State.oweSend (s : State) (x : Send) (b : Bad) : State :=
  if x.dead then s
  else
    let mb := x.lmb.bind (fun a => (s.resolve x.tm a).map (·.loc))
    (s.badRecords x.tm x.port b).owe x.thread
      { id := x.id, cause := b.cause, faddr := x.recAddr, mb := mb, mbVa := x.lmb, tile := none, lines := [], send := true, race := b.race }

/-- A transfer stops at its oldest row in flight; the rows after that one are not counted (R286). -/
def State.failSend (s : State) (x : Send) (b : Bad) : State := (s.oweSend x b).dropSend x

/-- A transfer stops at a row that does not start; the rows in flight before it are still acknowledged (R283, R286). -/
def State.stopSend (s : State) (x : Send) (b : Bad) : State :=
  if x.acked < x.started then (s.oweSend x b).modSend x.id (fun y => { y with dead := true }) else s.failSend x b

/-- Source format of a transfer. -/
def Send.srcFm (x : Send) : Fm := if x.sf = 0 then .f32 else .bf16
/-- Residual format of a transfer. -/
def Send.resFm (x : Send) : Fm := if x.rfmt = 0 then .f32 else .bf16
/-- Element format code of a transfer (R282). -/
def Send.fmt (x : Send) : Byte := if x.quant = 2 then 0x20 else if x.e5 then 0x24 else 0x23

/-- What quantising elements gives: element codes, new residuals, generator and flags. -/
structure Quant where
  codes : List Nat
  resid : List Nat
  g : DWord
  flags : BitVec 5

/-- A value times 2^n. -/
def FVal.scale (v : FVal) (n : Int) : FVal :=
  match v with
  | .fin neg m e => .fin neg m (e + n)
  | x => x

/-- Elements of a finite block, in ascending order (R282): none where a policy faults. -/
def quantElems (x : Send) (f : Fm) (ex : Int) (ys : List FVal) (q : Quant) : Option Quant :=
  match ys with
  | [] => some q
  | y :: t =>
    let rc := if x.rsr then 5 else 0
    let (g, r) := drawIf rc q.g
    let cv := convert f rc x.mode x.policy (y.scale (-ex)) r
    if cv.fault then none
    else
      let back := (f.decode cv.code).scale ex
      let (d, nv) := vAdd 0 y (vNeg back)
      let (e1, f1) := Fm.fx40.deliverV x.mode 0 d nv 0
      let (e2, f2) := x.resFm.deliverV x.mode 0 (Fm.fx40.input x.mode e1) false 0
      quantElems x f ex t { codes := q.codes ++ [cv.code], resid := q.resid ++ [e2], g := g, flags := q.flags ||| cv.flags ||| f1 ||| f2 }

/-- One block: scale and elements with their residuals (R282), under the mode sampled at the `nsend`, whose FIZ and FRZ apply to each
class (R160, R161, R165). -/
def quantBlock (x : Send) (xs es : List Nat) (g : DWord) : Option (Nat × Quant) :=
  let sums := (xs.zip es).map (fun e =>
    let (v, nv) := vAdd 0 (x.srcFm.input x.mode e.1) (x.resFm.input x.mode e.2)
    Fm.fx40.deliverV x.mode 0 v nv 0)
  let ys := sums.map (fun e => Fm.fx40.input x.mode e.1)
  let fl := sums.foldl (fun f e => f ||| e.2) (0 : BitVec 5)
  if ys.any (fun y => !y.isFin) then
    if (polField x.policy 0 == 3 && ys.any FVal.isNan) || (polField x.policy 1 == 3 && ys.any (fun y => match y with | .inf _ => true | _ => false))
    then none
    else
      let g' := if x.rsr then xs.foldl (fun g _ => (drawG g).1) g else g
      some (0xFF, { codes := xs.map (fun _ => 0), resid := xs.map (fun _ => 0), g := g', flags := fl ||| flNV })
  else
    let ex := scaleOf x.fmt ys
    let f := (narrowFm x.fmt).getD .fp8a
    (quantElems x f ex ys { codes := [], resid := [], g := g, flags := fl }).map (fun q => ((ex + 127).toNat, q))

/-- The blocks of a row: element codes, scales, residuals and flags (R282). -/
def quantRow (x : Send) (n : Nat) (xs es : List Nat) (g : DWord) : Option (List Nat × List Nat × List Nat × BitVec 5) :=
  match n with
  | 0 => some ([], [], [], 0)
  | n + 1 => match quantBlock x (xs.take 32) (es.take 32) g with
    | none => none
    | some (sc, q) => match quantRow x n (xs.drop 32) (es.drop 32) q.g with
      | none => none
      | some (cs, ss, rs, fl) => some (q.codes ++ cs, sc :: ss, q.resid ++ rs, q.flags ||| fl)

/-- Where the bytes of a row stand at the peer: offset and length of its elements, and of its scales (R281). -/
def Send.place (x : Send) (r : Nat) : (DWord × Nat) × (DWord × Nat) :=
  let n := min x.rowB (x.len - r * x.rowB)
  if x.quant = 0 then ((x.roff + BitVec.ofNat 64 (r * x.rowB), n), (0, 0))
  else
    let els := n / x.srcB
    ((x.roff + BitVec.ofNat 64 (x.outB (1024 * r)), x.outB els),
     (x.roff + BitVec.ofNat 64 (x.outB x.elems + 32 * r), els / 32))

/-- Whether the peer's window takes a row (R278). -/
def State.rowRefused (s : State) (x : Send) (r : Nat) : Bool :=
  match s.peerWindow (s.partOf x.tm) x.peer with
  | none => true
  | some (pr, w) =>
    let (a, b) := x.place r
    !pr.rod || !w.writeOk || decide (w.size < a.1.toNat + a.2) || decide (w.size < b.1.toNat + b.2)

/-- Whether the work of a team's ports and engines goes on: it has not been saved (R285). -/
def State.portOn (s : State) (tm : Nat) : Bool := (s.team tm).mode != .saved && (s.team tm).mode != .placed

/-- Whether a transfer has a row to start, and its thread is there. -/
def State.rowDue (s : State) (x : Send) : Bool :=
  !x.dead && decide (x.started < x.nrows) && s.portOn x.tm && !s.savedThr x.thread

/-- The partitions with rows to start on a port, and their shares (R308). -/
def State.portShares (s : State) (port : Nat) : List (Nat × Nat) :=
  (s.parts.filter (fun q => s.sends.any (fun x => s.partOf x.tm == q.1 && x.port == port && s.rowDue x))).map
    (fun q => (q.1, q.2.cfg.share))

/-- The number under which a partition's rows of this round on a port are counted; those without a share use one between them. -/
def creditKey (port p share : Nat) : Nat := 32 * port + (if share = 0 then 31 else p)

/-- Rows that a partition may have in a round on a port: its share, or what of the 64 the waiting ones leave free (R308). -/
def State.quota (s : State) (port share : Nat) : Nat :=
  if share = 0 then 64 - (s.portShares port).foldl (fun n q => n + q.2) 0 else share

/-- Rows that a partition may still start on a port in this round. -/
def State.creditOf (s : State) (port p : Nat) : Nat :=
  let share := (s.part p).cfg.share
  kgetD s.credits (creditKey port p share) (s.quota port share)

/-- Whether a partition's row may go out of a port: it has rows left in this round, or no waiting partition has, and the next round
begins (R308, log 126). -/
def State.shareFree (s : State) (p port : Nat) : Bool :=
  decide (0 < s.quota port (s.part p).cfg.share) &&
    (decide (0 < s.creditOf port p) || (s.portShares port).all (fun q => s.creditOf port q.1 == 0))

/-- A row that starts uses one of its partition's rows of the round. -/
def State.useCredit (s : State) (p port : Nat) : State :=
  let key := creditKey port p (s.part p).cfg.share
  if s.creditOf port p = 0 then
    { s with credits := kput (s.credits.filter (fun e => e.1 / 32 != port)) key (s.quota port (s.part p).cfg.share - 1) }
  else { s with credits := kput s.credits key (s.creditOf port p - 1) }

/-- NSEND_ROW: the Lynx port starts the next row of a transfer (R281, R282). -/
def execNsendRow (id : Nat) (s : State) : Out :=
  if !s.power then .fault .poweredOff
  else match s.sends.find? (fun e => e.id == id) with
  | none => .refused (.notEnabled "NSEND_ROW")
  | some x =>
    let r := x.started
    if !s.rowDue x || !s.shareFree (s.partOf x.tm) x.port then .refused (.notEnabled "NSEND_ROW")
    else if s.rowRefused x r then .next (s.stopSend x (badAt .remoteRefused 0))
    else
      let s := s.useCredit (s.partOf x.tm) x.port
      let w := s.whoSend x
      let n := min x.rowB (x.len - r * x.rowB)
      match s.unitRead w (x.src + BitVec.ofNat 64 (r * x.rowB)) n false with
      | .error e => .next (s.stopSend x e)
      | .ok (bs, s1) =>
        if x.quant = 0 then
          .next (s1.modSend id (fun y => { y with started := r + 1, sent := kput y.sent r bs, clk := w.tick }))
        else
          let els := n / x.srcB
          let rb := if x.rfmt = 0 then 4 else 2
          match s1.unitRead w (x.resid + BitVec.ofNat 64 (r * 1024 * rb)) (els * rb) false with
          | .error e => .next (s.stopSend x e)
          | .ok (es, s2) =>
            let seq := x.seq + BitVec.ofNat 32 r
            let g := (s.part (s.partOf x.tm)).seed ^^^ (BitVec.ofNat 64 x.flow <<< 32) ^^^ seq.setWidth 64
            match quantRow x (els / 32) (codesOf (8 * x.srcB) els bs) (codesOf (8 * rb) els es) g with
            | none => .next (s.stopSend x (badAt .cvtPolicy 0))
            | some (cs, ss, rs, fl) =>
              let out := packCodes (if x.quant = 1 then 8 else 4) cs ++ ss.map (BitVec.ofNat 8)
              .next (s2.modSend id (fun y =>
                { y with started := r + 1, sent := kput y.sent r out, pending := kput y.pending r (rs.flatMap (leBytes rb)),
                         flags := y.flags ||| fl, clk := w.tick }))

/-- The check of a transfer's mb object, if it names one. -/
def State.lmbCheck (s : State) (w : Who) (a : Option DWord) : Except Bad (Option Res) :=
  match a with
  | none => .ok none
  | some a => match s.mbCheck w a with
    | .ok q => .ok (some q)
    | .error e => .error e

/-- ROW_ACK: the residuals of the oldest unacknowledged row are written, its bytes counted on LMB, and ACKED raised (R283). -/
def execRowAck (id : Nat) (s : State) : Out :=
  if !s.power then .fault .poweredOff
  else match s.sends.find? (fun e => e.id == id) with
  | none => .refused (.notEnabled "ROW_ACK")
  | some x =>
    let r := x.acked
    if x.started ≤ r then .refused (.notEnabled "ROW_ACK")
    else
      let w := s.whoSend x
      let es := kgetD x.pending r []
      let rb := if x.rfmt = 0 then 4 else 2
      let rec8 := leBytes 8 ((r + 1) * 2 ^ 32 + x.flags.toNat)
      let n := (kgetD x.sent r []).length
      match s.unitResAll w (pieces (x.resid + BitVec.ofNat 64 (r * 1024 * rb)) es.length) true false,
            s.unitResAll w [(x.recAddr + 56, 8)] true false,
            s.lmbCheck w x.lmb with
      | .ok l, .ok q, .ok mb =>
        let w' := { w with clk := w.tick }
        let s1 := (s.unitPut w l es false).unitPut w q rec8 false
        let s2 := match mb with
          | some m => s1.mbCount w' m n
          | none => s1
        let s3 := s2.modPart (s.partOf x.tm) (fun p => { p with flows := kmod p.flows x.peerIx (fun f => { f with unacked := x.seq + BitVec.ofNat 32 (r + 1) }) })
        if (if x.dead then decide (r + 1 < x.started) else decide (r + 1 < x.nrows)) then
          .next (s3.modSend id (fun y => { y with acked := r + 1, pending := kdel y.pending r, sent := kdel y.sent r, clk := w'.tick }))
        else .next (s3.dropSend x)
      | .error e, _, _ => .next (s.failSend x e)
      | _, .error e, _ => .next (s.failSend x e)
      | _, _, .error e => .next (s.failSend x e)

/-- The place of some bytes of an exported window (R278): none where the window refuses them or they do not translate. -/
def State.windowRes (s : State) (p win : Nat) (off : DWord) (n : Nat) (write : Bool) : Option (List (Res × Nat)) :=
  match kget (s.part p).cfg.windows win with
  | none => none
  | some w =>
    if decide (w.size < off.toNat + n) || !(if write then w.writeOk else w.readOk) then none
    else
      let l := (pieces (w.base + off) n).map (fun e => (if canonical e.1 && !isWindow e.1 then s.translate p e.1.toNat else none, e.2))
      if l.any (fun e => e.1.isNone) then none else some (l.filterMap (fun e => e.1.map (fun r => (r, e.2))))

/-- The records of an arrival whose walk leaves the grant (R307): the port's source number stands in them. -/
def State.windowNote (s : State) (p win : Nat) (off : DWord) (n source : Nat) : State :=
  match kget (s.part p).cfg.windows win with
  | some w => if w.size < off.toNat + n then s else (pieces (w.base + off) n).foldl (fun s e => s.noteLeave p source e.1) s
  | none => s

/-- Writes bytes of an arrival; such writes are exempt from races (R144). -/
def State.arrivePut (s : State) (l : List (Res × Nat)) (bs : List Byte) : State :=
  match l with
  | [] => s
  | (r, n) :: t => (s.unitWrite r.loc (bs.take n) none).arrivePut t (bs.drop n)

/-- The receive window of a flow after a number is accepted (R284). -/
def Flow.accept (f : Flow) (seq : Word) : Flow :=
  let (b, a) := advance (f.accepted.length + 1) f.base (f.accepted ++ [seq])
  { f with base := b, accepted := a }

/-- Where an sequence number stands to a flow's window (R284): accepted before or below it, or beyond it. -/
def Flow.seen (f : Flow) (seq : Word) : Bool := f.accepted.contains seq || decide (2 ^ 31 ≤ (seq - f.base).toNat)

/-- REMOTE_ROW_ARRIVAL: a row from a peer is written once and counted on RMB; a number already accepted or below the window is
dropped and counted (R278, R284). -/
def execRemoteRowArrival (row : RemoteRow) (s : State) : Out :=
  if !s.power then .fault .poweredOff
  else if (kget s.parts row.part).isNone then .refused (.notEnabled "REMOTE_ROW_ARRIVAL")
  else
    let f := (kget (s.part row.part).rflows row.flow).getD { id := row.flow, next := 0, unacked := 0, base := 0, accepted := [] }
    if f.seen row.seq then .next { s with dups := kput s.dups row.port (kgetD s.dups row.port 0 + 1) }
    else if Config.flowWindow ≤ (row.seq - f.base).toNat then .refused (.notEnabled "REMOTE_ROW_ARRIVAL")
    else
      let mb := match row.rmb with
        | none => some none
        | some o => if (((kget (s.part row.part).cfg.windows row.win).map (fun (w : Window) => w.base)).getD 0 + o).toNat % 16 ≠ 0 then none
          else (s.windowRes row.part row.win o 16 true).map (fun l => l.head?.map (fun e => e.1.loc))
      match s.windowRes row.part row.win row.offset row.bytes.length true, s.windowRes row.part row.win row.scaleAt row.scales.length true, mb with
      | some l, some q, some m =>
        let s1 := (s.arrivePut l row.bytes).arrivePut q row.scales
        let s2 := match m with
          | some loc => s1.mbTake loc (row.bytes.length + row.scales.length) []
          | none => s1
        .next (s2.modPart row.part (fun p => { p with rflows := kput p.rflows row.flow (f.accept row.seq) }))
      | _, _, _ => .next ((s.windowNote row.part row.win row.offset row.bytes.length row.port).windowNote row.part row.win row.scaleAt
          row.scales.length row.port)

/-- REMOTE_READ: a peer's `nget` reads a word of a window as a load of class P (R278, R279); a refused one reads nothing. -/
def execRemoteRead (part win : Nat) (off : BitVec 64) (s : State) : Out :=
  if !s.power then .fault .poweredOff
  else if (kget s.parts part).isNone then .refused (.notEnabled "REMOTE_READ")
  else match s.windowRes part win off 4 false with
    | some ((r, _) :: _) =>
      let s1 := (s.keepTlb r).mergeLines (r.loc.words 4)
      .next { s1 with peerRead := BitVec.ofNat 32 (leNat (s1.readMs r.loc 4)) }
    | _ => .next (s.windowNote part win off 4 (320 + s.choose (2 ^ 87) 12))

/-- The oldest flight of a pair that a condition picks. -/
def Pair.flight (p : Pair) (f : Flight → Bool) : Option Flight := p.flights.find? f

/-- Changes a flight. -/
def Pair.modFlight (p : Pair) (id : Nat) (f : Flight → Flight) : Pair :=
  { p with flights := p.flights.map (fun e => if e.id = id then f e else e) }

/-- Whether a flight waits for a peer. -/
def Flight.remote (f : Flight) : Bool := match f.cargo with | .remote _ _ => true | _ => false

/-- The answer to an `nget` is known: data or a cause held pending (R279). -/
def State.answerGet (s : State) (k : Nat) (f : Flight) (cg : Cargo) : State :=
  (s.modPair (pairOf k) (fun p => p.modFlight f.id (fun x => { x with cargo := cg }))).modThr k
    (fun t => { t with out := t.out.filter (· != 2 * f.id + 1) })

/-- The `nget` in flight of a thread to a queue. -/
def State.getFlight (s : State) (k q : Nat) : Option Flight := (s.pair (pairOf k)).flight (fun f => f.q == q && f.remote)

/-- NGET_RESPONSE: the peer's word arrives (R279). -/
def execNgetResponse (tm tid q : Nat) (w : BitVec 32) (s : State) : Out :=
  if !s.power then .fault .poweredOff
  else match s.getFlight (tkey tm .a tid) q with
  | none => .refused (.notEnabled "NGET_RESPONSE")
  | some f => .next (s.answerGet (tkey tm .a tid) f (.data [w]))

/-- Ends an outstanding remote operation with a cause (R277, R286). -/
def remoteFail (name : String) (cause : Cause) (need : Send → Bool) (op : RemoteOp) (s : State) : Out :=
  if !s.power then .fault .poweredOff
  else match op with
  | .send id => match s.sends.find? (fun e => e.id == id) with
    | some x => if need x then .next (s.failSend x (badAt cause 0)) else .refused (.notEnabled name)
    | none => .refused (.notEnabled name)
  | .get tm tid q => match s.getFlight (tkey tm .a tid) q with
    | some f => .next (s.answerGet (tkey tm .a tid) f (.fault cause (match f.cargo with | .remote _ o => o | _ => 0)))
    | none => .refused (.notEnabled name)

/-- REMOTE_TIMEOUT: a row or an `nget` stays unanswered after the transport's retry limit (R277, R286). -/
def execRemoteTimeout (op : RemoteOp) (s : State) : Out :=
  remoteFail "REMOTE_TIMEOUT" .remoteTimeout (fun x => decide (x.acked < x.started)) op s

/-- REMOTE_REFUSED: the peer refuses a transfer or an `nget` (R277, R278, R286). -/
def execRemoteRefused (op : RemoteOp) (s : State) : Out :=
  remoteFail "REMOTE_REFUSED" .remoteRefused (fun _ => true) op s

/-- The waiting places of a flight become one pending-fault place (R110). -/
def Queue.faultPlaces (q : Queue) (id : Nat) (c : Cause) (a : DWord) : Queue :=
  match q.places.findIdx? (fun x => x == Place.wait id) with
  | none => q
  | some i => { q with places := (q.places.take i ++ [Place.pend c a none none] ++ q.places.drop i).filter (fun x => x != Place.wait id) }

/-- What a flight's fault is, if it has one. -/
def Flight.fault (f : Flight) : Option (Cause × DWord) := match f.cargo with | .fault c a => some (c, a) | _ => none

/-- Whether a thread whose `nget` has failed after it went on may be parked at it: it is not in handler code and holds no pending-fault
record (R110, log 51). -/
def State.lateOk (s : State) (k : Nat) : Bool :=
  (match (s.thr k).park with | .pending _ => false | _ => true) && (match s.groupOf (keyTm k) (keySide k) (keyIx k) with
    | some g => !(s.grp g).priv
    | none => false)

/-- A faulted flight of a thread: its cause, if its places still stand (R110, R213, R279). -/
def State.faultedFlight (s : State) (k : Nat) : Option (Flight × Cause × DWord) :=
  let p := s.pair (pairOf k)
  match p.flight (fun f => f.fault.isSome && (p.queue f.q).holds f.id && (!f.translated || s.lateOk k)) with
  | some f => f.fault.map (fun x => (f, x.1, x.2))
  | none => none

/-- Threads of a group whose translation has faulted: their places become pending-fault places, and they stand parked at the
instruction, as a narrow group where others go on (R110). -/
def State.pendAll (s : State) (gid : Nat) (ts : List Nat) : State :=
  let g := s.grp gid
  let s1 := ts.foldl (fun s t =>
    let k := g.key t
    match s.faultedFlight k with
    | some (f, c, a) =>
      (s.modPair (pairOf k) (fun p => (p.dropFlight f.id).setQ f.q ((p.queue f.q).faultPlaces f.id c a))).modThr k
        (fun th => { th with park := .pending f.q })
    | none => s) s
  let lenAt := fun h => match s.header g.tm h with
    | .ok x => x.len
    | .error _ => 0
  let at_ : Nat → Dest := fun t => match s.faultedFlight (g.key t) with
    | some (f, _, _) => { pc := f.fpc, hdr := f.fhdr, len := lenAt f.fhdr, entering := false, priv := g.priv }
    | none => g.dest
  let hdr := match ts with
    | t :: _ => (match s.faultedFlight (g.key t) with | some (f, _, _) => f.fhdr | none => g.hdr)
    | [] => g.hdr
  s1.splitTo gid (fun t => if ts.contains t then at_ t else g.dest) (s1.rcvOf g.tm hdr)

/-- A flight whose places are gone, or whose thread has exited: a fault of it is dropped (R213). -/
def State.lostFlight (s : State) (k : Nat) : Option Flight :=
  let p := s.pair (pairOf k)
  p.flight (fun f => f.fault.isSome && ((s.thr k).exited || !(p.queue f.q).holds f.id))

/-- TRANSLATION_COMPLETE: the thread may issue again; or, with a fault, it stands at the instruction with a pending-fault place,
together with the threads of its group whose translation faulted there too (R110, R212, R213). A peer's answer is no part of the
translation of an `nget`; a cause that comes with it parks the thread at the instruction all the same (R110, R279, log 51). -/
def execTranslationComplete (tm tid : Nat) (s : State) : Out :=
  let k := tkey tm .a tid
  let wake := fun (s : State) (f : Flight) => s.modThr k (fun t => if t.park = .translating f.id then { t with park := .none } else t)
  if !s.power then .fault .poweredOff
  else match s.lostFlight k, s.faultedFlight k, s.groupOf tm .a tid with
  | some f, _, _ => .next (wake (s.modPair (pairOf k) (fun p =>
      (p.dropFlight f.id).setQ f.q { p.queue f.q with places := (p.queue f.q).places.filter (fun y => y != .wait f.id) })) f)
  | none, some (g, _, _), some gid =>
    if !s.awake gid then .refused (.notEnabled "TRANSLATION_COMPLETE")
    else
      let ts := (s.grp gid).members.filter (fun t => match s.faultedFlight (tkey tm .a t) with
        | some (h, _, _) => h.fpc == g.fpc && h.fhdr == g.fhdr
        | none => false)
      .next (s.pendAll gid ts)
  | none, _, _ => match (s.pair (pairOf k)).flight (fun f => !f.translated && f.fault.isNone) with
    | some f => .next (wake (s.modPair (pairOf k) (fun p => p.modFlight f.id (fun x => { x with translated := true }))) f)
    | none => .refused (.notEnabled "TRANSLATION_COMPLETE")

/-- The waiting places of a flight are filled in order (R99). -/
def fillPlaces (id : Nat) (clk : Clock) (ws : List Word) (l : List Place) : List Place :=
  match l with
  | [] => []
  | x :: t =>
    if x = .wait id then
      match ws with
      | w :: rest => .full w false clk false :: fillPlaces id clk rest t
      | [] => .full 0 false clk false :: fillPlaces id clk [] t
    else x :: fillPlaces id clk ws t

/-- LDQ_FILL: the data of the oldest `ldq` or `nget` to a queue arrives and fills its places; data for a discarded place is
dropped (R99, R107, R365). -/
def execLdqFill (tm tid q : Nat) (s : State) : Out :=
  let k := tkey tm .a tid
  if !s.power then .fault .poweredOff
  else match (s.pair (pairOf k)).flight (fun f => f.q == q && f.translated && (match f.cargo with | .data _ => true | _ => false)) with
  | none => .refused (.notEnabled "LDQ_FILL")
  | some f => .next (s.modPair (pairOf k) (fun p =>
      let ws := match f.cargo with | .data ws => ws | _ => []
      (p.dropFlight f.id).setQ q { p.queue q with places := fillPlaces f.id f.clk ws (p.queue q).places }))

/-- The pending fault of a parked access thread that the execute thread's pops have reached (R111). -/
def State.reachedPend (s : State) (k : Nat) : Option (Nat × Cause × DWord) :=
  match (s.thr k).park with
  | .pending q => (s.pendReached k q).map (fun x => (q, x.1, x.2.1))
  | _ => none

/-- PENDING_FAULT_DELIVERY: the access thread, and every thread of its group whose place is reached too, enters the handler with
DEFER, each with its own record (R111). -/
def execPendingFaultDelivery (tm tid : Nat) (s : State) : Out :=
  if !s.power then .fault .poweredOff
  else match s.reachedPend (tkey tm .a tid), s.groupOf tm .a tid with
  | some _, some gid =>
    if !s.awake gid then .refused (.notEnabled "PENDING_FAULT_DELIVERY")
    else
      let g := s.grp gid
      let ts := g.members.filter (fun t => (s.reachedPend (g.key t)).isSome)
      .next (s.raise gid g.pc g.hdr ts (fun t => match s.reachedPend (g.key t) with
        | some (q, c, a) => { s.hit c a with defer := true, place := some q }
        | none => s.noHit))
  | _, _ => .refused (.notEnabled "PENDING_FAULT_DELIVERY")

end Sys2Proof.Machine
end

