-- ==== Sys2Proof/Machine/Softmax.lean ====
section
/-! DEFINITION. The arithmetic that the Bear, the Sett attention units and the return network share: exp2 and weights (R168,
R240), exact sums, and the merge of softmax rows (R242). Codes are fx40 unless said otherwise. -/

namespace Sys2Proof.Machine

/-- T[i] of R168: 2^(i/64) × 2^32, rounded to nearest even. -/
def expTable : List Nat :=
  [4294967296, 4341736423, 4389014833, 4436808071, 4485121744, 4533961517, 4583333121, 4633242347]
    ++ [4683695048, 4734697143, 4786254615, 4838373510, 4891059943, 4944320094, 4998160210, 5052586606]
    ++ [5107605667, 5163223846, 5219447668, 5276283726, 5333738689, 5391819295, 5450532358, 5509884764]
    ++ [5569883475, 5630535530, 5691848042, 5753828203, 5816483285, 5879820635, 5943847684, 6008571941]
    ++ [6074001000, 6140142534, 6207004303, 6274594148, 6342919999, 6411989869, 6481811861, 6552394164]
    ++ [6623745059, 6695872913, 6768786189, 6842493438, 6917003306, 6992324534, 7068465956, 7145436504]
    ++ [7223245206, 7301901189, 7381413680, 7461792005, 7543045592, 7625183973, 7708216783, 7792153760]
    ++ [7877004752, 7962779710, 8049488696, 8137141881, 8225749546, 8315322086, 8405870007, 8497403930]

/-- C1, C2 and C3 of R168. -/
def expC1 : Nat := 2977044472
/-- C2 of R168. -/
def expC2 : Nat := 1031764991
/-- C3 of R168. -/
def expC3 : Nat := 238388332

/-- ⌊x × 2^n⌋ of an exact value. -/
def floorScaled (a : Int) (e : Int) (n : Int) : Int :=
  if 0 ≤ e + n then a * 2 ^ (e + n).toNat else a / (2 ^ (-(e + n)).toNat : Nat)

/-- 2^z as an fx40 code (R168). -/
def exp2Fx (z : FVal) : Nat :=
  match z with
  | .nan _ => Fm.fx40.nan
  | .inf true => 0
  | .inf false => Fm.fx40.infOrMax false
  | .fin neg m e =>
    let a := fint neg m
    if !dyLt a e 128 0 then Fm.fx40.infOrMax false
    else if dyLt a e (-160) 0 then 0
    else
      let zz := floorScaled a e 40
      let n := zz / 2 ^ 34
      let i := (n % 64).toNat
      let f := (zz % 2 ^ 34).toNat
      let h1 := expC2 + expC3 * f / 2 ^ 40
      let h2 := expC1 + h1 * f / 2 ^ 40
      let p := h2 * f / 2 ^ 40
      let t := expTable.getD i 0
      (Fm.fx40.round 0 false (t + t * p / 2 ^ 32) (n / 64 - 32) 0).code

/-- An fx40 code as a value. -/
def fx (c : Nat) : FVal := Fm.fx40.decode c

/-- Whether two values that are no NaN are equal; −0 equals +0. -/
def vEq (a b : FVal) : Bool := !a.isNan && !b.isNan && !vLt false a b && !vLt false b a

/-- The weight function w(a, m) (R240). -/
def weight (a m : FVal) : Nat :=
  if a.isNan || m.isNan then Fm.fx40.nan
  else if vEq a m then 0x3F80000000
  else exp2Fx (vAdd 0 a (vNeg m)).1

/-- The exact sum of values and whether it is invalid: a signalling NaN, or +∞ and −∞ in one sum (R231). -/
def sumV (l : List FVal) : FVal × Bool :=
  match l with
  | [] => (.fin false 0 0, false)
  | v :: t =>
    let both := l.contains (.inf true) && l.contains (.inf false)
    (if l.any FVal.isNan || both then .nan false else t.foldl (fun a b => (vAdd 0 a b).1) v, both || l.any FVal.isSig)

/-- The exact sum of products and whether it is invalid (R231). -/
def dotV (l : List (FVal × FVal)) : FVal × Bool :=
  let ps := l.map (fun e => vMul e.1 e.2)
  let (v, nv) := sumV (ps.map (·.1))
  (v, nv || ps.any (·.2))

/-- A value rounded once into fx40, with its flags; `mode` gives FRZ. -/
def intoFx (mode : DWord) (x : FVal × Bool) : Nat × BitVec 5 := Fm.fx40.deliverV mode 0 x.1 x.2 0

/-- The maximum of two codes: NaN if either is (R240 to R242). -/
def maxFx (a b : Nat) : Nat :=
  if (fx a).isNan || (fx b).isNan then Fm.fx40.nan else if vLt true (fx a) (fx b) then b else a

/-- Whether a code is −∞. -/
def isNegInf (c : Nat) : Bool := fx c == .inf true

/-- −∞ in fx40. -/
def negInf40 : Nat := 0xFF80000000

/-- What merging the state of two rows gives: m, both weights, l and flags (R242). -/
structure Merge where
  m : Nat
  fD : FVal
  fS : FVal
  l : Nat
  flags : BitVec 5

/-- The merge of two row states under a mode for FIZ and FRZ (R242, R391). -/
def mergeState (mode : DWord) (mD lD mS lS : Nat) : Merge :=
  let m := maxFx mD mS
  let fD := fx (weight (fx mD) (fx m))
  let fS := fx (weight (fx mS) (fx m))
  let (l, fl) := intoFx mode (dotV [(fD, Fm.fx40.input mode lD), (fS, Fm.fx40.input mode lS)])
  { m := m, fD := fD, fS := fS, l := l, flags := fl ||| (if (fx mD).isSig || (fx mS).isSig then flNV else 0) }

/-- An element of a merged row (R242). -/
def mergeElem (mode : DWord) (g : Merge) (d x : Nat) : Nat × BitVec 5 :=
  intoFx mode (dotV [(g.fD, Fm.fx40.input mode d), (g.fS, Fm.fx40.input mode x)])

/-- What folding scores into a row state gives: m, α, the probabilities, l and flags (R241, R258). -/
structure Fold where
  m : Nat
  alpha : FVal
  ps : List FVal
  l : Nat
  flags : BitVec 5

/-- Folds scores x_j into (m, l) (R241, R258). A score of −∞ has p = 0; `all` says that a NaN in the row makes every p a NaN, as `smx`
has it (R241) and attention does not (R258). -/
def foldScores (all : Bool) (mode : DWord) (m l : Nat) (xs : List Nat) : Fold :=
  let m' := xs.foldl maxFx (if (fx m).isNan then Fm.fx40.nan else m)
  let a := fx (weight (fx m) (fx m'))
  let ps := xs.map (fun x => if isNegInf x && !(all && (fx m').isNan) then FVal.fin false 0 0 else fx (weight (fx x) (fx m')))
  let (pr, nv) := vMul a (Fm.fx40.input mode l)
  let (sm, nv2) := sumV (pr :: ps)
  let (l', fl) := intoFx mode (sm, nv || nv2)
  { m := m', alpha := a, ps := ps, l := l', flags := fl ||| (if (fx m).isSig then flNV else 0) }

/-- An exact quotient of finite values with a nonzero divisor, as a value that rounds as it does: a floor with 80 fraction bits
beyond the quotient's first, and a last bit that stands for the remainder. -/
def quotV (n1 : Bool) (m1 : Nat) (e1 : Int) (n2 : Bool) (m2 : Nat) (e2 : Int) : FVal :=
  let sh := 80 + Nat.log2 m2
  let q := m1 * 2 ^ sh / m2
  let r := m1 * 2 ^ sh % m2
  .fin (n1 != n2) (2 * q + (if r = 0 then 0 else 1)) (e1 - e2 - sh - 1)

end Sys2Proof.Machine
end

