-- ==== Sys2Proof/Machine/Kv.lean ====
section
/-! DEFINITION. Key-value pages (M 36 and `ldq.k16`; R245 to R263): the prefix-key directory, descriptors, rotary loads, and slice
attention by the Sett units and the return network. -/

namespace Sys2Proof.Machine

/-- A strong read of n bytes by a step of a thread. -/
def State.dirGet (s : State) (k : Nat) (va : DWord) (n : Nat) (o : BitVec 3) (mask : BitVec 5) : Try (List Byte × State) :=
  tryThen (s.lateLine k (s.atomCheck k va n false o mask)) fun r => .ok (s.atomStep k r n o mask (fun _ => none))

/-- A strong write of bytes by a step of a thread. -/
def State.dirPut (s : State) (k : Nat) (va : DWord) (bs : List Byte) (o : BitVec 3) (mask : BitVec 5) : Try State :=
  tryThen (s.lateLine k (s.atomCheck k va bs.length true o mask)) fun r => .ok (s.atomStep k r bs.length o mask (fun _ => some bs)).2

/-- Several strong writes, in order, by one step. -/
def State.dirPuts (s : State) (k : Nat) (l : List (DWord × List Byte)) (o : BitVec 3) (mask : BitVec 5) : Try State :=
  match l with
  | [] => .ok s
  | (va, bs) :: t => tryThen (s.dirPut k va bs o mask) (fun s1 => s1.dirPuts k t o mask)

/-- The upper word of a descriptor's flags (Table 14-1). -/
def Desc.hi (d : Desc) : Nat :=
  d.crcv.toNat * 2 ^ 22 + d.freed.toNat * 2 ^ 21 + d.quar.toNat * 2 ^ 20 + d.fmt * 2 ^ 18 + d.kind * 2 ^ 16 + d.head

/-- A descriptor that a step leaves with REF and PIN 0 is freed in it (R256). -/
def Desc.settled (d : Desc) : Desc := if d.refs = 0 ∧ d.pin = 0 then { d with freed := true } else d

/-- The words of a descriptor that a step changes. -/
def Desc.writes (va : DWord) (old new : Desc) : List (DWord × List Byte) :=
  (if old.pos = new.pos then [] else [(va + 8, leBytes 4 new.pos.toNat)]) ++
  (if old.hi = new.hi then [] else [(va + 12, leBytes 4 new.hi)]) ++
  (if old.refs = new.refs then [] else [(va + 16, leBytes 4 new.refs.toNat)]) ++
  (if old.pin = new.pin then [] else [(va + 20, leBytes 4 new.pin.toNat)])

/-- Reads a descriptor in a step of a thread (R246, R254). -/
def State.descGet (s : State) (k : Nat) (va : DWord) (o : BitVec 3) (mask : BitVec 5) : Try (Desc × State) :=
  tryThen (s.dirGet k va 32 o mask) fun (bs, s1) =>
    if (descOf bs).wrong then .trap .badOperand va else .ok (descOf bs, s1)

/-- Primary buckets as a power of two, 0 for no directory (Table 14-2). -/
def Part.nb (p : Part) : Nat := (p.kvdir.extractLsb' 0 6).toNat
/-- Spill buckets as a power of two. -/
def Part.ns (p : Part) : Nat := (p.kvdir.extractLsb' 6 6).toNat
/-- Base of the directory. -/
def Part.dirBase (p : Part) : DWord := p.kvdir &&& ~~~0xFFF#64

/-- The primary bucket of a key (R253). -/
def Part.bucketOf (p : Part) (lo hi : DWord) : DWord :=
  p.dirBase + 256 + BitVec.ofNat 64 (256 * ((lo ^^^ hi).toNat % 2 ^ p.nb))

/-- What a search of a chain finds: the entry of the key with its descriptor, the first free entry among entries 0 to 6, and the
last bucket. -/
structure Found where
  entry : Option (DWord × DWord)
  free : Option DWord
  last : DWord
deriving DecidableEq, Repr

/-- Searches the chain of a key from entry i of a bucket on, up to the entry that holds it (R253, R255). -/
def State.scan (s : State) (k : Nat) (lo hi : DWord) (o : BitVec 3) (mask : BitVec 5) (fuel : Nat) (b : DWord) (i : Nat)
    (free : Option DWord) : Try (Found × State) :=
  match fuel with
  | 0 => .ok ({ entry := none, free := free, last := b }, s)
  | n + 1 =>
    let va := b + BitVec.ofNat 64 (32 * i)
    tryThen (s.dirGet k va 32 o mask) fun (bs, s1) =>
      let w := fun j => BitVec.ofNat 64 (leNat ((bs.drop (8 * j)).take 8))
      let st := (w 3).toNat % 4
      if i = 7 then
        if st = 2 then s1.scan k lo hi o mask n (w 2) 0 free else .ok ({ entry := none, free := free, last := b }, s1)
      else if st = 1 ∧ w 0 = lo ∧ w 1 = hi then .ok ({ entry := some (va, w 2), free := free, last := b }, s1)
      else s1.scan k lo hi o mask n b (i + 1) (if st = 0 && free.isNone then some va else free)

/-- The partition of a thread. -/
def State.partAt (s : State) (k : Nat) : Part := s.part (s.partOf (keyTm k))

/-- Finds a key in the directory. -/
def State.find (s : State) (k : Nat) (lo hi : DWord) (o : BitVec 3) (mask : BitVec 5) : Try (Found × State) :=
  let p := s.partAt k
  s.scan k lo hi o mask (8 * (2 ^ p.ns + 1)) (p.bucketOf lo hi) 0 none

/-- A names an even x register (R254). -/
def keyOk (a : Src) : Bool := match a with | .reg n => decide (n.toNat < 32) && n.toNat % 2 == 0 | _ => false

/-- The key that xK and its neighbour hold. -/
def State.keyAt (s : State) (k : Nat) (a : Src) : DWord × DWord :=
  match a with
  | .reg n => ((s.thr k).getX n.toNat, (s.thr k).getX (n.toNat + 1))
  | _ => (0, 0)

/-- What a directory instruction needs before any step (R254, R405): the registers of its key or address, sound and holding what they
`named`, then the waits of an atomic. -/
def kvCheck (p : Pfx) (named : State → Nat → List DWord → Try Unit) (s : State) (k : Nat) (vs : List DWord) : Try Unit :=
  tryThen (named s k vs) fun _ => s.atomReady k p.order p.obs

/-- The registers of a key, sound (R131). -/
def keySound (a : Src) (s : State) (k : Nat) : Try Unit :=
  match a with
  | .reg n => (s.thr k).soundRegs [n.toNat, n.toNat + 1]
  | _ => .ok ()

/-- A descriptor that an instruction names: aligned, translated, permitted and present (R254, R405); atomics do not reach host memory. -/
def State.descPlace (s : State) (k : Nat) (va : DWord) (write : Bool) : Try Unit :=
  tryThen (s.place (keyTm k) va 32 write) fun r =>
  match r.loc with
  | .host _ => .trap .perm va
  | _ => .ok ()

/-- The step of a directory instruction: its result is x(D). -/
def kvStep (d : BitVec 7) (f : State → Nat → List DWord → Try (DWord × State)) (s : State) (k : Nat) (vs : List DWord) (_ : Unit) :
    Try State :=
  tryThen (f s k vs) fun (v, s1) => .ok (s1.modThr k (fun t => t.setX d.toNat v))

/-- A directory instruction: one atomic step of each thread at a home Sett whose result is x(D) (R254, R405). -/
def kvOp (p : Pfx) (d : BitVec 7) (srcs : List (OTy × Src)) (ok : Bool) (named : State → Nat → List DWord → Try Unit)
    (f : State → Nat → List DWord → Try (DWord × State)) (s : State) : Out :=
  homeOp p srcs (fun _ _ => xOk d && ok) (fun t => t.setX d.toNat 0) (kvCheck p named) (kvStep d f) s

/-- What `kvlk` finds: the descriptor of a key, or 0 where it is absent or quarantined (R255, R248). -/
def kvlkFind (p : Pfx) (a : Src) (s : State) (k : Nat) (_ : List DWord) : Try (DWord × State) :=
  if (s.partAt k).nb = 0 then .ok (0, s)
  else
    let (lo, hi) := s.keyAt k a
    tryThen (s.find k lo hi p.order p.obs) fun (x, s1) => match x.entry with
      | none => .ok (0, s1)
      | some (_, va) => tryThen (s1.descGet k va p.order p.obs) fun (e, s2) => .ok (if e.quar then 0 else va, s2)

/-- KVLK (R255). -/
def execKvlk (p : Pfx) (d : BitVec 7) (a : Src) (s : State) : Out :=
  kvOp p d [] (keyOk a) (fun s k _ => keySound a s k) (kvlkFind p a) s

/-- An entry of a bucket (R253). -/
def entryBytes (lo hi va : DWord) (st : Nat) : List Byte :=
  leBytes 8 lo.toNat ++ leBytes 8 hi.toNat ++ leBytes 8 va.toNat ++ leBytes 8 st

/-- A key is entered in the directory: in a free entry, or in a new spill bucket linked from the last (R255). -/
def State.insertKey (s : State) (k : Nat) (lo hi va : DWord) (x : Found) (o : BitVec 3) (mask : BitVec 5) : Try (DWord × State) :=
  let p := s.partAt k
  match x.free with
  | some e => tryThen (s.dirPut k e (entryBytes lo hi va 1) o mask) (fun s1 => .ok (va, s1))
  | none => tryThen (s.dirGet k p.dirBase 8 o mask) fun (bs, s1) =>
    let n := leNat bs
    if 2 ^ p.ns ≤ n then .trap .kvDirectoryFull 0
    else
      let b := p.dirBase + 256 + BitVec.ofNat 64 (256 * (2 ^ p.nb + n))
      tryThen (s1.dirPuts k [(b, entryBytes lo hi va 1 ++ List.replicate 224 0), (x.last + 224, entryBytes 0 0 b 2),
        (p.dirBase, leBytes 8 (n + 1))] o mask) (fun s2 => .ok (va, s2))

/-- What `kvins` does: enters a key with its descriptor, unless it is there (R255, R248). -/
def kvinsStep (p : Pfx) (a : Src) (s : State) (k : Nat) (vs : List DWord) : Try (DWord × State) :=
  if (s.partAt k).nb = 0 then .trap .kvDirectoryFull 0
  else
    let (lo, hi) := s.keyAt k a
    let va := arg vs 0
    tryThen (s.find k lo hi p.order p.obs) fun (x, s1) => match x.entry with
      | some (_, e) => .ok (e, s1)
      | none => tryThen (s1.descGet k va p.order p.obs) fun (e, s2) =>
        if e.refs = 0 then .trap .badOperand va
        else if e.quar then .trap .kvPageQuarantined va
        else s2.insertKey k lo hi va x p.order p.obs

/-- KVINS (R255). -/
def execKvins (p : Pfx) (d : BitVec 7) (a b : Src) (s : State) : Out :=
  kvOp p d [(.int64, b)] (keyOk a && recOk b)
    (fun s k vs => tryThen (keySound a s k) fun _ => s.descPlace k (arg vs 0) false) (kvinsStep p a) s

/-- What `kvdel` does: frees the entry of a key (R255, R248). -/
def kvdelStep (p : Pfx) (a : Src) (s : State) (k : Nat) (_ : List DWord) : Try (DWord × State) :=
  if (s.partAt k).nb = 0 then .ok (0, s)
  else
    let (lo, hi) := s.keyAt k a
    tryThen (s.find k lo hi p.order p.obs) fun (x, s1) => match x.entry with
      | none => .ok (0, s1)
      | some (e, va) => tryThen (s1.dirPut k (e + 24) (leBytes 8 0) p.order p.obs) (fun s2 => .ok (va, s2))

/-- KVDEL (R255). -/
def execKvdel (p : Pfx) (d : BitVec 7) (a : Src) (s : State) : Out :=
  kvOp p d [] (keyOk a) (fun s k _ => keySound a s k) (kvdelStep p a) s

/-- What `kvref` does: adds a signed delta to REF of a key's descriptor; at 0 the entry is freed (R255, R256, R248). -/
def kvrefStep (p : Pfx) (a : Src) (s : State) (k : Nat) (vs : List DWord) : Try (DWord × State) :=
  if (s.partAt k).nb = 0 then .ok (0xFFFFFFFFFFFFFFFF, s)
  else
    let (lo, hi) := s.keyAt k a
    tryThen (s.find k lo hi p.order p.obs) fun (x, s1) => match x.entry with
      | none => .ok (0xFFFFFFFFFFFFFFFF, s1)
      | some (e, va) => tryThen (s1.descGet k va p.order p.obs) fun (old, s2) =>
        let n : Int := (old.refs.toNat : Int) + ((arg vs 0).setWidth 32).toInt
        if n < 0 ∨ 2 ^ 32 ≤ n then .trap .badOperand 0
        else
          let new := ({ old with refs := BitVec.ofInt 32 n } : Desc).settled
          tryThen (s2.dirPuts k (old.writes va new ++ (if n = 0 then [(e + 24, leBytes 8 0)] else [])) p.order p.obs)
            (fun s3 => .ok (BitVec.ofInt 64 n, s3))

/-- KVREF (R255). -/
def execKvref (p : Pfx) (d : BitVec 7) (a b : Src) (s : State) : Out :=
  kvOp p d [(.int64, b)] (keyOk a && addrOk (.reg 0) b) (fun s k _ => keySound a s k) (kvrefStep p a) s

/-- What `kvpos` does: gives the old position base and sets a new one (R255, R256). -/
def kvposStep (p : Pfx) (a : Src) (s : State) (k : Nat) (vs : List DWord) : Try (DWord × State) :=
  let va := s.plainA k a
  tryThen (s.descGet k va p.order p.obs) fun (old, s1) =>
    let new := ({ old with pos := (arg vs 0).setWidth 32 } : Desc).settled
    tryThen (s1.dirPuts k ((va + 8, leBytes 4 new.pos.toNat) :: ({ old with pos := new.pos } : Desc).writes va new) p.order p.obs)
      (fun s2 => .ok (old.pos.setWidth 64, s2))

/-- KVPOS (R255). -/
def execKvpos (p : Pfx) (d : BitVec 7) (a b : Src) (s : State) : Out :=
  kvOp p d [(.int64, b)] (addrOk a b)
    (fun s k _ => tryThen (s.soundOps k [a]) fun _ => s.descPlace k (s.plainA k a) true) (kvposStep p a) s

/-- A Sett unit as the performer of accesses for a request: its number, its clock and the Sett's source number (Table 6-9). -/
def settWho (tm id : Nat) (clk : Clock) (sett : Nat) : Who :=
  { tm := tm, agent := unitAgent id, clk := clk, source := sett, kind := 2, thread := 0 }

/-- The Sett that homes an address of a team; a scratchpad has none, and the core stands for it. -/
def State.settOf (s : State) (tm : Nat) (va : DWord) : Nat :=
  match s.resolve tm va with
  | some r => (match r.loc with
    | .hbm pa => homeSett pa
    | .host pa => homeSett pa
    | .scratch _ _ => s.srcCore (s.coreOf tm))
  | none => s.srcCore (s.coreOf tm)

/-- QUAR of a descriptor is set, as an atomic step (R263, R256). -/
def State.quarantine (s : State) (w : Who) (va : DWord) (d : Desc) : State :=
  match s.unitStore w (va + 12) (leBytes 4 ({ d with quar := true } : Desc).settled.hi) true with
  | .ok s1 => s1
  | .error _ => s

/-- The check of a page's bytes against its descriptor (R263): the address at which it reports INTEGRITY, if any, and the state with QUAR
set where the sum differs. Only a page in HBM is filled by a Sett and checked; a page checked before may still be held in L2 and then
passes unchecked, by the free choice. An uncorrectable error anywhere in the page is met by the read of the whole page. -/
def State.pageCheck (s : State) (w : Who) (va : DWord) (d : Desc) : Option DWord × State :=
  if !d.crcv then (none, s)
  else match (s.resolve w.tm d.page).map Res.loc with
    | some (.hbm pa) =>
      let l := Loc.hbm pa
      let f := l.key / 8192
      if s.checked.contains f && s.choose (2 ^ 86 + f) 2 == 0 then (none, s)
      else
        let s1 := s.mergeLines (l.words 4096)
        match (List.range 1024).find? (fun i => s1.corrupt ((l.plus (4 * i)).words 4)) with
        | some i => (some (d.page + BitVec.ofNat 64 (4 * i)), s1)
        | none =>
          if d.crcOk (s1.readMs l 4096) then (none, { s1 with checked := insertNat f s1.checked })
          else (some d.page, s1.quarantine w va d)
    | _ => (none, s)

/-- The word that `ldq.k16` brings, rotated where `rope` says so (R249, R251). -/
def State.k16Word (s : State) (k : Nat) (d : Desc) (off : Nat) (rope : Bool) (order : BitVec 3) (mask : BitVec 5) :
    Try (Cargo × State) :=
  tryThen (s.cargoOf k (d.page + BitVec.ofNat 64 off) 4 order mask) fun (cg, s1) =>
    match cg with
    | .data [w] =>
      if !rope then .ok (cg, s1)
      else tryThen (s1.cargoOf k (s1.freqAddr (s1.partOf (keyTm k)) d.freq (off % 256 / 4)) 4 ordPlain 0) fun (cf, s2) =>
        match cf with
        | .data [om] => .ok (.data [BitVec.ofNat 32 (rotateWord d.fm om.toNat (d.posOf (off / 256)) w.toNat)], s2)
        | _ => .ok (cf, s2)
    | _ => .ok (cg, s1)

/-- The descriptor that an `ldq.k16` reads, as an atomic reads (R247). -/
def State.k16Desc (s : State) (k : Nat) (va : DWord) : Try (Cargo × State) :=
  s.heldCargo (tryThen (s.lateLine k (s.atomCheck k va 32 false ordPlain 0)) fun r => .ok (s.atomStep k r 32 ordPlain 0 (fun _ => none)))

/-- What an `ldq.k16` brings: its descriptor, the page's check and the word (R251, R263). -/
def State.k16Cargo (s : State) (k : Nat) (va : DWord) (off : Nat) (rope : Bool) (order : BitVec 3) (mask : BitVec 5) :
    Try (Cargo × State) :=
  if 4096 ≤ off then .trap .badOperand 0
  else tryThen (s.k16Desc k va) fun (cg, s1) =>
    match cg with
    | .data ws =>
      let d := descOf (wordBytes ws)
      if d.wrong || d.kind != 0 then .trap .badOperand va
      else if d.quar then .trap .kvPageQuarantined va
      else
        match s1.pageCheck (settWho (keyTm k) s1.nextId (s1.thr k).clk (s1.settOf (keyTm k) d.page)) va d with
        | (none, s2) => s2.k16Word k d off rope order mask
        | (some v, s2) => .ok (.fault .integrity v, { s2 with nextId := s2.nextId + 1 })
    | _ => .ok (cg, s1)

/-- Whether the MXA prefix asks for rotation (Table 14-3). -/
def wantsRope (p : Pfx) : Bool :=
  match p.mxa with
  | some m => m.rope
  | none => false

/-- What an `ldq.k16` names: a descriptor and an offset within its page (R251). -/
def k16Args (d : BitVec 7) (a b : Src) : PushArgs :=
  { pre := fun s k => s.soundOps k [a, b], q := d.toNat, n := 1,
    align := fun s k => (s.plainA k a).toNat % 32 == 0 && (s.plainA k b).toNat % 4 == 0, va := fun s k => s.plainA k a }

/-- What one thread's `ldq.k16` brings (R251). -/
def k16Load (p : Pfx) (a b : Src) (s : State) (k : Nat) : Try (Cargo × State) :=
  s.k16Cargo k (s.plainA k a) (s.plainA k b).toNat (wantsRope p) p.order p.obs

/-- LDQ_K16: a key pair of a page into a queue, rotated where the rope bit is set (R251). -/
def execLdqK16 (p : Pfx) (d : BitVec 7) (a b : Src) (s : State) : Out :=
  withIssue .aOnly false p (fun s c => addrOk a b && decide (d.toNat < 16) && decide (d.toNat < s.nq c.tm)) s fun c act =>
    s.runPush c act (k16Args d a b) (k16Load p a b)

/-- What a request meets while it is accepted or served, and the address that `sr.faddr` will hold (R261). -/
abbrev KvqBad := Bad × DWord

/-- A cause met by a unit, reported at an address. -/
def Bad.atVa (b : Bad) (va : DWord) : KvqBad := (b, va)

/-- A cause that a unit meets at the address it reports. -/
def kvqAt (c : Cause) (va : DWord) : KvqBad := (badAt c va, va)

/-- Reads a descriptor for a request: its kind must be the given one, and it must not be quarantined (R261). -/
def State.kvqDesc (s : State) (w : Who) (va : DWord) (kind : Nat) : Except KvqBad (Desc × State) :=
  if va.toNat % 32 ≠ 0 then .error (kvqAt .align va)
  else match s.unitRead w va 32 true with
    | .error e => .error (e.atVa va)
    | .ok (bs, s1) =>
      let d := descOf bs
      if d.wrong || d.kind != kind then .error (kvqAt .badOperand va)
      else if d.quar then .error (kvqAt .kvPageQuarantined va)
      else .ok (d, s1)

/-- The query record's fields (Table 14-5). -/
structure Query where
  qv : List Nat
  c : Nat
  qpos : Nat
  bf : Bool
  causal : Bool
  bad : Bool
deriving DecidableEq, Repr

/-- A query record from its 288 bytes. -/
def queryOf (bs : List Byte) : Query :=
  let at_ := fun o n => leNat ((bs.drop o).take n)
  { qv := (List.range 128).map (fun e => at_ (2 * e) 2), c := at_ 0x100 4, qpos := at_ 0x104 4, bf := bitsOf (at_ 0x108 4) 1 1 == 1,
    causal := bitsOf (at_ 0x108 4) 0 1 == 1, bad := bitsOf (at_ 0x108 4) 2 30 != 0 || at_ 0x10C 20 != 0 }

/-- The element format of a query. -/
def Query.fm (q : Query) : Fm := if q.bf then .bf16 else .f16

/-- Reads the query record of a request. -/
def State.kvqRecord (s : State) (w : Who) (va : DWord) : Except KvqBad (Query × State) :=
  match s.unitRead w va 288 false with
  | .error e => .error (e.atVa va)
  | .ok (bs, s1) => if (queryOf bs).bad then .error (kvqAt .badOperand va) else .ok (queryOf bs, s1)

/-- Pins descriptors in order (R257): those pinned, and the cause at which it stopped. -/
def State.pinAll (s : State) (w : Who) (l : List (DWord × Nat)) : List DWord × Option KvqBad × State :=
  match l with
  | [] => ([], none, s)
  | (va, kind) :: t => match s.kvqDesc w va kind with
    | .error e => ([], some e, s)
    | .ok (d, s1) =>
      if d.freed then ([], some (kvqAt .badOperand va), s)
      else match s1.unitStore w (va + 20) (leBytes 4 (d.pin + 1).toNat) true with
        | .error e => ([], some (e.atVa va), s)
        | .ok s2 => let (ps, x, s3) := s2.pinAll w t; (va :: ps, x, s3)

/-- A pin is dropped (R256, R260, R261). -/
def State.unpin (s : State) (w : Who) (va : DWord) : State :=
  match s.unitRead w va 32 true with
  | .error _ => s
  | .ok (bs, s1) =>
    let old := descOf bs
    let new := ({ old with pin := old.pin - 1 } : Desc).settled
    (old.writes va new).foldl (fun s e => match s.unitStore w e.1 e.2 true with
      | .ok s2 => s2
      | .error _ => s) s1

/-- Pairs by the Sett of their key page (R258): none of a pair whose key page has no home. -/
def State.bySett (s : State) (w : Who) (l : List KvPair) : Except KvqBad (KMap (List KvPair)) :=
  l.foldl (fun acc x => match acc with
    | .error e => .error e
    | .ok m => match s.unitRes w x.key 32 false true with
      | .error e => .error (e.atVa x.key)
      | .ok r =>
        let d := descOf (s.readMs r.loc 32)
        if isWindow d.page then .error ((badAt .xlate d.page).atVa x.key)
        else match s.resolve w.tm d.page with
          | none => .error ((badAt (s.xlateCause (s.partOf w.tm) d.page) d.page).atVa x.key)
          | some _ => let st := s.settOf w.tm d.page; .ok (kput m st (kgetD m st [] ++ [x]))) (.ok [])

/-- The mb object that a list names passes its checks (R261, R270). -/
def State.kvqMb (s : State) (w : Who) (mb : Option DWord) : Except KvqBad Unit :=
  match mb with
  | none => .ok ()
  | some a => match s.mbCheck w a with
    | .error e => .error (e.atVa a)
    | .ok _ => .ok ()

/-- The list of a request as it is read at acceptance: the mb object it names, and its pairs or what fails (R257, R261). -/
def State.kvqList (s : State) (w : Who) (q : Kvq) : Option DWord × Except KvqBad (List KvPair × State) :=
  match s.unitRead w q.list 16 false with
  | .error e => (none, .error (e.atVa q.list))
  | .ok (h, s1) =>
    let a := BitVec.ofNat 64 (leNat (h.take 8))
    let n := leNat (h.drop 8)
    let mb := if a = 0 then none else some a
    (mb, match s1.kvqMb w mb with
    | .error e => .error e
    | .ok _ =>
      if n = 0 ∨ 4096 < n then .error (kvqAt .badOperand q.list)
      else match s1.unitRead w (q.list + 16) (16 * n) false with
        | .error e => .error (e.atVa q.list)
        | .ok (bs, s2) => match s2.kvqRecord w q.qrec with
          | .error e => .error e
          | .ok (_, s3) =>
            let at_ := fun i => BitVec.ofNat 64 (leNat ((bs.drop (8 * i)).take 8))
            .ok ((List.range n).map (fun i => { key := at_ (2 * i), val := at_ (2 * i + 1) }), s3))

/-- What ends a request, as it keeps it until the cause is delivered. -/
def KvqBad.kept (e : KvqBad) : Cause × DWord × Option (Acc × Bool) := (e.1.cause, e.2, e.1.race)

/-- A request is accepted: its list is read, its pages are pinned, and its pairs go to their Setts (R257, R258). What fails then
ends the request later (R261). -/
def State.acceptKvq (s : State) (q : Kvq) : State :=
  let w := settWho q.tm q.id q.clk (s.settOf q.tm q.list)
  let put := fun (s : State) (x : Kvq) => { s with kvqs := s.kvqs ++ [{ x with clk := w.tick }] }
  let bad := fun (s : State) (x : Kvq) (e : KvqBad) => put (s.badRecords q.tm w.source e.1) { x with failed := some e.kept }
  match s.kvqList w q with
  | (mb, .error e) => bad s { q with mb := mb } e
  | (mb, .ok (l, s1)) =>
    let (pins, x, s2) := s1.pinAll w (l.flatMap (fun x => [(x.key, 0), (x.val, 1)]))
    let q1 := { q with mb := mb, pins := pins }
    match x with
    | some e => bad s2 q1 e
    | none => match s2.bySett w l with
      | .error e => bad s2 q1 e
      | .ok m => put s2 { q1 with todo := m }

/-- The mb object that a thread's `kvq` will name, and the checks before it is taken (R257, Table 6-2). -/
def State.kvqTry (s : State) (k tile : Nat) (qv lv : DWord) : Try Unit :=
  let tm := keyTm k
  if qv.toNat % 32 ≠ 0 then .trap .align qv
  else if lv.toNat % 16 ≠ 0 then .trap .align lv
  else if !(s.team tm).owner.getLsbD tile then .trap .owner 0
  else if !(s.thr k).reached 0 then .park (.reach 0)
  else
    let n := match s.resolve tm (lv + 8) with
      | some r => leNat (s.readMs r.loc 8)
      | none => 0
    match (s.linesOf tm qv 288 ++ s.linesOf tm lv (16 + 16 * min n 4096)).find? (fun l => (s.team l.1).absent.contains l.2) with
    | some l => .park (.line l.1 l.2)
    | none => .ok ()

/-- The attempt of one thread of `kvq` (R257). -/
def kvqStep (d : BitVec 7) (a b : Src) (s : State) (k : Nat) : Try State :=
  let qv := s.plainA k a
  let lv := s.plainA k b
  tryThen (s.soundOps k [a, b]) fun _ => s.lateLine k (tryThen (s.kvqTry k d.toNat qv lv) fun _ =>
    let clk := (s.team (keyTm k)).givenTo [d.toNat] (s.thr k).clk
    .ok ({ s with nextId := s.nextId + 1 }.acceptKvq
      { id := s.nextId, tm := keyTm k, thread := k, tile := d.toNat, qrec := qv, list := lv, mb := none, pins := [], todo := [],
        triples := [], merged := none, failed := none, clk := clk }))

/-- KVQ: sends a decode request to the Setts (R257). -/
def execKvq (p : Pfx) (d : BitVec 7) (a b : Src) (s : State) : Out :=
  withIssue .aOnly false p (fun s c => recOk a && recOk b && decide (d.toNat < 64) && decide (d.toNat < (s.team c.tm).lim.tiles)) s fun c act =>
    s.runSeq c act p id (kvqStep d a b)

/-- Changes a request. -/
def State.modKvq (s : State) (id : Nat) (f : Kvq → Kvq) : State := { s with kvqs := s.kvqs.map (fun q => if q.id = id then f q else q) }

/-- A Sett's triple before its first pair (R258). -/
def freshTriple : Triple := { m := BitVec.ofNat 40 negInf40, l := 0, o := [], flags := 0, n := 0 }

/-- The value and key elements of token j of a page: halves. -/
def pageHalf (bs : List Byte) (j e : Nat) : Nat := leNat ((bs.drop (256 * j + 2 * e)).take 2)

/-- The score of a key token against a query (R258), and its flags. -/
def Query.score (q : Query) (f : Fm) (ks : List Nat) : Nat × BitVec 5 :=
  let (dt, nv) := dotV ((q.qv.zip ks).map (fun e => (q.fm.decode e.1, f.decode e.2)))
  let (x, nv2) := vMul (Fm.f32.decode q.c) dt
  intoFx 0 (x, nv || nv2)

/-- The 128 elements of token j of a key page, rotated (R249, R258). -/
def keyToken (d : Desc) (freqs : List Byte) (page : List Byte) (j : Nat) : List Nat :=
  (List.range 64).flatMap (fun i =>
    let (y0, y1) := rotatePair d.fm (leNat ((freqs.drop (4 * i)).take 4)) (d.posOf j) (pageHalf page j (2 * i)) (pageHalf page j (2 * i + 1))
    [y0, y1])

/-- A pair folded into a triple (R258). -/
def Triple.fold (t : Triple) (q : Query) (kd vd : Desc) (freqs kp vp : List Byte) : Triple :=
  let js := (List.range 16).filter (fun j => !(q.causal && decide (q.qpos < kd.posOf j)))
  let xs := js.map (fun j => q.score kd.fm (keyToken kd freqs kp j))
  let g := foldScores false 0 t.m.toNat t.l.toNat (xs.map (·.1))
  let os := (List.range 128).map (fun e =>
    intoFx 0 (dotV ((g.alpha, fx (kgetD t.o e 0).toNat) :: (g.ps.zip js).map (fun x => (x.1, vd.fm.decode (pageHalf vp x.2 e))))))
  { m := BitVec.ofNat 40 g.m, l := BitVec.ofNat 40 g.l,
    o := (List.range 128).map (fun e => (e, BitVec.ofNat 40 (os.getD e (0, 0)).1)),
    flags := os.foldl (fun a x => a ||| x.2) (xs.foldl (fun a x => a ||| x.2) (t.flags ||| g.flags)), n := t.n + js.length }

/-- A page of a pair for a pass: checked, then read (R258, R261, R263). -/
def State.kvqPage (s : State) (w : Who) (va : DWord) (d : Desc) : Except (KvqBad × State) (List Byte × State) :=
  match s.unitRead w d.page 4096 false with
  | .error e => .error (e.atVa va, s)
  | .ok (bs, s1) =>
    match s1.pageCheck w va d with
    | (none, s2) => .ok (bs, s2)
    | (some v, s2) => .error ((badAt .integrity v).atVa va, s2)

/-- A pass of a pair: everything it reads, and the triple after it. -/
def State.pairPass (s : State) (w : Who) (q : Kvq) (x : KvPair) (t : Triple) : Except (KvqBad × State) (Triple × State) :=
  match s.kvqRecord w q.qrec with
  | .error e => .error (e, s)
  | .ok (qu, s1) => match s1.kvqDesc w x.key 0 with
    | .error e => .error (e, s)
    | .ok (kd, s2) => match s2.kvqDesc w x.val 1 with
      | .error e => .error (e, s)
      | .ok (vd, s3) => match s3.kvqPage w x.key kd with
        | .error e => .error e
        | .ok (kp, s4) => match s4.unitRead w (s4.freqAddr (s4.partOf q.tm) kd.freq 0) 256 false with
          | .error e => .error (e.atVa x.key, s4)
          | .ok (fs, s5) => match s5.kvqPage w x.val vd with
            | .error e => .error e
            | .ok (vp, s6) => .ok (t.fold qu kd vd fs kp vp, s6)

/-- A request stops: its failure is delivered with KVQ_FAIL (R261). -/
def State.stopKvq (s : State) (q : Kvq) (w : Who) (e : KvqBad) : State :=
  (s.badRecords q.tm w.source e.1).modKvq q.id (fun x => { x with failed := some e.kept, clk := w.tick })

/-- SETT_PAIR_PASS: a Sett scores the next of a request's pairs at it and folds it into its triple (R258, R262). -/
def execSettPairPass (id sett : Nat) (s : State) : Out :=
  if !s.power then .fault .poweredOff
  else match s.kvqs.find? (fun q => q.id == id && q.failed.isNone) with
  | none => .refused (.notEnabled "SETT_PAIR_PASS")
  | some q => match kgetD q.todo sett [] with
    | [] => .refused (.notEnabled "SETT_PAIR_PASS")
    | x :: rest =>
      let w := settWho q.tm q.id q.clk sett
      match s.pairPass w q x ((kget q.triples sett).getD freshTriple) with
      | .error (e, s1) => .next (s1.stopKvq q w e)
      | .ok (t, s1) => .next (s1.modKvq id (fun y =>
          { y with todo := if rest.isEmpty then kdel y.todo sett else kput y.todo sett rest, triples := kput y.triples sett t,
                   clk := w.tick }))

/-- Two triples merged, as a row of `smrg` with no flush (R242, R258, R259). -/
def Triple.merge (a b : Triple) : Triple :=
  let g := mergeState 0 a.m.toNat a.l.toNat b.m.toNat b.l.toNat
  let os := (List.range 128).map (fun e => mergeElem 0 g (kgetD a.o e 0).toNat (kgetD b.o e 0).toNat)
  { m := BitVec.ofNat 40 g.m, l := BitVec.ofNat 40 g.l,
    o := (List.range 128).map (fun e => (e, BitVec.ofNat 40 (os.getD e (0, 0)).1)),
    flags := os.foldl (fun x y => x ||| y.2) (a.flags ||| b.flags ||| g.flags), n := a.n + b.n }

/-- RETURN_MERGE: the return network folds the next triple, in ascending Sett number (R259). -/
def execReturnMerge (id : Nat) (s : State) : Out :=
  if !s.power then .fault .poweredOff
  else match s.kvqs.find? (fun q => q.id == id && q.failed.isNone && q.todo.isEmpty) with
  | none => .refused (.notEnabled "RETURN_MERGE")
  | some q => match q.triples with
    | [] => .refused (.notEnabled "RETURN_MERGE")
    | (_, t) :: rest => .next (s.modKvq id (fun y =>
        { y with triples := rest, merged := some (match y.merged with | none => t | some m => m.merge t) }))

/-- A value of a triple as f32, with its flags (R259). -/
def toF32 (x : BitVec 40) : Nat × BitVec 5 :=
  let c := convert .f32 0 0 0 (fx x.toNat) 0
  (c.code, c.flags)

/-- The result record of a merged triple (Table 14-6). -/
def Triple.bytes (t : Triple) : List Byte :=
  let m := toF32 t.m
  let l := toF32 t.l
  let os := (List.range 128).map (fun e => toF32 (kgetD t.o e 0))
  let fl := os.foldl (fun a x => a ||| x.2) (t.flags ||| m.2 ||| l.2)
  leBytes 4 m.1 ++ leBytes 4 l.1 ++ leBytes 4 (fl.toNat + (if isNegInf t.m.toNat then 256 else 0)) ++ leBytes 4 t.n ++
    os.flatMap (fun x => leBytes 4 x.1)

/-- A tile goes back to threads, with what the engine knew (R123, R260). -/
def State.flipBack (s : State) (tm tile : Nat) (clk : Clock) : State :=
  s.modTeam tm (fun t => { t with owner := setBit t.owner tile false, flips := kput t.flips tile (clkJoin (kgetD t.flips tile []) clk) })

/-- A request ends: its tile goes back and its pins are dropped. -/
def State.endKvq (s : State) (q : Kvq) (w : Who) : State :=
  let s1 := (s.flipBack q.tm q.tile w.tick)
  let s2 := q.pins.foldl (fun s va => s.unpin w va) s1
  { s2 with kvqs := s2.kvqs.filter (fun x => x.id != q.id) }

/-- Address of a tile in the local window. -/
def tileVa (t : Nat) : DWord := localWin + BitVec.ofNat 64 (16384 * t)

/-- KVQ_COMPLETE: the record is written, the tile flipped to threads, the pins dropped and 528 bytes counted (R259, R260). -/
def execKvqComplete (id : Nat) (s : State) : Out :=
  if !s.power then .fault .poweredOff
  else match s.kvqs.find? (fun q => q.id == id && q.failed.isNone && q.todo.isEmpty && q.triples.isEmpty) with
  | none => .refused (.notEnabled "KVQ_COMPLETE")
  | some q => match q.merged with
    | none => .refused (.notEnabled "KVQ_COMPLETE")
    | some t =>
      let w := settWho q.tm q.id q.clk (s.settOf q.tm q.list)
      match s.unitResAll w [(tileVa q.tile, 528)] true false with
      | .error e => .next (s.stopKvq q w (e.atVa q.qrec))
      | .ok l => match q.mb with
        | none => .next ((s.unitPut w l t.bytes false).endKvq q w)
        | some a => match s.mbCheck w a with
          | .error e => .next (s.stopKvq q w (e.atVa a))
          | .ok r => .next (((s.unitPut w l t.bytes false).endKvq q w).mbCount { w with clk := w.tick } r 528)

/-- KVQ_FAIL: a failed request drops its pins and flips its tile; its cause is held for the issuer (R261). -/
def execKvqFail (id : Nat) (s : State) : Out :=
  if !s.power then .fault .poweredOff
  else match s.kvqs.find? (fun q => q.id == id) with
  | none => .refused (.notEnabled "KVQ_FAIL")
  | some q => match q.failed with
    | none => .refused (.notEnabled "KVQ_FAIL")
    | some (c, va, race) =>
      let w := settWho q.tm q.id q.clk (s.settOf q.tm q.list)
      .next ((s.endKvq q w).owe q.thread
        { id := q.id, cause := c, faddr := va, mb := q.mb.bind (fun a => (s.resolve q.tm a).map (·.loc)), mbVa := q.mb, tile := some q.tile, lines := [], send := false, race := race })

end Sys2Proof.Machine
end

