-- ==== Sys2Proof/Machine/BearMath.lean ====
section
/-! DEFINITION. The arithmetic of the Bear: operands of `mma` and their layout (R227 to R230, R233), k-blocks (R231), scales
(R239), softmax steps on tiles (R241 to R243, R391), readouts (R238, R373) and the accuracy check (R244). -/

namespace Sys2Proof.Machine

/-- Width class of an element format: 1 four bits, 2 six, 3 eight-bit floats, 4 eight-bit integers, 5 sixteen, 6 f32, 7 single bits,
0 none (R230). -/
def fmtClass (c : Byte) : Nat :=
  if c = 0x33 ∨ c = 0x34 then 4
  else if c = 0x35 then 7
  else match narrowFm c with
    | some .e8m0 => 0
    | some f => match f.width with
      | 4 => 1
      | 6 => 2
      | 8 => 3
      | 16 => 5
      | 32 => 6
      | _ => 0
    | none => 0

/-- Bits of an element as its tile or registers hold it; the 4-bit plane for six-bit formats. -/
def classBits : Nat → Nat
  | 1 => 4
  | 2 => 4
  | 3 => 8
  | 4 => 8
  | 5 => 16
  | 6 => 32
  | _ => 1

/-- The value of an element code, after FIZ of its class (R161, R231). -/
def elVal (mode : DWord) (fmt : Byte) (c : Nat) : FVal :=
  match narrowFm fmt with
  | some f => f.input mode c
  | none => if fmt = 0x33 then intVal ((IntTy.mk true 8).read c) else intVal (c : Int)

end Sys2Proof.Machine

namespace Sys2Proof

open Sys2Proof.Machine

/-- k-blocks of an operation. -/
def MmaArgs.blocks (m : MmaArgs) : Nat := m.kb.toNat + 1
/-- First register of B. -/
def MmaArgs.bReg (m : MmaArgs) : Nat := 32 * m.bank.toNat
/-- Whether B has a 2-bit plane. -/
def MmaArgs.six (m : MmaArgs) : Bool := fmtClass m.bfmt == 2

/-- Scratchpad tiles that an operation reads (R228, R229, R233). -/
def MmaArgs.aTiles (m : MmaArgs) : Nat :=
  let k := m.blocks
  if m.sp then 2 * k else if fmtClass m.afmt = 2 then k + ceilDiv k 2 else k

/-- Their numbers. -/
def MmaArgs.tiles (m : MmaArgs) : List Nat := (List.range m.aTiles).map (fun j => m.atile.toNat + j)

/-- The limits of R228 and R229, and the format codes of R156. -/
def MmaArgs.inBounds (m : MmaArgs) (l : Limits) : Bool :=
  let k := m.blocks
  narrowLegal m.afmt && narrowLegal m.bfmt && decide (k ≤ 3) &&
    decide (m.atile.toNat + m.aTiles ≤ min 64 l.tiles) && decide (m.acc.toNat < l.accs) &&
    rangeOk l.vregs m.bReg (32 * k) &&
    (!m.six || (rangeOk l.vregs m.pbase.toNat (16 * k) &&
      (decide (m.pbase.toNat + 16 * k ≤ m.bReg) || decide (m.bReg + 32 * k ≤ m.pbase.toNat))))

/-- The combinations that R230 permits; SEMI 0 standard, 1 min-plus, 2 max-times, 3 or-and. -/
def MmaArgs.legal (m : MmaArgs) (semi : Nat) : Bool :=
  let a := fmtClass m.afmt
  let b := fmtClass m.bfmt
  (m.six || m.pbase == 0) &&
  match semi with
  | 0 => a == b && decide (1 ≤ a ∧ a ≤ 6) && (!m.sp || a == 1 || a == 3 || a == 4 || a == 5)
  | 3 => a == 7 && b == 7 && !m.sp && !m.stage
  | _ => m.afmt == m.bfmt && (a == 5 || a == 6) && !m.sp && !m.stage

/-- The `mma` word (Table 13-3). -/
def MmaArgs.word (m : MmaArgs) (semi : Nat) : Word :=
  37#6 ++ 1#3 ++ m.bank ++ m.kb ++ m.acc ++ BitVec.ofNat 2 semi ++ m.atile ++ 0#3 ++ BitVec.ofBool m.stage ++ BitVec.ofBool m.sp ++ m.cv

/-- Its IMX word. -/
def MmaArgs.imxWord (m : MmaArgs) : Word := 0xFD#8 ++ m.afmt ++ m.bfmt ++ m.pbase

/-- The fields of an `mma` word and its IMX word. -/
def mmaOf (w x : Word) : MmaArgs :=
  { afmt := x.extractLsb' 16 8, bfmt := x.extractLsb' 8 8, pbase := x.extractLsb' 0 8, bank := w.extractLsb' 21 2,
    kb := w.extractLsb' 19 2, acc := w.extractLsb' 16 3, atile := w.extractLsb' 8 6, stage := w.getLsbD 4, sp := w.getLsbD 3,
    cv := w.extractLsb' 0 3 }

/-- The numbers of the registers that a signer latches (R227, R229). -/
def MmaArgs.bRegs (m : MmaArgs) : List Nat :=
  let run := fun r n => (List.range n).map (r + ·)
  run m.bReg (32 * m.blocks) ++ (if m.six then run m.pbase.toNat (16 * m.blocks) else [])

/-- What they hold. -/
def MmaArgs.latch (m : MmaArgs) (t : Thread) : List Word := m.bRegs.map t.getV

/-- Joins the two planes of six-bit elements (R155). -/
def joinPlanes (hi lo : List Nat) : List Nat := (hi.zip lo).map (fun e => e.1 * 4 + e.2)

/-- The positions among set bits: for each bit the value that stands for it, or 0 (R233). -/
def spread (n b : Nat) (bits : Nat) (vals : List Nat) : List Nat :=
  match n with
  | 0 => []
  | n + 1 =>
    if bitsOf bits b 1 = 1 then vals.headD 0 :: spread n (b + 1) bits (vals.drop 1)
    else 0 :: spread n (b + 1) bits vals

/-- The element codes of row i of A for a k-block, from the rows of its tile and of its second tile (R228, R229, R233). -/
def MmaArgs.aRow (m : MmaArgs) (j : Nat) (r r2 : List Byte) : List Nat :=
  let cl := fmtClass m.afmt
  let w := classBits cl
  if m.sp then
    (List.range (32 / w)).flatMap (fun c =>
      let at_ := fun (x : List Byte) => codesOf w 32 ((x.drop (4 * w * c)).take (4 * w))
      spread 64 0 (leNat ((r.drop (128 + 8 * c)).take 8)) (at_ r ++ at_ r2))
  else if cl = 2 then joinPlanes (codesOf 4 512 r) (codesOf 2 512 ((r2.drop (128 * (j % 2))).take 128))
  else codesOf w (2048 / w) r

/-- The second tile of a k-block: the 2-bit plane's or the paired one; the first again where there is none. -/
def MmaArgs.tile2 (m : MmaArgs) (j : Nat) : Nat :=
  if m.sp then m.atile.toNat + m.blocks + j
  else if fmtClass m.afmt = 2 then m.atile.toNat + m.blocks + j / 2
  else m.atile.toNat + j

/-- The latched bytes of column n of B for a k-block: both halves, from word `o` on, `c` words each (R227). -/
def bBytes (b : KMap (List Word)) (n o c : Nat) : List Byte :=
  (List.range 2).flatMap (fun h => wordBytes (((kgetD b (32 * (n / 16) + 16 * h + n % 16) []).drop o).take c))

/-- The element codes of column n of B for a k-block. -/
def MmaArgs.bCol (m : MmaArgs) (b : KMap (List Word)) (j n : Nat) : List Nat :=
  let w := classBits (fmtClass m.bfmt)
  let main := codesOf w (2048 / w) (bBytes b n (32 * j) 32)
  if m.six then joinPlanes main (codesOf 2 512 (bBytes b n (32 * m.blocks + 16 * j) 16)) else main

end Sys2Proof

namespace Sys2Proof.Machine

/-- Least or greatest of some values; NaN if any is. -/
def pickV (mx : Bool) (l : List FVal) : FVal :=
  if l.any FVal.isNan then .nan false
  else match l with
    | [] => .fin false 0 0
    | v :: t => t.foldl (fun a b => if (if mx then vLt true a b else vLt true b a) then b else a) v

/-- An element of a tile after a k-block (R231): `as` and `bs` are the values of its row and column. -/
def mmaElem (semi : Nat) (mode : DWord) (d : Nat) (ps : List (FVal × FVal)) : Nat × BitVec 5 :=
  let dv := Fm.fx40.input mode d
  match semi with
  | 0 =>
    let (x, nv) := dotV ps
    let (y, nv2) := vAdd 0 dv x
    intoFx mode (y, nv || nv2)
  | 3 => if !dv.isNan && ps.any (fun e => e.1 == .fin false 1 0 && e.2 == .fin false 1 0) then (0x3F80000000, 0) else (d, 0)
  | n =>
    let ts := ps.map (fun e => if n = 1 then vAdd 0 e.1 e.2 else vMul e.1 e.2)
    intoFx mode (pickV (n == 2) (dv :: ts.map (·.1)), ts.any (·.2) || dv.isSig)

/-- An element table from a function of row and column; +0 is not listed. -/
def tileOf (f : Nat → Nat → Nat) : KMap (BitVec 40) :=
  (List.range 4096).filterMap (fun e =>
    let v := BitVec.ofNat 40 (f (e / 64) (e % 64))
    if v = 0 then none else some (e, v))

/-- An element of a tile. -/
def AccTile.at_ (t : AccTile) (r n : Nat) : Nat := (kgetD t.elem (64 * r + n) 0).toNat
/-- Row state m. -/
def AccTile.mAt (t : AccTile) (r : Nat) : Nat := (kgetD t.m r (BitVec.ofNat 40 negInf40)).toNat
/-- Row state l. -/
def AccTile.lAt (t : AccTile) (r : Nat) : Nat := (kgetD t.l r 0).toNat

/-- A tile with elements from a table of rows of codes. -/
def AccTile.withRows (t : AccTile) (rows : List (List Nat)) : AccTile := { t with elem := tileOf (fun r n => (rows.getD r []).getD n 0) }

/-- One step of the f32 shadow: s + round(a × b), each rounded rne (R244). -/
def shadowStep (s : Nat) (e : FVal × FVal) : Nat :=
  let p := (Fm.f32.deliverV 0 0 (vMul e.1 e.2).1 false 0).1
  (Fm.f32.deliverV 0 0 (vAdd 0 (Fm.f32.decode s) (Fm.f32.decode p)).1 false 0).1

/-- The shadow of a tile after a k-block of a standard operation that folds into it. -/
def Shadow.block (x : Shadow) (rows cols : List (List FVal)) (first : Bool) : Shadow :=
  { s := (List.range 4096).filterMap (fun e =>
      let v := (((rows.getD (e / 64) []).zip (cols.getD (e % 64) [])).foldl shadowStep (kgetD x.s e 0).toNat)
      if v = 0 then none else some (e, BitVec.ofNat 32 v)),
    ops := if first then x.ops + 1 else x.ops }

/-- A tile before its first k-block: cleared in staging mode (R234); another semiring or staging drops the check (R244). -/
def AccTile.begin (t : AccTile) (semi : Nat) (stage : Bool) : AccTile :=
  { t with elem := if stage then [] else t.elem, shadow := if semi = 0 && !stage then t.shadow else none }

/-- A tile after k-block j, from the bytes of its A tile and second tile (R231). -/
def AccTile.block (t : AccTile) (semi : Nat) (mode : DWord) (m : MmaArgs) (b : KMap (List Word)) (j : Nat) (t1 t2 : List Byte) : AccTile :=
  let row := fun (x : List Byte) i => (x.drop (256 * i)).take 256
  let rows := (List.range 64).map (fun i => (m.aRow j (row t1 i) (row t2 i)).map (elVal mode m.afmt))
  let cols := (List.range 64).map (fun n => (m.bCol b j n).map (elVal mode m.bfmt))
  let out := (List.range 64).map (fun i => (List.range 64).map (fun n => mmaElem semi mode (t.at_ i n) ((rows.getD i []).zip (cols.getD n []))))
  { t.withRows (out.map (fun r => r.map (·.1))) with
    flags := out.foldl (fun f r => r.foldl (fun g e => g ||| e.2) f) t.flags,
    shadow := t.shadow.map (fun x => x.block rows cols (j == 0)) }

/-- f32 word as an fx40 code, exact; `mode` gives FIZS (R238). A signalling NaN stays one (R151). -/
def wordToFx (mode : DWord) (w : Nat) : Nat :=
  match Fm.f32.input mode w with
  | .nan true => bitsOf w 31 1 * 2 ^ 39 + 0xFF * 2 ^ 31 + bitsOf w 0 23 * 2 ^ 8
  | .nan false => Fm.fx40.nan
  | .inf n => Fm.fx40.infOrMax n
  | .fin n m e => (Fm.fx40.round 0 n m e 0).code

/-- Codes of a tile converted for a thread's readout: the words, the flags and the generator; none where the policy faults
(R165, R373). -/
def readOut (rc : Nat) (mode : DWord) (pol : Byte) (l : List Nat) (g : DWord) : Option (List Nat × BitVec 5 × DWord) :=
  match l with
  | [] => some ([], 0, g)
  | x :: t =>
    let (g1, r) := drawIf rc g
    let c := convert .f32 rc mode pol (Fm.fx40.input mode x) r
    if c.fault then none
    else (readOut rc mode pol t g1).map (fun e => (c.code :: e.1, c.flags ||| e.2.1, e.2.2))

/-- Elements rounded one by one under a code, each with its draw (R158). -/
def roundAll (rc : Nat) (mode : DWord) (l : List (FVal × Bool)) (g : DWord) : List Nat × BitVec 5 :=
  match l with
  | [] => ([], 0)
  | (x, nv) :: t =>
    let (g1, r) := drawIf rc g
    let (c, f) := Fm.fx40.deliverV mode rc x nv r
    let (cs, fs) := roundAll rc mode t g1
    (c :: cs, f ||| fs)

/-- Rows of 64 from a list. -/
def rowsOf64 (l : List Nat) : List (List Nat) := (List.range 64).map (fun r => (l.drop (64 * r)).take 64)

/-- A tile after `mscl` (R239): row and column scales as values. -/
def AccTile.scale (d z : AccTile) (rs cs : List FVal) (rc : Nat) (mode : DWord) (g : DWord) : AccTile :=
  let xs := (List.range 4096).map (fun e =>
    let (p, nv) := vMul (Fm.fx40.input mode (z.at_ (e / 64) (e % 64))) (rs.getD (e / 64) (.nan false))
    let (q, nv2) := vMul p (cs.getD (e % 64) (.nan false))
    let (x, nv3) := vAdd rc (Fm.fx40.input mode (d.at_ (e / 64) (e % 64))) q
    (x, nv || nv2 || nv3))
  let (out, fl) := roundAll rc mode xs g
  { d.withRows (rowsOf64 out) with flags := d.flags ||| fl, shadow := none }

/-- The format of `smx`'s probabilities (Table 13-7). -/
def smxFm (fmt : Nat) : Fm := match fmt with | 0 => .bf16 | 1 => .f16 | _ => .b8 4 false false

/-- Probabilities converted, each with its draw; `mode` gives FRZ of the format (R161, R165, R241). -/
def convAll (f : Fm) (rc : Nat) (mode : DWord) (l : List FVal) (g : DWord) : List Nat × BitVec 5 × DWord :=
  match l with
  | [] => ([], 0, g)
  | x :: t =>
    let (g1, r) := drawIf rc g
    let c := convert f rc mode 0 x r
    let (cs, fl, g2) := convAll f rc mode t g1
    (c.code :: cs, c.flags ||| fl, g2)

/-- One row of `smx` (R241, R391): the new m, l and elements, the probabilities' codes, flags and generator. -/
def smxRow (mode : DWord) (rc fmt : Nat) (c : FVal) (o sc : AccTile) (r : Nat) (g : DWord) :
    (Nat × Nat × List Nat) × List Nat × BitVec 5 × DWord :=
  let xs := (List.range 64).map (fun j => intoFx 0 (vMul c (Fm.fx40.input mode (sc.at_ r j))))
  let f := foldScores true mode (o.mAt r) (o.lAt r) (xs.map (·.1))
  let es := (List.range 64).map (fun n => intoFx mode (vMul f.alpha (Fm.fx40.input mode (o.at_ r n))))
  let (ps, pf, g1) := convAll (smxFm fmt) rc mode f.ps g
  let fl := es.foldl (fun a e => a ||| e.2) (xs.foldl (fun a e => a ||| e.2) (f.flags ||| pf))
  ((f.m, f.l, es.map (·.1)), ps, fl, g1)

/-- The rows of `smx` from row r on. -/
def smxRows (mode : DWord) (rc fmt : Nat) (c : FVal) (o sc : AccTile) (n r : Nat) (g : DWord) :
    List ((Nat × Nat × List Nat) × List Nat × BitVec 5) :=
  match n with
  | 0 => []
  | n + 1 =>
    let (x, ps, fl, g1) := smxRow mode rc fmt c o sc r g
    (x, ps, fl) :: smxRows mode rc fmt c o sc n (r + 1) g1

/-- Row states from a list of codes. -/
def stateRows (d : Nat) (l : List Nat) : KMap (BitVec 40) :=
  (List.range 64).filterMap (fun r => if l.getD r d = d then none else some (r, BitVec.ofNat 40 (l.getD r d)))

/-- The output tile after `smx`, and the bytes of the p tile (R241). -/
def AccTile.smx (o sc : AccTile) (mode : DWord) (rc fmt : Nat) (c : Nat) (g : DWord) : AccTile × List Byte :=
  let rs := smxRows mode rc fmt (Fm.f32.input mode c) o sc 64 0 g
  let w := (smxFm fmt).width
  let t := o.withRows (rs.map (fun x => x.1.2.2))
  ({ t with m := stateRows negInf40 (rs.map (fun x => x.1.1)), l := stateRows 0 (rs.map (fun x => x.1.2.1)),
            flags := rs.foldl (fun a x => a ||| x.2.2) o.flags, shadow := none },
   rs.flatMap (fun x => packCodes w x.2.1 ++ List.replicate (256 - 64 * w / 8) 0))

/-- A tile after `smrg` (R242, R391). -/
def AccTile.merge (d x : AccTile) (mode : DWord) : AccTile :=
  let gs := (List.range 64).map (fun r => mergeState mode (d.mAt r) (d.lAt r) (x.mAt r) (x.lAt r))
  let es := (gs.zip (List.range 64)).map (fun e => (List.range 64).map (fun n => mergeElem mode e.1 (d.at_ e.2 n) (x.at_ e.2 n)))
  let t := d.withRows (es.map (fun r => r.map (·.1)))
  { t with m := stateRows negInf40 (gs.map (·.m)), l := stateRows 0 (gs.map (·.l)),
           flags := es.foldl (fun f r => r.foldl (fun g e => g ||| e.2) f) (gs.foldl (fun a g => a ||| g.flags) (d.flags ||| x.flags)),
           shadow := none }

/-- An element divided by l (R243). -/
def finElem (mode : DWord) (x l : FVal) : Nat × BitVec 5 :=
  match x, l with
  | _, .nan p => (Fm.fx40.nan, if p || x.isSig then flNV else 0)
  | .nan p, _ => (Fm.fx40.nan, if p then flNV else 0)
  | .inf _, .inf _ => (Fm.fx40.nan, flNV)
  | .fin n _ _, .inf q => (Fm.fx40.sign (n != q) 0, 0)
  | .inf n, .fin q _ _ => (Fm.fx40.infOrMax (n != q), 0)
  | .fin n m e, .fin q k g => if m = 0 then (Fm.fx40.sign (n != q) 0, 0) else intoFx mode (quotV n m e q k g, false)

/-- Whether a value is a zero. -/
def FVal.isZero : FVal → Bool
  | .fin _ m _ => m == 0
  | _ => false

/-- A tile after `smfin` (R243, R391). -/
def AccTile.finish (t : AccTile) (mode : DWord) : AccTile :=
  let ls := (List.range 64).map (fun r => Fm.fx40.input mode (t.lAt r))
  let es := (ls.zip (List.range 64)).map (fun e => (List.range 64).map (fun n =>
    if e.1.isZero then (0, (0 : BitVec 5)) else finElem mode (Fm.fx40.input mode (t.at_ e.2 n)) e.1))
  let u := t.withRows (es.map (fun r => r.map (·.1)))
  { u with empty := (List.range 64).foldl (fun b r => if (ls.getD r (.nan false)).isZero then setBit b r true else b) t.empty,
           flags := es.foldl (fun f r => r.foldl (fun g e => g ||| e.2) f) t.flags, shadow := none }

/-- The deviation of an element from its shadow, in ulps of the element rounded to f32, rounded up (R244). -/
def deviation (x s : Nat) : Nat :=
  let top := 2 ^ 32 - 1
  match Fm.f32.decode (Fm.f32.deliverV 0 0 (fx x) false 0).1, Fm.f32.decode s with
  | .fin n m e, .fin q k g =>
    let (z, h) := dyAdd (fint n m) e (fint (!q) k) g
    if z = 0 then 0
    else if m = 0 then top
    else
      let u : Int := (Nat.log2 m : Int) + e - 23
      let a := z.natAbs
      min top (if u ≤ h then a * 2 ^ (h - u).toNat else ceilDiv a (2 ^ (u - h).toNat))
  | _, _ => top

/-- The largest deviation of a tile and its element; the first in row order on ties (R244). -/
def AccTile.worst (t : AccTile) (x : Shadow) : Nat × Nat :=
  (List.range 4096).foldl (fun b e =>
    let v := deviation (t.at_ (e / 64) (e % 64)) (kgetD x.s e 0).toNat
    if b.1 < v then (v, e) else b) (0, 0)

end Sys2Proof.Machine
end

