-- ==== Sys2Proof/Machine/Bear.lean ====
section
/-! DEFINITION. The Bear (M 37 and M 38; R222 to R244, R373, R391): convergence registers and signatures, the command order, what
commands do, and continuation blocks (R198 to R202). -/

namespace Sys2Proof.Machine

/-- Accumulator tiles that a command names. -/
def BearOp.accs : BearOp → List Nat
  | .mma _ m _ _ _ _ _ => [m.acc.toNat]
  | .mzero t => [t]
  | .mrdF t _ _ _ _ _ _ _ => [t]
  | .mrdS t _ _ _ _ _ _ => [t]
  | .mwrF t _ _ _ => [t]
  | .mwrS t _ _ => [t]
  | .mscl d z _ _ _ => [d, z]
  | .smx o sc _ _ _ _ => [o, sc]
  | .smrg d sc => [d, sc]
  | .smfin o => [o]

/-- Whether a command computes from all its accumulator tiles and tells its issuer nothing: `mscl`, `smx`, `smrg`, `smfin`. -/
def BearOp.reads : BearOp → Bool
  | .mscl _ _ _ _ _ => true
  | .smx _ _ _ _ _ _ => true
  | .smrg _ _ => true
  | .smfin _ => true
  | _ => false

/-- Whether a command is an `mma`. -/
def BearOp.isMma : BearOp → Bool
  | .mma _ _ _ _ _ _ _ => true
  | _ => false

/-- The attempt of one thread of `mcv` (R222). -/
def mcvTry (d : BitVec 7) (a : Src) (s : State) (k : Nat) : Try State :=
  tryThen (s.readSrcs k [(.int32, a)] (s.rd k)) fun (vs, rd) =>
    let v := (arg vs 0).toNat
    let t := s.team (keyTm k)
    let ix := (List.range 4).map (fun q => bitsOf v (8 * q) 5)
    if (List.range 4).any (fun q => bitsOf v (8 * q + 5) 3 != 0) || (distinct ix).length != 4 || ix.any (fun i => decide (t.gpt ≤ i)) ||
        t.tpg != 32 || !(t.cvReg d.toNat).signed.isEmpty then .trap .badOperand 0
    else
      .ok ((s.putLane k { th := { s.thr k with clk := rd.clk }, p := rd.p }).modTeam (keyTm k) (fun t =>
        { t with cv := kput t.cv d.toNat { declared := ix, first := none, signed := [], clk := [] } }))

/-- MCV: declares the groups of a convergence register and clears its signatures (R222). -/
def execMcv (p : Pfx) (d : BitVec 7) (a : Src) (s : State) : Out :=
  withIssue .eOnly false p (fun s c => srcsOk s c [(.int32, a)] && decide (d.toNat < 8)) s fun c act =>
    s.runSeq c act p id (mcvTry d a)

/-- A command enters a core's order (R235). -/
def State.bearEnter (s : State) (c : Cur) (k : Nat) (mode : DWord) (clk : Clock) (op : BearOp) (tiles : List Nat) : State :=
  let cmd : BearCmd :=
    { id := s.nextId, tm := c.tm, thread := k, gid := c.gid, mode := mode,
      gen := BitVec.ofNat 64 (s.choose (2 ^ 87 + s.nextId) (2 ^ 64)),
      clk := (s.team c.tm).givenTo tiles clk, op := op, tiles := tiles, split := false }
  { s with nextId := s.nextId + 1 }.modCore (s.coreOf c.tm) (fun x => { x with bear := x.bear ++ [cmd] })

/-- Threads park at the issuing instruction until a command of this number is done (R225, R238). -/
def State.parkBear (s : State) (c : Cur) (id : Nat) (ts : List Nat) : State :=
  (ts.foldl (fun s t => s.modThr (c.key t) (fun th => { th with park := .bear id })) s).modGrp c.gid
    (fun g => { g with pc := c.pc, hdr := c.hdr, entering := false })

/-- A thread's signature of an operation (R223): its B registers latched, and its clock moved on so that what it orders is told from what
came before. -/
def State.sign (s : State) (k : Nat) (semi : Nat) (m : MmaArgs) (quarter : Nat) : State :=
  let t := s.thr k
  let n := kgetD t.clk (threadAgent k) 0 + 1
  let clk := kput t.clk (threadAgent k) n
  (s.modThr k (fun t => { t with clk := clk })).modTeam (keyTm k) (fun x =>
    let v := x.cvReg m.cv.toNat
    let w : Cv := { v with first := some (v.first.getD (m.imxWord, m.word semi)), clk := clkJoin v.clk clk,
                           signed := kput v.signed (32 * quarter + t.lane) (m.latch t, k, n) }
    { x with cv := kput x.cv m.cv.toNat w })

/-- Whether an operation on an accumulator tile that has not issued was signed by a thread, or by another before an edge of Table 6-7 to
it: a command that it issues follows that operation (R235). The operation of register `own` is the command itself. -/
def State.signsOn (s : State) (k acc : Nat) (own : Option Nat) : Bool :=
  (s.team (keyTm k)).cv.any (fun e => own != some e.1 &&
    e.2.signed.any (fun x => decide (x.2.2.2 ≤ kgetD (s.thr k).clk (threadAgent x.2.2.1) 0)) && (match e.2.first with
    | some (_, w) => (w.extractLsb' 16 3).toNat == acc
    | none => false))

/-- The operation of a convergence register issues: the holder is the thread whose signature completed the set (R224, R225). -/
def State.mmaIssue (s : State) (c : Cur) (holder : Nat) (semi : Nat) (m : MmaArgs) : State :=
  let v := (s.team c.tm).cvReg m.cv.toNat
  let op := BearOp.mma semi m (m.word semi) m.imxWord (v.signed.map (fun e => (e.1, e.2.1))) 0 none
  let s1 := s.bearEnter c (c.key holder) (s.thr (c.key holder)).mode v.clk op m.tiles
  (s1.modTeam c.tm (fun x => { x with cv := kput x.cv m.cv.toNat { v with first := none, signed := [], clk := [] } })).parkBear c s.nextId
    [holder]

/-- How each thread of a group stands at an `mma` that it does not leave yet: those whose positions another operation still holds wait, the
others have signed (R90, R223). -/
def State.parkSigners (s : State) (c : Cur) (act : List Nat) (late : List (Nat × Cond)) : State :=
  act.foldl (fun s t => s.modThr (c.key t) (fun th =>
    { th with park := ((late.find? (fun e => e.1 == t)).map (fun e => Park.retry e.2)).getD .signedOn })) s

/-- A cause raised at an `mma`: the threads of the group that have signed already have performed it. -/
def State.raiseMma (s : State) (c : Cur) (act : List Nat) (x : Nat → Hit) : Out :=
  .next (s.raise c.gid c.pc c.hdr act (fun t => if (s.thr (c.key t)).park == .signedOn then { s.noHit with done := true } else x t))

/-- What stops a thread that would sign (R226, R131): other words than the first signer's, or an uncorrectable error in its B registers. -/
def State.signHit (s : State) (k : Nat) (m : MmaArgs) (mine first : Word × Word) : Option Hit :=
  if first != mine then some { s.hit .cvMismatch 0 with other := first.1 ++ first.2 } else s.hitOf ((s.thr k).soundRegs m.bRegs)

/-- The checks and signatures of `mma` (R223 to R226): `fresh` are the threads that sign now, `late` those whose positions are signed
already, and a thread that completes the set is the holder. -/
def mmaOp (semi : Nat) (p : Pfx) (m : MmaArgs) (s : State) : Out :=
  withIssue .eOnly false p (fun s c => m.inBounds (s.team c.tm).lim) s fun c act =>
    let cv := m.cv.toNat
    let v := (s.team c.tm).cvReg cv
    let ix := match act with
      | t :: _ => s.groupIx (c.key t)
      | [] => 0
    let quarter := v.declared.findIdx (· == ix)
    let pos := fun t => 32 * quarter + (s.thr (c.key t)).lane
    let mine := (m.imxWord, m.word semi)
    let todo := act.filter (fun t => (s.thr (c.key t)).park != .signedOn)
    let fresh := todo.filter (fun t => (kget v.signed (pos t)).isNone)
    let late := (todo.filter (fun t => (kget v.signed (pos t)).isSome)).map (fun t => (t, Cond.signed cv (pos t)))
    if !m.legal semi then s.raiseMma c act (fun _ => s.hit .mmaFormat 0)
    else if !v.declared.contains ix then s.raiseMma c act (fun _ => s.hit .badOperand 0)
    else
      let odd := fresh.filterMap (fun t => (s.signHit (c.key t) m mine (v.first.getD mine)).map (fun h => (t, h)))
      let holder := fresh.getLastD 0
      let s1 := fresh.foldl (fun s t => s.sign (c.key t) semi m quarter) s
      if !odd.isEmpty then s.raiseMma c act (fun t => ((odd.find? (fun e => e.1 == t)).map (·.2)).getD s.noHit)
      else if fresh.isEmpty || decide ((((s1.team c.tm).cvReg cv).signed).length < 128) then
        .next (if late.isEmpty then s1.retire c else s1.parkSigners c act late)
      else if m.tiles.any (fun t => !(s.team c.tm).owner.getLsbD t) then
        s.raiseMma c act (fun t => if t = holder then s.hit .owner 0 else s.noHit)
      else if s1.signsOn (c.key holder) m.acc.toNat (some cv) then
        .next ((fresh.dropLast.foldl (fun s t => s.sign (c.key t) semi m quarter) s).parkSigners c act
          ((holder, .unissued m.acc.toNat (some cv)) :: late))
      else .next ((s1.parkSigners c act late).mmaIssue c holder semi m)

/-- MMA: the standard semiring (R230, R231). -/
def execMma (p : Pfx) (m : MmaArgs) (s : State) : Out := mmaOp 0 p m s
/-- MMA_MINPLUS (R230, R231). -/
def execMmaMinplus (p : Pfx) (m : MmaArgs) (s : State) : Out := mmaOp 1 p m s
/-- MMA_MAXTIMES (R230, R231). -/
def execMmaMaxtimes (p : Pfx) (m : MmaArgs) (s : State) : Out := mmaOp 2 p m s
/-- MMA_ORAND (R230, R231). -/
def execMmaOrand (p : Pfx) (m : MmaArgs) (s : State) : Out := mmaOp 3 p m s
/-- MMA_STAGE: the standard semiring into a cleared tile (R234). -/
def execMmaStage (p : Pfx) (m : MmaArgs) (s : State) : Out := mmaOp 0 p m s

/-- A command that a group enters once per issue (R235): its accumulator tiles `accs`, its scratchpad tiles, what clears the
destinations of an inactive thread, and what it does with the threads that issue it. -/
def bearOp (p : Pfx) (ok : State → Cur → Bool) (accs tiles : List Nat) (z : Thread → Thread) (body : State → Cur → List Nat → Out)
    (s : State) : Out :=
  withDst .eOnly false p (fun s c =>
      ok s c && accs.all (fun t => decide (t < (s.team c.tm).lim.accs)) && tiles.all (fun t => decide (t < (s.team c.tm).lim.tiles)))
    (fun _ => z) s fun c act =>
    match act.filterMap (fun t => (accs.find? (fun a => s.signsOn (c.key t) a none)).map (fun a => (t, Cond.unissued a none))) with
    | [] =>
      if tiles.any (fun t => !(s.team c.tm).owner.getLsbD t) then s.raiseAll c act .owner 0
      else body s c act
    | w => .next (s.parkAll c act w)

/-- The thread whose mode a whole-tile command samples: the active one of the lowest lane (R391). -/
def Cur.first (c : Cur) (act : List Nat) : Nat := c.key (act.headD 0)

/-- A whole-tile command enters and the group goes on. -/
def State.enterGo (s : State) (c : Cur) (act : List Nat) (op : BearOp) (tiles : List Nat) : Out :=
  let k := c.first act
  let clk := act.foldl (fun x t => clkJoin x (s.thr (c.key t)).clk) []
  .next ((s.bearEnter c k (s.thr k).mode clk op tiles).retire c)

/-- MZERO: clears a tile (R238). -/
def execMzero (p : Pfx) (d : BitVec 7) (s : State) : Out :=
  bearOp p (fun _ _ => decide (d.toNat < 8)) [d.toNat] [] id (fun s c act => s.enterGo c act (.mzero d.toNat) []) s

/-- A readout enters and its threads park until their words arrive (R238). -/
def readOp (p : Pfx) (d : BitVec 7) (t : BitVec 3) (n : Nat) (op : List Nat → List Nat → BearOp) (s : State) : Out :=
  bearOp p (fun s c => rangeOk (s.team c.tm).lim.vregs d.toNat n) [t.toNat] [] (fun t => setVs t d.toNat (List.replicate n 0))
    (fun s c act =>
      let k := c.first act
      let zs := if p.zeroes then (s.inactive c act).map c.key else []
      .next ((s.bearEnter c k (s.thr k).mode [] (op (act.map c.key) zs) []).parkBear c s.nextId act)) s

/-- MRD_F32: 32 elements of each active thread's row (R238, R373). -/
def execMrdF32 (p : Pfx) (d : BitVec 7) (t : BitVec 3) (h i : Bool) (s : State) : Out :=
  readOp p d t 32 (fun ts zs => .mrdF t.toNat h.toNat i.toNat ts zs d.toNat p.rc p.cByte) s

/-- MRD_ST: m, l, flags and EMPTY of each active thread's row (R238, R373). -/
def execMrdSt (p : Pfx) (d : BitVec 7) (t : BitVec 3) (i : Bool) (s : State) : Out :=
  readOp p d t 3 (fun ts zs => .mrdS t.toNat i.toNat ts zs d.toNat p.rc p.cByte) s

/-- A write latches its threads' registers and enters; the words are flushed by each thread's FIZS (R238). -/
def writeOp (p : Pfx) (d : BitVec 7) (t : BitVec 3) (i : Bool) (n flushed : Nat) (op : KMap (List Word) → BearOp) (s : State) : Out :=
  bearOp p (fun s c => rangeOk (s.team c.tm).lim.vregs d.toNat n) [t.toNat] [] id
    (fun s c act =>
      let odd := act.filterMap (fun u => (s.hitOf ((s.thr (c.key u)).soundRegs ((List.range n).map (d.toNat + ·)))).map (fun h => (u, h)))
      if !odd.isEmpty then .next (s.raise c.gid c.pc c.hdr act (fun u => ((odd.find? (fun e => e.1 == u)).map (·.2)).getD s.noHit))
      else
      let rows := act.foldl (fun m u =>
        let th := s.thr (c.key u)
        kput m (32 * i.toNat + th.lane) ((List.range n).map (fun j =>
          let w := th.getV (d.toNat + j)
          if j < flushed then BitVec.ofNat 32 (Fm.f32.flushIn th.mode w.toNat) else w))) []
      s.enterGo c act (op rows) []) s

/-- MWR_F32: 32 elements of each active thread's row (R238). -/
def execMwrF32 (p : Pfx) (d : BitVec 7) (t : BitVec 3) (h i : Bool) (s : State) : Out :=
  writeOp p d t i 32 32 (fun rows => .mwrF t.toNat h.toNat i.toNat rows) s

/-- MWR_ST: m, l, EMPTY and flags (R238). -/
def execMwrSt (p : Pfx) (d : BitVec 7) (t : BitVec 3) (i : Bool) (s : State) : Out :=
  writeOp p d t i 3 2 (fun rows => .mwrS t.toNat i.toNat rows) s

/-- MSCL: adds a staged tile under row and column scales (R239). -/
def execMscl (p : Pfx) (d : BitVec 7) (az : BitVec 3) (b : BitVec 8) (s : State) : Out :=
  let tile := (b.extractLsb' 0 6).toNat
  bearOp p (fun _ _ => decide (d.toNat < 8) && d.toNat != az.toNat && !b.getLsbD 7) [d.toNat, az.toNat] [tile] id
    (fun s c act => s.enterGo c act (.mscl d.toNat az.toNat tile (b.getLsbD 6) (rcOf p.rc (s.thr (c.first act)).mode)) [tile]) s

/-- Whether a source may give the factor of `smx` (R391). -/
def uniformSrc : Src → Bool
  | .sreg _ => true
  | .tr _ => true
  | .imm _ => true
  | .zero => true
  | _ => false

/-- SMX: folds a score tile into an output tile and writes the probabilities (R241, R391). -/
def execSmx (p : Pfx) (d : BitVec 7) (a : Src) (b : BitVec 8) (s : State) : Out :=
  let o := (d.extractLsb' 0 3).toNat
  let sc := (d.extractLsb' 3 3).toNat
  let tile := (b.extractLsb' 0 6).toNat
  let fmt := (b.extractLsb' 6 2).toNat
  bearOp p (fun _ _ => !d.getLsbD 6 && uniformSrc a && o != sc && fmt != 3) [o, sc] [tile] id
    (fun s c act =>
      let k := c.first act
      match s.readSrc k (.flt .f32) a (s.rd k) with
      | .ok (v, _) => s.enterGo c act (.smx o sc tile fmt (v.setWidth 32) (rcOf p.rc (s.thr k).mode)) [tile]
      | _ => s.raiseAll c act .badOperand 0) s

/-- SMRG: merges one tile into another (R242, R391). -/
def execSmrg (p : Pfx) (d : BitVec 7) (aS : BitVec 3) (s : State) : Out :=
  bearOp p (fun _ _ => decide (d.toNat < 8) && d.toNat != aS.toNat) [d.toNat, aS.toNat] [] id
    (fun s c act => s.enterGo c act (.smrg d.toNat aS.toNat) []) s

/-- SMFIN: divides a tile by l (R243, R391). -/
def execSmfin (p : Pfx) (d : BitVec 7) (s : State) : Out :=
  bearOp p (fun _ _ => decide (d.toNat < 8)) [d.toNat] [] id (fun s c act => s.enterGo c act (.smfin d.toNat) []) s

/-- Bytes of a continuation block before its B data (Table 9-6). -/
def contHead : Nat := 0x52C0

/-- Bytes of B data for one k-block of a continuation block. -/
def MmaBlockBytes (m : MmaArgs) : Nat := if m.six then 24576 else 16384

/-- The bytes of a continuation block (Table 9-6): `t` is the tile at the split and `d` the k-blocks done. -/
def contBytes (semi : Nat) (m : MmaArgs) (b : KMap (List Word)) (d : Nat) (t : AccTile) (mode gen : DWord) (owner : BitVec 64) : List Byte :=
  leBytes 4 0x4B584342 ++ leBytes 4 1 ++ leBytes 4 (m.word semi).toNat ++ leBytes 4 m.imxWord.toNat ++
    leBytes 8 (d + m.blocks * 2 ^ 8 + m.atile.toNat * 2 ^ 16 + m.acc.toNat * 2 ^ 24 + m.stage.toNat * 2 ^ 27) ++
    leBytes 8 t.flags.toNat ++ leBytes 8 mode.toNat ++ leBytes 8 owner.toNat ++ leBytes 8 gen.toNat ++ leBytes 8 0 ++
    (List.range 64).flatMap (fun r => leBytes 5 (t.mAt r) ++ leBytes 5 (t.lAt r)) ++
    (List.range 4096).flatMap (fun e => leBytes 5 (t.at_ (e / 64) (e % 64))) ++
    (List.range (m.blocks - d)).flatMap (fun i =>
      let j := d + i
      (List.range 64).flatMap (fun n => bBytes b n (32 * j) 32) ++
        (if m.six then (List.range 64).flatMap (fun n => bBytes b n (32 * m.blocks + 16 * j) 16) else []))

/-- What a continuation block says. -/
structure Cont where
  semi : Nat
  m : MmaArgs
  done : Nat
  t : AccTile
  mode : DWord
  gen : DWord
  ok : Bool
deriving DecidableEq, Repr

/-- The header of a continuation block, and whether its fields agree with Table 9-6 (R202, R237). -/
def contOf (bs : List Byte) (l : Limits) (owner : BitVec 64) : Cont :=
  let at_ := fun o n => leNat ((bs.drop o).take n)
  let w := BitVec.ofNat 32 (at_ 8 4)
  let x := BitVec.ofNat 32 (at_ 12 4)
  let m := mmaOf w x
  let semi := (w.extractLsb' 14 2).toNat
  let f := at_ 0x10 8
  let ok := at_ 0 4 == 0x4B584342 && at_ 4 4 == 1 && m.word semi == w && m.imxWord == x &&
    f == bitsOf f 0 8 + m.blocks * 2 ^ 8 + m.atile.toNat * 2 ^ 16 + m.acc.toNat * 2 ^ 24 + m.stage.toNat * 2 ^ 27 &&
    decide (bitsOf f 0 8 < m.blocks) && decide (at_ 0x18 8 < 32) && at_ 0x38 8 == 0 && m.inBounds l && m.legal semi &&
    m.tiles.all (fun t => owner.getLsbD t)
  { semi := semi, m := m, done := bitsOf f 0 8, mode := BitVec.ofNat 64 (at_ 0x20 8), gen := BitVec.ofNat 64 (at_ 0x30 8), ok := ok,
    t := { freshAcc.withRows (rowsOf64 ((List.range 4096).map (fun e => at_ (0x2C0 + 5 * e) 5))) with
      m := stateRows negInf40 ((List.range 64).map (fun r => at_ (0x40 + 10 * r) 5)),
      l := stateRows 0 ((List.range 64).map (fun r => at_ (0x45 + 10 * r) 5)), flags := BitVec.ofNat 5 (at_ 0x18 8) } }

/-- The latched B data that a continuation block carries for its remaining k-blocks; those done are not needed. -/
def Cont.bData (x : Cont) (bs : List Byte) : KMap (List Word) :=
  let k := x.m.blocks
  let sz := MmaBlockBytes x.m
  (List.range 128).map (fun pos =>
    let n := 16 * (pos / 32) + pos % 16
    let h := pos % 32 / 16
    let main := (List.range k).flatMap (fun j =>
      if j < x.done then List.replicate 32 0 else bytesWords 32 (bs.drop (sz * (j - x.done) + 256 * n + 128 * h)))
    let low := (List.range k).flatMap (fun j =>
      if j < x.done then List.replicate 16 0 else bytesWords 16 (bs.drop (sz * (j - x.done) + 16384 + 128 * n + 64 * h)))
    (pos, if x.m.six then main ++ low else main))

/-- What reading a block met, as an attempt of the thread. -/
def Bad.try_ {α : Type} (b : Bad) : Try α :=
  match b.race with
  | some (e, w) => .raced b.va e w
  | none => .trap b.cause b.va

/-- A continuation read and checked for a thread: the operation to enter and the state after the read. -/
def State.contTry (s : State) (k : Nat) (va : DWord) : Try (Cont × KMap (List Word) × State) :=
  let tm := keyTm k
  let w : Who := { tm := tm, agent := unitAgent s.nextId, clk := (s.thr k).clk, source := s.srcCore (s.coreOf tm), kind := 2, thread := 0 }
  let s0 : State := { s with nextId := s.nextId + 1 }
  match s0.unitRead w va contHead false with
  | .error e => e.try_
  | .ok (bs, s1) =>
    let x := contOf bs (s.team tm).lim (s.team tm).owner
    if !x.ok then .trap .badContinuation 0
    else if s.signsOn k x.m.acc.toNat none then .park (.unissued x.m.acc.toNat none)
    else match s1.unitRead w (va + BitVec.ofNat 64 contHead) ((x.m.blocks - x.done) * MmaBlockBytes x.m) false with
      | .error e => e.try_
      | .ok (ds, s2) => .ok (x, x.bData ds, s2)

/-- The step of one thread of `mcont`: the operation enters and the thread parks as its holder (R237). -/
def mcontTry (a : Src) (c : Cur) (s : State) (k : Nat) : Try State :=
  tryThen (s.readSrc k .int64 a (s.rd k)) fun (va, _) => tryThen (s.contTry k va) fun (x, b, s1) =>
    let op := BearOp.mma x.semi x.m (x.m.word x.semi) x.m.imxWord b x.done (some x.t)
    let s2 := s1.bearEnter c k x.mode (s1.thr k).clk op x.m.tiles
    let id := s1.nextId
    .ok ((s2.modCore (s2.coreOf c.tm) (fun y => { y with bear := y.bear.map (fun e => if e.id = id then { e with gen := x.gen } else e) })).parkBear
      c id [keyIx k])

/-- MCONT: resumes a continuation block; the issuing thread becomes the holder (R237, R202). -/
def execMcont (p : Pfx) (a : Src) (s : State) : Out :=
  withIssue .eOnly false p (fun _ c => brxOk c.side a) s fun c act =>
    let (rs, done) := s.seqTry c act (mcontTry a c)
    s.settle c act rs (.next done)

/-- A park that keeps the group of an `mma` or a readout at it: the command is not done, or the thread has not signed. -/
def Park.atBear (p : Park) : Bool :=
  match p with
  | .bear _ => true
  | .retry _ => true
  | _ => false

/-- The threads of a command that is done go on; a group of which none still waits has completed its instruction. -/
def State.bearWake (s : State) (id : Nat) (ks : List Nat) : State :=
  let mine := ks.filter (fun k => (s.thr k).park == .bear id)
  let s1 := mine.foldl (fun s k => s.modThr k (fun t => { t with park := .signedOn })) s
  (distinct (mine.filterMap (fun k => s.groupOf (keyTm k) (keySide k) (keyIx k)))).foldl (fun s gid =>
    let g := s.grp gid
    if g.members.any (fun t => (s.thr (g.key t)).park.atBear) then s
    else
      let d := s.afterSeq g.tm g.pc g.hdr g.priv
      ((s.completed g.tm g.side g.members g.priv).modGrp gid (Group.goto d)).arriveHdr gid (Config.splitDepth + 1)) s1

/-- A command leaves the order; a tile that no accepted command names any more goes back to threads (R236). -/
def State.bearLeave (s : State) (core : Nat) (c : BearCmd) (flip : Bool) : State :=
  let s1 := s.modCore core (fun x => { x with bear := x.bear.filter (fun e => e.id != c.id) })
  if flip then
    let clk := kput c.clk (unitAgent c.id) (kgetD c.clk (unitAgent c.id) 0 + 1)
    (distinct c.tiles).foldl (fun s t => if s.tileNamed c.tm t then s else s.flipBack c.tm t clk) s1
  else s1

/-- Whether a command is not saved: its team runs or is stopped by the debugger, and the group of an `mma` has not been saved. -/
def State.bearLive (s : State) (c : BearCmd) : Bool :=
  let m := (s.team c.tm).mode
  (m == .running || m == .stopped || m == .retired) && (!c.op.isMma || (match s.groupOf c.tm (keySide c.thread) (keyIx c.thread) with
    | some g => !(s.grp g).saved
    | none => true))

/-- Whether a command may run: nothing of a cluster that is being saved does (R185). -/
def State.bearRuns (s : State) (c : BearCmd) : Bool := !s.saving c.tm && s.bearLive c

/-- The commands that no earlier command on their accumulator tiles holds back (R235), nor an operation of their team that a pre-emption has
split (R199). -/
def bearFree : List BearCmd → List BearCmd → List BearCmd
  | _, [] => []
  | seen, c :: t =>
    let rest := bearFree (seen ++ [c]) t
    if seen.any (fun e => e.tm == c.tm && (e.split || e.op.accs.any (fun a => c.op.accs.contains a))) then rest else c :: rest

/-- The command of a kind that the Bear takes up next: commands on different tiles may overlap, so any of the free ones. -/
def State.bearNext (s : State) (core : Nat) (mma : Bool) : Option BearCmd :=
  let l := (bearFree [] (s.core core).bear).filter (fun c => c.op.isMma == mma && s.bearRuns c)
  l[s.choose (2 ^ 88 + core) l.length]?

/-- A command as the performer of accesses (Table 6-9). -/
def State.whoBear (s : State) (core : Nat) (c : BearCmd) : Who :=
  { tm := c.tm, agent := unitAgent c.id, clk := c.clk, source := s.srcCore core, kind := 2, thread := 0 }

/-- Changes an accumulator tile of a team. -/
def State.modAcc (s : State) (tm t : Nat) (f : AccTile → AccTile) : State :=
  s.modTeam tm (fun x => { x with accs := kput x.accs t (f (x.accTile t)) })

/-- The words of an accumulator tile are all written: an uncorrectable error in them is gone (R131). -/
def State.cleanAcc (s : State) (tm t : Nat) : State := { s with badAcc := s.badAcc.filter (fun e => e != (tm, t)) }

/-- An error in an accumulator tile or in latched B data, which no address names (R131). -/
def accBad : Bad := badAt .integrity 0

/-- The records of a cause that a command meets: a machine check of the accumulator store, whose array index is the tile's number on the
core, or those of the address (R131, R307). -/
def State.bearRecords (s : State) (core : Nat) (c : BearCmd) (acc : Nat) (b : Bad) : State :=
  if b = accBad then s.machineCheck (s.partOf c.tm) (s.srcCore core) 5 1 ((s.team c.tm).abase + acc) else s.badRecords c.tm (s.srcCore core) b

/-- n k-blocks of an operation from block j on: the tile after them, or the cause met, with the blocks done before it. -/
def State.runBlocks (s : State) (w : Who) (semi : Nat) (mode : DWord) (m : MmaArgs) (b : KMap (List Word)) (n j : Nat) (t : AccTile) :
    Except (Nat × Bad) (AccTile × State) :=
  match n with
  | 0 => .ok (t, s)
  | n + 1 => if s.badAcc.contains (w.tm, m.acc.toNat) then .error (j, accBad) else match s.unitRead w (tileVa (m.atile.toNat + j)) 16384 false with
    | .error e => .error (j, e)
    | .ok (t1, s1) => match (if m.tile2 j = m.atile.toNat + j then .ok (t1, s1) else s1.unitRead w (tileVa (m.tile2 j)) 16384 false : Except Bad (List Byte × State)) with
      | .error e => .error (j, e)
      | .ok (t2, s2) => s2.runBlocks w semi mode m b n (j + 1) (t.block semi mode m b j t1 t2)

/-- The tile that an operation starts from: the accumulator, or what a continuation loads, with EMPTY kept (R234, R237). -/
def AccTile.start (t : AccTile) (semi : Nat) (m : MmaArgs) (done : Nat) (split : Bool) (load : Option AccTile) : AccTile :=
  let u := match load with
    | some x => { x with empty := t.empty, shadow := none }
    | none => t
  let v := if done = 0 then u.begin semi m.stage else { u with shadow := if semi = 0 && !m.stage then u.shadow else none }
  if split then { v with shadow := none } else v

/-- What n more k-blocks of a command that is an operation give: its tile and the state after them, or the cause met, with the blocks done
before it (R231, R234, R237). -/
def State.bearRun (s : State) (core : Nat) (c : BearCmd) (n : Nat) : Except (Nat × Bad) (AccTile × State) :=
  match c.op with
  | .mma semi m _ _ b done load =>
    let s1 := if (m.stage && done == 0) || load.isSome then s.cleanAcc c.tm m.acc.toNat else s
    s1.runBlocks (s1.whoBear core c) semi c.mode m b n done (((s1.team c.tm).accTile m.acc.toNat).start semi m done c.split load)
  | _ => .error (0, accBad)

/-- MMA_COMPLETE: the Bear runs the k-blocks that an operation has left, and its holder goes on (R225, R231). -/
def execMmaComplete (core : Nat) (s : State) : Out :=
  if !s.power then .fault .poweredOff
  else match s.bearNext core true with
  | none => .refused (.notEnabled "MMA_COMPLETE")
  | some c => match c.op with
    | .mma _ m _ _ _ done _ =>
      match s.bearRun core c (m.blocks - done) with
      | .error _ => .refused (.notEnabled "MMA_COMPLETE")
      | .ok (u, s1) => .next (((s1.modAcc c.tm m.acc.toNat (fun _ => u)).bearLeave core c true).bearWake c.id [c.thread])
    | _ => .refused (.notEnabled "MMA_COMPLETE")

/-- The continuation block is written to the area of the tile (R200). -/
def State.writeCont (s : State) (w : Who) (va : DWord) (bs : List Byte) : State :=
  match s.unitStore w va bs false with
  | .ok s1 => s1
  | .error _ => s

/-- BEAR_FAULT: an operation stops at the boundary after `blocks` k-blocks, because a tile of the next one meets a cause or its
latched data holds an uncorrectable error; the continuation block is written and the holder takes the fault (R198, R200, R237). -/
def execBearFault (core blocks : Nat) (s : State) : Out :=
  if !s.power then .fault .poweredOff
  else match s.bearNext core true with
  | none => .refused (.notEnabled "BEAR_FAULT")
  | some c => match c.op, s.groupOf c.tm (keySide c.thread) (keyIx c.thread) with
    | .mma semi m _ _ b done _, some gid =>
      if blocks < done ∨ m.blocks ≤ blocks ∨ !s.awake gid then .refused (.notEnabled "BEAR_FAULT")
      else
        match s.bearRun core c (blocks - done) with
        | .error _ => .refused (.notEnabled "BEAR_FAULT")
        | .ok (u, s1) =>
          let w := s.whoBear core c
          let u := { u with shadow := none }
          let bad := match s1.runBlocks w semi c.mode m b 1 blocks u with
            | .error (_, e) => e
            | .ok _ => accBad
          let va := (s.team c.tm).mcb + BitVec.ofNat 64 (98304 * m.acc.toNat)
          let s2 := (s1.modAcc c.tm m.acc.toNat (fun _ => u)).writeCont w va (contBytes semi m b blocks u c.mode c.gen (s.team c.tm).owner)
          let s3 := (s2.bearRecords core c m.acc.toNat bad).bearLeave core c false
          let x : Hit := match bad.race with
            | some (e, wr) => s.raceHit va e wr
            | none => { s.hit bad.cause va with owed := .request c.id }
          let here := s.placeOf gid
          .next (s3.raise gid here.pc here.hdr (s.activeAt gid) (fun u => if u = keyIx c.thread then x else s.noHit))
    | _, _ => .refused (.notEnabled "BEAR_FAULT")

/-- Whether a tile cleared by `mzero` is the one of its N that the partition checks; which one of them is free (R244). -/
def State.bearPicked (s : State) (p : Nat) : Bool :=
  let q := s.part p
  let n := 2 ^ (q.bchk.extractLsb' 0 5).toNat
  q.bchk.getLsbD 8 && q.mzeros % n == Config.pick (2 ^ 90 + p * 2 ^ 40 + q.mzeros / n) n % n

/-- `mzero` takes effect, and the tile may be chosen for the accuracy check (R238, R244). -/
def State.bearZero (s : State) (tm t : Nat) : State :=
  let p := s.partOf tm
  let pick := s.bearPicked p
  ((s.cleanAcc tm t).modAcc tm t (fun _ => { freshAcc with shadow := if pick then some { s := [], ops := 0 } else none })).modPart p
    (fun q => { q with mzeros := q.mzeros + 1 })

/-- The accuracy check of a tile at its first readout after at least one checked `mma` (R244). -/
def State.bearCheck (s : State) (core tm t k : Nat) : State :=
  let a := (s.team tm).accTile t
  match a.shadow with
  | some x =>
    if x.ops = 0 then s
    else
      let (dev, e) := a.worst x
      (s.modAcc tm t (fun y => { y with shadow := none })).telemetry (s.partOf tm)
        { gtc := s.gtc, w1 := BitVec.ofNat 64 (s.srcCore core * 2 ^ 48 + 0x21 * 2 ^ 40 + t * 2 ^ 32 + x.ops),
          w2 := BitVec.ofNat 64 (dev * 2 ^ 32 + e / 64 * 2 ^ 16 + e % 64), w3 := (s.task (s.taskOf k)).taskId }
  | none => s

/-- Threads that read a tile take a cause at the instruction where they wait (R131, R188, R373). -/
def State.bearRaise (s : State) (ks : List Nat) (x : Nat → Hit) : Out :=
  match ks with
  | [] => .next s
  | k :: _ => match s.groupOf (keyTm k) (keySide k) (keyIx k) with
    | none => .next s
    | some gid =>
      let here := s.placeOf gid
      .next (s.raise gid here.pc here.hdr (ks.map keyIx) x)

/-- Delivers a readout of n words of tile t to its threads: the codes that each thread's row gives and the words after them; `zs` are
written 0. -/
def State.bearDeliver (s : State) (core : Nat) (c : BearCmd) (t : Nat) (ks zs : List Nat) (d n rc : Nat) (pol : Byte)
    (codes : Nat → List Nat) (tail : Nat → List Word) : Out :=
  let out := ks.map (fun k => let t := s.thr k; (k, readOut (rcOf rc t.mode) t.mode pol (codes k) t.gen))
  if s.badAcc.contains (c.tm, t) then
    ((s.bearRecords core c t accBad).bearLeave core c true).bearRaise ks (fun _ => { s.hit .integrity 0 with owed := .request c.id })
  else if out.any (fun e => e.2.isNone) then
    (s.bearLeave core c true).bearRaise ks (fun u => if out.any (fun e => keyIx e.1 == u && e.2.isNone) then s.hit .cvtPolicy 0 else s.noHit)
  else
    let s1 := out.foldl (fun s e => match e.2 with
      | some (ws, fl, g) => s.modThr e.1 (fun t =>
          { setVs t d (ws ++ (tail e.1).map BitVec.toNat) with gen := g }.orFlags fl)
      | none => s) s
    let s2 := zs.foldl (fun s k => s.modThr k (fun t => setVs t d (List.replicate n 0))) s1
    .next ((s2.bearLeave core c true).bearWake c.id ks)

/-- A cause that a command meets is held for its issuer, which takes it at its exit (R131, R143). -/
def State.bearOwe (s : State) (core : Nat) (c : BearCmd) (acc : Nat) (b : Bad) : Out :=
  .next (((s.bearRecords core c acc b).owe c.thread
    { id := c.id, cause := b.cause, faddr := b.va, mb := none, mbVa := none, tile := c.tiles.head?, lines := [], send := false,
      race := b.race }).bearLeave core c true)

/-- Scales of `mscl` from the bytes of its tile: rows, then columns (R239). -/
def scalesOf (f32 : Bool) (mode : DWord) (bs : List Byte) : List FVal :=
  (List.range 128).map (fun i =>
    if f32 then Fm.f32.input mode (leNat ((bs.drop (4 * i)).take 4)) else Fm.e8m0.decode (leNat ((bs.drop i).take 1)))

/-- BEAR_COMMAND_COMPLETE: a command other than `mma` takes effect (R235 to R243, R373, R391). -/
def execBearCommandComplete (core : Nat) (s : State) : Out :=
  if !s.power then .fault .poweredOff
  else match s.bearNext core false with
  | none => .refused (.notEnabled "BEAR_COMMAND_COMPLETE")
  | some c =>
    let tile := fun t => (s.team c.tm).accTile t
    let w := s.whoBear core c
    let done := fun (s : State) => Host.Outcome.next (s.bearLeave core c true)
    match (if c.op.reads then c.op.accs.find? (fun t => s.badAcc.contains (c.tm, t)) else none) with
    | some t => s.bearOwe core c t accBad
    | none => match c.op with
    | .mma _ _ _ _ _ _ _ => .refused (.notEnabled "BEAR_COMMAND_COMPLETE")
    | .mzero t => done (s.bearZero c.tm t)
    | .mrdF t h i ks zs d rc pol =>
      (match ks with | k :: _ => s.bearCheck core c.tm t k | [] => s).bearDeliver core c t ks zs d 32 rc pol
        (fun k => (List.range 32).map (fun j => (tile t).at_ (32 * i + (s.thr k).lane) (32 * h + j))) (fun _ => [])
    | .mrdS t i ks zs d rc pol =>
      s.bearDeliver core c t ks zs d 3 rc pol
        (fun k => let r := 32 * i + (s.thr k).lane; [(tile t).mAt r, (tile t).lAt r])
        (fun k => [BitVec.ofNat 32 ((tile t).flags.toNat + ((tile t).empty.getLsbD (32 * i + (s.thr k).lane)).toNat * 256)])
    | .mwrF t h _ rows => done (s.modAcc c.tm t (fun a =>
        { a with shadow := none, elem := rows.foldl (fun m e => (List.range 32).foldl (fun m j =>
            kputD m (64 * e.1 + 32 * h + j) 0 (BitVec.ofNat 40 (wordToFx 0 (e.2.getD j 0).toNat))) m) a.elem }))
    | .mwrS t _ rows => done (s.modAcc c.tm t (fun a => rows.foldl (fun a e =>
        let x := fun j => BitVec.ofNat 40 (wordToFx 0 (e.2.getD j 0).toNat)
        { a with m := kputD a.m e.1 (BitVec.ofNat 40 negInf40) (x 0), l := kputD a.l e.1 0 (x 1),
                 empty := setBit a.empty e.1 ((e.2.getD 2 0).getLsbD 8), flags := a.flags ||| (e.2.getD 2 0).extractLsb' 0 5,
                 shadow := none }) a))
    | .mscl d z t f32 rc => match s.unitRead w (tileVa t) (if f32 then 512 else 128) false with
      | .error e => s.bearOwe core c d e
      | .ok (bs, s1) =>
        let v := scalesOf f32 c.mode bs
        done ((s1.modAcc c.tm d (fun a => a.scale (tile z) (v.take 64) (v.drop 64) rc c.mode c.gen)).modAcc c.tm z (fun a => { a with shadow := none }))
    | .smx o sc t fmt f rc =>
      let (a, out) := (tile o).smx (tile sc) c.mode rc fmt f.toNat c.gen
      match s.unitStore w (tileVa t) out false with
      | .error e => s.bearOwe core c o e
      | .ok s1 => done ((s1.modAcc c.tm o (fun _ => a)).modAcc c.tm sc (fun b => { b with shadow := none }))
    | .smrg d x => done ((s.modAcc c.tm d (fun a => a.merge (tile x) c.mode)).modAcc c.tm x (fun b => { b with shadow := none }))
    | .smfin o => done (s.modAcc c.tm o (fun a => a.finish c.mode))

end Sys2Proof.Machine
end

