-- ==== Sys2Proof/Machine/Tasks.lean ====
section
/-! DEFINITION. Task control blocks (R170, R171), submission and its checks (R173, R174), dependence counters (R175, R178), the
commit of a task (R177), and Ecide's ending of one (R194). -/

namespace Sys2Proof.Machine

/-- The fields of a TCB that the device reads (Table 8-1). -/
structure Tcb where
  code : DWord
  args : DWord
  cw : Nat
  ch : Nat
  tpg : Nat
  gpt : Nat
  teams : Nat
  part : Nat
  preempt : Bool
  migr : Bool
  vers : Bool
  prio : Nat
  deps : Nat
  succ : DWord
  budget : Nat
  nsucc : Nat
  status : Nat
  taskId : DWord
  lim : Limits
  /-- Some reserved field is not 0. -/
  resv : Bool
deriving DecidableEq, Repr

/-- A TCB from its 128 bytes (Tables 8-1 and 8-2). -/
def tcbOf (bs : List Byte) : Tcb :=
  let f := fun o n => leNat ((bs.drop o).take n)
  let shape := f 0x10 8
  let flags := f 0x18 4
  let st := f 0x2C 4
  { code := BitVec.ofNat 64 (f 0 8), args := BitVec.ofNat 64 (f 8 8), cw := bitsOf shape 48 4, ch := bitsOf shape 52 4,
    tpg := bitsOf shape 40 8, gpt := bitsOf shape 32 8, teams := bitsOf shape 0 32, part := bitsOf flags 16 5,
    preempt := bitsOf flags 8 1 == 1, migr := bitsOf flags 7 1 == 1, vers := bitsOf flags 6 1 == 1, prio := bitsOf flags 0 6,
    deps := f 0x1C 4, succ := BitVec.ofNat 64 (f 0x20 8), budget := f 0x2A 2, nsucc := f 0x28 2, status := st,
    taskId := BitVec.ofNat 64 (f 0x30 8),
    lim := { vregs := f 0x60 1, xregs := f 0x61 1, nq := f 0x62 1, depth := f 0x63 1, tiles := f 0x64 1, accs := f 0x65 1 },
    resv := bitsOf shape 56 8 != 0 || bitsOf flags 21 11 != 0 || bitsOf flags 9 7 != 0 || f 0x66 10 != 0 || f 0x78 8 != 0 ||
      bitsOf st 27 5 != 0 || bitsOf st 15 1 != 0 || bitsOf st 4 4 != 0 }

/-- Threads of a team on one side. -/
def Tcb.threads (t : Tcb) : Nat := t.tpg * t.gpt

/-- Every field lies within the values of Table 8-1 (R174, check 4). -/
def Tcb.legal (t : Tcb) : Bool :=
  !t.resv && t.code.toNat % 16 == 0 && decide (1 ≤ t.ch ∧ t.ch ≤ 12 ∧ 1 ≤ t.cw ∧ t.cw ≤ 12 ∧ t.cw * t.ch ≤ 12) &&
    decide (4 ≤ t.tpg ∧ t.tpg ≤ 32 ∧ t.tpg % 4 = 0 ∧ 1 ≤ t.gpt ∧ t.gpt ≤ 32 ∧ t.threads ≤ 1024) &&
    decide (1 ≤ t.teams ∧ t.teams % (t.cw * t.ch) = 0) && decide (t.part ≤ 23) && t.succ.toNat % 8 == 0 &&
    decide (8 ≤ t.lim.vregs ∧ t.lim.vregs ≤ 128 ∧ t.lim.vregs % 8 = 0) && [8, 16, 24, 32].contains t.lim.xregs &&
    decide (t.lim.nq ≤ 16) && [2, 4, 8, 16, 32, 64].contains t.lim.depth && decide (t.lim.tiles ≤ 64 ∧ t.lim.accs ≤ 8)

/-- Bytes of queue memory of one thread (R98). -/
def Limits.queueBytes (l : Limits) : Nat := l.nq * l.depth * 4 + 128

/-- One team fits an empty core (R61, R98; R174, check 5). -/
def Tcb.fits (t : Tcb) : Bool :=
  decide (t.lim.vregs * 4 * t.threads ≤ 512 * 1024) && decide (t.lim.xregs * 8 * t.threads ≤ 256 * 1024) &&
    decide (t.lim.queueBytes * t.threads ≤ 256 * 1024)

/-- A partition address as the device itself translates it: scratchpad windows lead nowhere. -/
def State.partRes (s : State) (p : Nat) (va : DWord) : Option Res :=
  if canonical va && !isWindow va then s.translate p va.toNat else none

/-- What a failed access of the device in a partition's space writes: a machine check for an uncorrectable error (R131), a record for a walk
that leaves the grant (R307). The device itself has no L1. -/
def State.partNote (s : State) (p source : Nat) (c : Cause) (va : DWord) : State :=
  match c with
  | .integrity => s.consumedAt p source Config.noCore ((s.partRes p va).map Res.loc) va
  | .xlate => s.noteLeave p source va
  | _ => s

/-- Bytes that the device reads in a partition's space: after the merges owed (Table 6-2), piece by piece; or the cause met and where. -/
def State.partRead (s : State) (p : Nat) (l : List (DWord × Nat)) : Except (Cause × DWord) (List Byte × State) :=
  match l with
  | [] => .ok ([], s)
  | (va, n) :: t => match s.partRes p va with
    | none => .error (s.xlateCause p va, va)
    | some r =>
      let ws := r.loc.words n
      if s.corrupt ws then .error (.integrity, va)
      else
        let s1 := (s.keepTlb r).mergeLines ws
        let bs := s1.readMs r.loc n
        match s1.partRead p t with
        | .error c => .error c
        | .ok (bt, s2) => .ok (bs ++ bt, s2)

/-- The task that the device holds for the TCB at a physical address, while it is waiting, ready or running. -/
def State.liveTask (s : State) (pa : Nat) : Option Nat :=
  (kkeys s.tasks).find? (fun t => (s.task t).pa == pa && decide (1 ≤ (s.task t).state ∧ (s.task t).state ≤ 3))

/-- STATE of the TCB at a place: what the device knows of a task it holds, else what the status word says (R171, R172). -/
def State.tcbState (s : State) (l : Loc) : Nat :=
  match s.liveTask (l.key / 2) with
  | some t => (s.task t).state
  | none => leNat (s.readMs (l.plus 0x2C) 4) % 16

/-- Source number of a release by the home Sett of a TCB (R176, R178); the PCIe port stands for one in host memory. -/
def homeSource (l : Loc) : Nat := match l with | .hbm pa => homeSett pa | _ => hostSource

/-- The clock kept with the dependence counter of a TCB: what the predecessors that have committed knew (Table 6-7). -/
def State.depClk (s : State) (l : Loc) : Clock := ((kget s.rel (l.plus 0x1C).wkey).map (·.clk)).getD []

/-- A task enters its ready queue (R172, R176). -/
def State.enqueue (s : State) (t source : Nat) : State :=
  let s1 := (s.tcbPut t 0x38 8 s.gtc.toNat).setState t 2 0 0 0
  { s1.modTask t (fun q => { q with tenq := s.gtc, source := source, order := s1.nextId }) with nextId := s1.nextId + 1 }

/-- A refused submission: state 6 with the cause and TRETIRE (Table 8-3). -/
def State.refuseTcb (s : State) (l : Loc) (c : Cause) : State :=
  (s.unitWrite (l.plus 0x2C) (leBytes 4 (statusWord 6 c.code 0 0)) none).unitWrite (l.plus 0x48) (leBytes 8 s.gtc.toNat) none

/-- The task that an accepted submission makes (R171). -/
def Tcb.task (t : Tcb) (pa : Nat) (va : DWord) (code args : List Byte) (clk : Clock) : Task :=
  let at_ := fun (bs : List Byte) i => BitVec.ofNat 64 (leNat ((bs.drop (8 * i)).take 8))
  { noTask with
    part := t.part, pa := pa, va := va, codeA := at_ code 0, codeE := at_ code 1, args := t.args,
    argv := (List.range 16).map (fun i => if t.args = 0 then 0 else at_ args i), cw := t.cw, ch := t.ch, tpg := t.tpg, gpt := t.gpt,
    teams := t.teams, lim := t.lim, preempt := t.preempt, migr := t.migr, vers := t.vers, prio := t.prio, budget := t.budget,
    taskId := t.taskId, state := 1, deps := t.deps, clk := clk }

/-- A submission of the TCB at an address of a partition, by a source (R173, R174). -/
def State.submit (s : State) (p : Nat) (va : DWord) (source : Nat) : State :=
  let drop := fun (s : State) (c : Cause) => s.telemetry p (s.causeRec source c.code va 0)
  if va.toNat % 128 ≠ 0 then drop s .align
  else match s.partRes p va with
  | none => drop (s.partNote p source (s.xlateCause p va) va) (s.xlateCause p va)
  | some r =>
    let s1 := (s.keepTlb r).mergeLines (r.loc.words 128)
    let t := tcbOf (s1.readMs r.loc 128)
    let refuse := fun (s : State) (e : Cause × DWord) => (s.partNote p source e.1 e.2).refuseTcb r.loc e.1
    if s1.tcbState r.loc ≠ 0 then drop s1 .badOperand
    else if t.part ≠ p then s1.refuseTcb r.loc .perm
    else if !t.legal || !t.fits then s1.refuseTcb r.loc .badOperand
    else match s1.partRead p (pieces t.code 16) with
      | .error e => refuse s1 e
      | .ok (code, s2) => match s2.partRead p (if t.args = 0 then [] else pieces t.args 128) with
        | .error e => refuse s2 e
        | .ok (args, s3) =>
          let n := s3.nextId
          let task := t.task (r.loc.key / 2) va code args (s3.depClk r.loc)
          let s4 : State := { s3 with tasks := kput s3.tasks n task, nextId := n + 1 }
          if t.deps = 0 then s4.enqueue n source else s4.setState n 1 0 0 0

/-- DEPS of the TCB at a place: what the device counts for a task that it holds, whatever a program writes there; else the word in memory
(R171, R175). -/
def State.depsAt (s : State) (l : Loc) : Nat :=
  match s.liveTask (l.key / 2) with
  | some t => (s.task t).deps
  | none => leNat (s.readMs (l.plus 0x1C) 4)

/-- One decrement of the dependence counter of a TCB, at its home Sett (R175, R178); `clk` is what the commit knew. -/
def State.decrement (s : State) (p : Nat) (va : DWord) (clk : Clock) : State :=
  let skip := fun (s : State) (src : Nat) (c : Cause) => (s.partNote p src c va).telemetry p (s.causeRec src c.code va 0)
  if va.toNat % 128 ≠ 0 then skip s hostSource .align
  else match s.partRes p va with
  | none => skip s hostSource (s.xlateCause p va)
  | some r =>
    let l := r.loc.plus 0x1C
    let s0 := (s.keepTlb r).mergeLines (l.words 4)
    let old := s0.depsAt r.loc
    let src := homeSource r.loc
    let live := s0.liveTask (r.loc.key / 2)
    if live.isNone && s0.corrupt (l.words 4) then (s0.consumedAt p src Config.noCore (some l) va).telemetry p (s0.causeRec src Cause.integrity.code va 0)
    else if old = 0 then skip s0 src .badOperand
    else
      let know := clkJoin (s0.depClk r.loc) clk
      let s1 := s0.unitWrite l (leBytes 4 (old - 1)) none
      let s2 : State := { s1 with rel := kput s1.rel l.wkey (mbTag know) }
      match live with
      | none => s2
      | some t =>
        let s3 := s2.modTask t (fun q => { q with clk := clkJoin q.clk clk, deps := old - 1 })
        if old = 1 ∧ (s3.task t).state = 1 then s3.enqueue t src else s3

/-- SUCCESSOR_DECREMENT: the next entry of a committed task's successor list (R178). -/
def execSuccessorDecrement (task : Nat) (s : State) : Out :=
  if !s.power then .fault .poweredOff
  else match (s.task task).succs with
  | [] => .refused (.notEnabled "SUCCESSOR_DECREMENT")
  | va :: rest =>
    let t := s.task task
    let s1 := s.modTask task (fun q => { q with succs := rest })
    match s1.partRead t.part (pieces va 8) with
    | .error e =>
      let src := homeSource (locOfPa t.pa)
      .next ((s1.partNote t.part src e.1 e.2).telemetry t.part (s1.causeRec src e.1.code va 0))
    | .ok (bs, s2) => .next (s2.decrement t.part (BitVec.ofNat 64 (leNat bs)) t.clk)

/-- Everything that a task's accesses and threads knew, which its commit carries on (Table 6-7). -/
def State.taskClk (s : State) (task : Nat) : Clock :=
  let c := (s.teamsOf task).foldl (fun c tm =>
    (s.threads.filter (fun e => keyTm e.1 == tm)).foldl (fun c e => clkJoin c e.2.clk) c) (s.task task).clk
  let seen := s.acc.foldl (fun c e => e.2.foldl (fun c a =>
    if a.task = task then kput c a.agent (max (kgetD c a.agent 0) a.epoch) else c) c) c
  kput seen (commitAgent task) 1

/-- Whether some core holds a partial of a task's `cred` lines. -/
def State.owesTask (s : State) (task : Nat) : Bool :=
  s.cores.any (fun c => c.2.upd.any (fun u => u.2.tasks.contains task))

/-- Whether the commit step may be taken (R177, Table 6-2). -/
def State.mayCommit (s : State) (task : Nat) : Bool :=
  let t := s.task task
  (kget s.tasks task).isSome && t.state == 3 && t.retired == t.teams && !s.owesTask task &&
    (s.teamsOf task).all (fun tm => s.threads.all (fun e => keyTm e.1 != tm || e.2.sb.isEmpty))

/-- The version of a task enters M as one step. -/
def State.mergeVersion (s : State) (task : Nat) : State :=
  (s.task task).ver.foldl (fun s e =>
    (((s.writeByte (.hbm e.1) e.2 (some task)).markWords ((Loc.hbm e.1).words 1) none).dirtyL2 (.hbm e.1))) s

/-- COMMIT: the version enters M, the task takes state 4, and SUCC and NSUCC are read again (R171, R177, R178). -/
def execCommit (task : Nat) (s : State) : Out :=
  if !s.power then .fault .poweredOff
  else if !s.mayCommit task then .refused (.notEnabled "COMMIT")
  else
    let clk := s.taskClk task
    let s1 := (s.mergeVersion task).setState task 4 0 0 0
    let s2 := s1.tcbPut task 0x48 8 s.gtc.toNat
    let at_ := locOfPa (s2.task task).pa
    let s3 := s2.mergeLines (at_.words 128)
    let t := tcbOf (s3.readMs at_ 128)
    .next (s3.modTask task (fun q =>
      { q with ver := [], vlines := [], oldCode := [], clk := clk,
               succs := (List.range t.nsucc).map (fun i => t.succ + BitVec.ofNat 64 (8 * i)) }))

/-- Every ending of a task by Ecide or by `vabort` writes a telemetry record (R195). -/
def State.endedRecord (s : State) (task : Nat) (source : Nat) (c : Cause) : State :=
  s.telemetry (s.task task).part (s.causeRec source c.code (s.task task).va 0)

/-- TASK_ENDED: Ecide or the host ends a task with cause ENDED (R194, Tables 8-3 and 9-3). -/
def execTaskEnded (task : Nat) (s : State) : Out :=
  if !s.power then .fault .poweredOff
  else if decide (1 ≤ (s.task task).state ∧ (s.task task).state ≤ 3) then
    .next ((s.endedRecord task 0xFFFF .ended).endTask task 6 .ended 0 0 none none)
  else .refused (.notEnabled "TASK_ENDED")

/-- SUBMIT: a host write to SUBMIT that is taken (R309, R173). -/
def execSubmit (part : Nat) (va : BitVec 64) (s : State) : Out :=
  if !s.power then .fault .poweredOff
  else match s.up, kget s.parts part with
  | true, some _ =>
    .next ((s.modPart part (fun q => { q with subTaken := q.subTaken + 1 })).submit part va hostSource)
  | _, _ => .refused (.notEnabled "SUBMIT")

/-- DRAIN: the oldest entry of a store buffer leaves it (R134, Table 6-2). -/
def execDrain (tm tid : Nat) (s : State) : Out :=
  if !s.power then .fault .poweredOff
  else if (s.thr (tkey tm .a tid)).sb.isEmpty then .refused (.notEnabled "DRAIN")
  else .next (s.drain (tkey tm .a tid))

/-- MERGE: a core's partials of one line enter M (R126). -/
def execMerge (core line : Nat) (s : State) : Out :=
  if !s.power then .fault .poweredOff
  else
    let ks := (kkeys (s.core core).upd).filter (fun k => lineKey k == line)
    if ks.isEmpty then .refused (.notEnabled "MERGE") else .next (ks.foldl (fun s k => s.mergeWord core k) s)

/-- HOST_STORE_COMPLETION: the oldest store to host memory that a thread has outstanding completes there (R135). -/
def execHostStoreCompletion (tm tid : Nat) (s : State) : Out :=
  let k := tkey tm .a tid
  if !s.power then .fault .poweredOff
  else match (s.thr k).out.find? (fun n => n % 2 == 0) with
  | none => .refused (.notEnabled "HOST_STORE_COMPLETION")
  | some n => .next (s.modThr k (fun t => { t with out := t.out.filter (· != n) }))

end Sys2Proof.Machine
end

