-- ==== Sys2Proof/Machine/System.lean ====
section
/-! DEFINITION. The system instructions of M 39: tasks, stamps, system registers, translations and calls to the management
core's agent (R369 to R371, R382 to R385, R400 to R403). -/

namespace Sys2Proof.Machine

/-- On the access side a step waits until the store buffer is empty and the earlier accesses have reached C (R173, R401). -/
def State.reachC (s : State) (k : Nat) : Try Unit :=
  if keySide k = .a && !(s.thr k).reached 0x10 then .park (.reach 0x10) else .ok ()

/-- The source number of a thread's core (Table 1-1). -/
def State.sourceOf (s : State) (k : Nat) : Nat := s.srcCore (s.coreOf (keyTm k))

/-- The operand of `tenq`, `vabort` and `tlbi`: an x register; or an even v pair, an s register or a team register (R400). -/
def tcbSrc (sd : Side) (a : Src) : Bool :=
  brxOk sd a || (match a, sd with | .tr _, .e => true | _, _ => false)

/-- The address that such an operand holds. -/
def State.addr64 (s : State) (k : Nat) (a : Src) : Try DWord :=
  if a = .zero then .ok 0 else tryThen (s.readSrc k .int64 a (s.rd k)) fun (v, _) => .ok v

/-- The step of one thread of `tenq`. -/
def tenqTry (a : Src) (s : State) (k : Nat) : Try State :=
  tryThen (s.addr64 k a) fun va => tryThen (s.reachC k) fun _ => .ok (s.submit (s.partOf (keyTm k)) va (s.sourceOf k))

/-- TENQ: each active thread submits the TCB at value(A) (R400, R173). -/
def execTenq (p : Pfx) (a : Src) (s : State) : Out :=
  withIssue .both false p (fun _ c => tcbSrc c.side a) s fun c act =>
    s.runSeq c act p id (tenqTry a)

/-- The TCB that a `vabort` names: its address, and where that leads; 0 names the thread's own task (R403). -/
def State.abortPlace (s : State) (k : Nat) (arg : DWord) : Try (DWord × Loc) :=
  let va := if arg = 0 then (s.task (s.taskOf k)).va else arg
  let p := s.partOf (keyTm k)
  if va.toNat % 128 ≠ 0 then .trap .align va
  else match s.partRes p va with
    | some r => .ok (va, r.loc)
    | none => .trap (s.xlateCause p va) va

/-- PART of the TCB at a place (R403). -/
def State.tcbPart (s : State) (l : Loc) : Nat :=
  match s.liveTask (l.key / 2) with
  | some t => (s.task t).part
  | none => bitsOf (leNat (s.readMs (l.plus 0x18) 4)) 16 5

/-- The step of a `vabort` at the TCB's home Sett (R403, R405): the task ends if it waits, is ready or runs; D receives the old
state unless the thread was discarded with the task. -/
def State.abortStep (s0 : State) (k : Nat) (d : BitVec 7) (va : DWord) (l : Loc) : Try State :=
  let s := s0.mergeLines (l.words 128)
  if (s.liveTask (l.key / 2)).isNone && s.corrupt (l.words 128) then .trap .integrity va
  else if s.tcbPart l ≠ s.partOf (keyTm k) then .trap .perm va
  else
    let old := s.tcbState l
    let s1 := match s.liveTask (l.key / 2) with
      | some t => (s.endedRecord t (s.sourceOf k) .abortRequested).endTask t 6 .abortRequested 0 0 none none
      | none => s
    .ok (if (kget s1.teams (keyTm k)).isSome then s1.modThr k (setD (keySide k) false d (BitVec.ofNat 64 old)) else s1)

/-- What one thread of a `vabort` meets before any step (R405). -/
def State.abortPre (s : State) (a : Src) (k : Nat) : Try Unit :=
  tryThen (s.addr64 k a) fun v => tryThen (if keySide k = .a then s.atomReady k 0 0 else .ok ()) fun _ =>
    tryThen (s.abortPlace k v) fun _ => .ok ()

/-- The step of one thread of a `vabort`; none where its team has gone with an earlier thread's abort. -/
def abortTry (d : BitVec 7) (a : Src) (s : State) (k : Nat) : Try State :=
  if (kget s.teams (keyTm k)).isNone then .ok s
  else tryThen (s.addr64 k a) fun v => tryThen (s.abortPlace k v) fun (va, l) => s.abortStep k d va l

/-- VABORT: ends a task, thread by thread (R403, R405). -/
def execVabort (p : Pfx) (d : BitVec 7) (a : Src) (s : State) : Out :=
  withIssue .both false p (fun _ c => (tcbSrc c.side a || a == .zero) && dstOk c.side false d) s fun c act =>
    s.runSteps c act p id (s.abortPre a) (abortTry d a)

/-- TSTAMP: the GTC into D (R402). -/
def execTstamp (p : Pfx) (d : BitVec 7) (s : State) : Out :=
  valueOp .both p (fun _ => []) (fun _ c => dstOk c.side true d) (fun sd => setD sd true d 0)
    (fun s k _ t => .ok (setD (keySide k) true d s.gtc t)) s

/-- `sr.ident` (Table 0-1). -/
def State.ident (s : State) : DWord := BitVec.ofNat 64 (0x0960 * 2 ^ 48 + 0x2101 * 2 ^ 32 + s.identSpares * 2 ^ 16)

/-- Four pairs of bytes of a slip register: queues q to q + 7 (Table 4-7). -/
def Pair.slips (p : Pair) (q nq : Nat) : DWord :=
  BitVec.ofNat 64 ((List.range 8).foldl (fun n k => if q + k < nq then n + (p.queue (q + k)).slipByte * 2 ^ (8 * k) else n) 0)

/-- `sr.cause` (Table 9-2). -/
def HRegs.causeWord (h : HRegs) : DWord := BitVec.ofNat 64 (h.done.toNat * 256 + h.defer.toNat * 128 + h.cause.code)

/-- Two words as a dword, the high one first. -/
def twoWords (hi lo : Nat) : DWord := BitVec.ofNat 64 (hi * 2 ^ 32 + lo)

/-- The value of a system register for a thread (Table 23-3); none for an unassigned number or one that only Ecide reads. -/
def State.readSr (s : State) (k n : Nat) : Option DWord :=
  let t := s.thr k
  let q := s.pair (pairOf k)
  let tm := s.team (keyTm k)
  let p := s.part tm.part
  match n with
  | 0x00 => some s.ident
  | 0x01 => some t.mode
  | 0x02 => some (t.flags.setWidth 64)
  | 0x03 => some p.seed
  | 0x04 => some s.gtc
  | 0x08 => some t.h.causeWord
  | 0x09 => some t.h.fpc
  | 0x0A => some t.h.fhdr
  | 0x0B => some t.h.faddr
  | 0x0C => some t.h.fgtc
  | 0x0D => some t.h.other
  | 0x0E => some t.h.otask
  | 0x0F => some (BitVec.ofNat 64 t.h.fcount)
  | 0x10 => some t.h.hscr
  | 0x14 => some (q.slips 0 tm.lim.nq)
  | 0x15 => some (q.slips 8 tm.lim.nq)
  | 0x16 => some (twoWords q.afull q.eempty)
  | 0x17 => some (twoWords q.awaitrq q.nrecv)
  | 0x18 => some (s.core tm.core).age
  | 0x19 => some p.minres
  | 0x1A => some p.eddl
  | 0x1B => some p.bchk
  | 0x1C => some tm.mcb
  | 0x1D => some p.ptroot
  | 0x20 => some p.kvfreq
  | 0x21 => some p.kvsalt
  | 0x22 => some p.kvdir
  | _ => if 0x28 ≤ n ∧ n ≤ 0x2F then some (kgetD p.bp (n - 0x28) 0) else none

/-- Whether privileged code writes a register. -/
def srWritable (n : Nat) : Bool :=
  [0x01, 0x02, 0x03, 0x09, 0x0A, 0x10, 0x18, 0x19, 0x1A, 0x1B, 0x20, 0x21, 0x22].contains n ||
    (decide (0x28 ≤ n) && decide (n ≤ 0x2F))

/-- Whether a register's layout takes a value (Tables 3-4, 7-7, 8-9, 9-7, 13-9, 14-2, 18-6, R359). -/
def srTakes (n : Nat) (v : DWord) : Bool :=
  let hi32 := v.extractLsb' 32 32 == 0#32
  let count := fun (x : Nat) => x == 0 || (decide (4 ≤ x) && decide (x ≤ 24))
  match n with
  | 0x01 => v.extractLsb' 11 53 == 0#53 && v.extractLsb' 0 3 != 7#3
  | 0x02 => v.extractLsb' 5 59 == 0#59
  | 0x18 => v.extractLsb' 16 48 == 0#48
  | 0x19 => hi32 && decide (1000 ≤ v.toNat)
  | 0x1A => hi32
  | 0x1B => v.extractLsb' 9 55 == 0#55 && v.extractLsb' 5 3 == 0#3 && decide (4 ≤ (v.extractLsb' 0 5).toNat) &&
      decide ((v.extractLsb' 0 5).toNat ≤ 16)
  | 0x20 => v.extractLsb' 0 8 == 0#8
  | 0x22 => decide ((v.extractLsb' 6 6).toNat ≤ 24) && count (v.extractLsb' 0 6).toNat
  | _ => if 0x28 ≤ n ∧ n ≤ 0x2F then v.extractLsb' 56 5 == 0#5 && v.extractLsb' 0 2 == 0#2 else true

/-- A write of a system register by a thread (R385). -/
def State.writeSr (s : State) (k n : Nat) (v : DWord) : State :=
  let p := s.partOf (keyTm k)
  let thr := fun (f : Thread → Thread) => s.modThr k f
  let hr := fun (f : HRegs → HRegs) => s.modThr k (fun t => { t with h := f t.h })
  match n with
  | 0x01 => thr (fun t => { t with mode := v })
  | 0x02 => thr (fun t => { t with flags := v.extractLsb' 0 5 })
  | 0x03 => s.modPart p (fun q => { q with seed := v })
  | 0x09 => hr (fun h => { h with fpc := v })
  | 0x0A => hr (fun h => { h with fhdr := v })
  | 0x10 => hr (fun h => { h with hscr := v })
  | 0x18 => s.modCore (s.coreOf (keyTm k)) (fun c => { c with age := v })
  | 0x19 => s.modPart p (fun q => { q with minres := v })
  | 0x1A => s.modPart p (fun q => { q with eddl := v })
  | 0x1B => s.modPart p (fun q => { q with bchk := v })
  | 0x20 => s.modPart p (fun q => { q with kvfreq := v })
  | 0x21 => s.modPart p (fun q => { q with kvsalt := v })
  | 0x22 => s.modPart p (fun q => { q with kvdir := v })
  | _ => if 0x28 ≤ n ∧ n ≤ 0x2F then s.modPart p (fun q => { q with bp := kput q.bp (n - 0x28) v }) else s

/-- RDSR: a system register into D (R382 to R385). -/
def execRdsr (p : Pfx) (d : BitVec 7) (n : BitVec 7) (s : State) : Out :=
  if srReadEcide n.toNat then
    withCur .both false p (fun _ _ => true) s (fun c act => s.raiseAll c act .priv 0)
  else
    withDst .both (srReadPriv n.toNat) p (fun s c => dstOk c.side true d && (s.readSr (tkey c.tm c.side 0) n.toNat).isSome)
        (fun sd => setD sd true d 0) s
      fun c act => s.runLanes c act p (setD c.side true d 0) fun k =>
        .ok { th := setD c.side true d ((s.readSr k n.toNat).getD 0) (s.thr k), p := s.pair (pairOf k) }

/-- The attempt of one thread of `wrsr`. -/
def wrsrTry (n : Nat) (a : Src) (s : State) (k : Nat) : Try State :=
  tryThen (s.readSrcs k [(.int64, a)] (s.rd k)) fun (vs, rd) =>
    if srTakes n (arg vs 0) then .ok ((s.putLane k { th := { s.thr k with clk := rd.clk }, p := rd.p }).writeSr k n (arg vs 0))
    else .trap .badOperand 0

/-- WRSR: value(A) into a system register, in privileged code (R382 to R385). -/
def execWrsr (p : Pfx) (n : BitVec 7) (a : Src) (s : State) : Out :=
  if srWriteEcide n.toNat then
    withCur .both true p (fun _ _ => true) s (fun c act => s.raiseAll c act .priv 0)
  else
    withIssue .both true p (fun s c => srcsOk s c [(.int64, a)] && srWritable n.toNat) s fun c act =>
      s.runSeq c act p id (wrsrTry n.toNat a)

/-- No cache holds a translation of a partition, of the page at an address or any, and none is read from old entries any more (R121,
R401). -/
def State.dropTlb (s : State) (p : Nat) (va : Option Nat) : State :=
  { s with tlb := s.tlb.filter (fun e => !(e.part == p && va.all (fun v => decide (e.va ≤ v) && decide (v < e.va + e.size))))
           purges := s.purges ++ [{ part := p, va := va, at_ := s.tick }] }

/-- The step of one thread of `tlbi`. -/
def tlbiTry (a : Src) (s : State) (k : Nat) : Try State :=
  tryThen (s.addr64 k a) fun va => tryThen (s.reachC k) fun _ => .ok (s.dropTlb (s.partOf (keyTm k)) (some va.toNat))

/-- The step of one thread of `tlbi.all`. -/
def tlbiAllTry (s : State) (k : Nat) : Try State :=
  tryThen (s.reachC k) fun _ => .ok (s.dropTlb (s.partOf (keyTm k)) none)

/-- TLBI: the page that holds value(A) (R401). -/
def execTlbi (p : Pfx) (a : Src) (s : State) : Out :=
  withIssue .both true p (fun _ c => tcbSrc c.side a) s fun c act =>
    s.runSeq c act p id (tlbiTry a)

/-- TLBI_ALL: every translation of the partition (R401). -/
def execTlbiAll (p : Pfx) (s : State) : Out :=
  withIssue .both true p (fun _ _ => true) s fun c act =>
    s.runSeq c act p id tlbiAllTry

/-- One thread's call: it parks until the answer arrives (R371). -/
def mcallTry (d : BitVec 7) (svc : Nat) (srcs : List (OTy × Src)) (f : State → Nat → DWord → Try (DWord × State)) (s : State)
    (k : Nat) : Try State :=
  tryThen (s.readSrcs k srcs (s.rd k)) fun (vs, rd) =>
  tryThen (f (s.putLane k { th := { s.thr k with clk := rd.clk }, p := rd.p }) k (arg vs 0)) fun (x, s1) =>
    .ok (s1.modThr k (fun t => { t with park := .answer svc x d }))

/-- A call to the agent: each active thread makes its own in order and parks until its answer arrives (R369 to R371). The group
stays at the instruction. -/
def mcallOp (p : Pfx) (d : BitVec 7) (svc : Nat) (srcs : Side → List (OTy × Src)) (f : State → Nat → DWord → Try (DWord × State))
    (s : State) : Out :=
  withDst .both false p (fun s c => srcsOk s c (srcs c.side) && dstOk c.side false d) (fun sd => setD sd false d 0) s fun c act =>
    let (rs, done) := s.seqTry c act (mcallTry d svc (srcs c.side) f)
    s.settle c act rs (.next (done.zeroDst c act p (setD c.side false d 0)))

/-- Type of a software record (Table 22-5). -/
def softRecord : Nat := 0x30

/-- The software record of a call (Table 22-5). -/
def State.softRec (s : State) (k : Nat) (v : DWord) : TelRec :=
  { gtc := s.gtc, w1 := BitVec.ofNat 64 (s.sourceOf k * 2 ^ 48 + softRecord * 2 ^ 40 + (keySide k).num * 2 ^ 32 + keyIx k),
    w2 := v, w3 := (s.task (s.taskOf k)).taskId }

/-- Whether a partition's telemetry ring has room. -/
def Part.telRoom (p : Part) : Bool := decide (p.tel.length < p.cfg.telCap)

/-- What a TELEMETRY call does: one record, and its stamp or 0 (R370). -/
def telemetryCall (s : State) (k : Nat) (v : DWord) : Try (DWord × State) :=
  let q := s.partOf (keyTm k)
  .ok (if (s.part q).telRoom then s.gtc else 0, s.telemetry q (s.softRec k v))

/-- What a LOCATE call does. -/
def locateCall (s : State) (_ : Nat) (_ : DWord) : Try (DWord × State) := .ok (0, s)

/-- What a PEER call does: its operand is checked (R370). -/
def peerCall (s : State) (_ : Nat) (v : DWord) : Try (DWord × State) :=
  if v.extractLsb' 20 44 == 0#44 then .ok (v, s) else .trap .badOperand 0

/-- MCALL_TELEMETRY: one record to the telemetry ring; the result is its stamp, or 0 where the ring is full (R370). -/
def execMcallTelemetry (p : Pfx) (d : BitVec 7) (b : Src) (s : State) : Out :=
  mcallOp p d 0 (fun sd => [(intOf sd, b)]) telemetryCall s

/-- MCALL_LOCATE: the core on which the call is answered (R370, R371). -/
def execMcallLocate (p : Pfx) (d : BitVec 7) (s : State) : Out := mcallOp p d 1 (fun _ => []) locateCall s

/-- MCALL_PEER: an entry of the peer table (R370). -/
def execMcallPeer (p : Pfx) (d : BitVec 7) (b : Src) (s : State) : Out :=
  mcallOp p d 2 (fun sd => [(intOf sd, b)]) peerCall s

/-- What LOCATE answers (Table 22-4). -/
def State.locate (s : State) (tm : Nat) : DWord :=
  let n := s.coreOf tm
  BitVec.ofNat 64 (n + n / 15 * 2 ^ 8 + n % 15 * 2 ^ 16 + s.partOf tm * 2 ^ 24)

/-- What PEER answers (Table 22-4). -/
def State.peerInfo (s : State) (p : Nat) (arg : DWord) : DWord :=
  match kget (s.part p).cfg.peers (arg.extractLsb' 0 16).toNat with
  | none => 0
  | some e =>
    let win := match kget e.windows (arg.extractLsb' 16 4).toNat with
      | some w => w.readOk.toNat * 2 + w.writeOk.toNat * 4 + min (w.size / 4096) (2 ^ 24 - 1) * 2 ^ 8
      | none => 0
    BitVec.ofNat 64 (1 + e.rod.toNat * 8 + win)

/-- The answer to a call of a thread. -/
def State.answerOf (s : State) (tm svc : Nat) (arg : DWord) : DWord :=
  match svc with
  | 0 => arg
  | 1 => s.locate tm
  | _ => s.peerInfo (s.partOf tm) arg

/-- A thread that waits at `mcall`: its key. -/
def State.caller (s : State) (tm tid : Nat) : Option (Nat × Nat × DWord × BitVec 7) :=
  [Side.e, Side.a].findSome? (fun sd => match (s.thr (tkey tm sd tid)).park with
    | .answer svc arg d => some (tkey tm sd tid, svc, arg, d)
    | _ => none)

/-- MCALL_ANSWER: the answer arrives and is written to D; a group of which no thread waits any more goes on (R371). -/
def execMcallAnswer (tm tid : Nat) (s : State) : Out :=
  if !s.power then .fault .poweredOff
  else match s.caller tm tid with
  | none => .refused (.notEnabled "MCALL_ANSWER")
  | some (k, svc, arg, d) =>
    let s1 := s.modThr k (fun t => { setD (keySide k) false d (s.answerOf tm svc arg) t with park := .none })
    match s1.groupOf tm (keySide k) (keyIx k) with
    | none => .next s1
    | some gid =>
      let g := s1.grp gid
      if g.members.any (fun t => match (s1.thr (g.key t)).park with | .answer _ _ _ => true | _ => false) then .next s1
      else
        .next (((s1.completed g.tm g.side g.members g.priv).modGrp gid
          (Group.goto (s1.afterSeq g.tm g.pc g.hdr g.priv))).arriveHdr gid (Config.splitDepth + 1))

end Sys2Proof.Machine
end

