-- ==== Sys2Proof/Machine/Saves.lean ====
section
/-! DEFINITION. Saving and restoring groups and teams (R115, R184, R185, R196 to R199, R285), the choice of victims (R182, R183,
R197), thermal migration (R187) and swaps (R311). -/

namespace Sys2Proof.Machine

/-- The pairs that a group slot's save takes: those with a live thread of either side in the slot (R115, R184). -/
def State.slotPairs (s : State) (tm slot : Nat) : List Nat :=
  (List.range ((s.team tm).gpt * (s.team tm).tpg)).filter (fun t => [Side.e, Side.a].any (fun sd =>
    let th := s.thr (tkey tm sd t)
    !th.exited && th.slot == slot))

/-- Whether a pair may be saved: no `ldq` or `nget` has data in flight and no `mcall` is unanswered (R115, R371). An `ldq` that only
holds its places has none. -/
def State.pairQuiet (s : State) (tm t : Nat) : Bool :=
  (s.pair (pkey tm t)).flights.all (fun f => f.cargo == .held) &&
    [Side.e, Side.a].all (fun sd => match (s.thr (tkey tm sd t)).park with | .answer _ _ _ => false | _ => true)

/-- Whether the pairs of a slot may be saved. -/
def State.slotQuiet (s : State) (tm slot : Nat) : Bool := (s.slotPairs tm slot).all (fun t => s.pairQuiet tm t)

/-- Whether every pair of a team may be saved. -/
def State.teamQuiet (s : State) (tm : Nat) : Bool := (s.team tm).held.all (fun sl => s.slotQuiet tm sl)

/-- A running operation stops at a k-block boundary; which one is free (R198). -/
def State.splitBear (s : State) (core : Nat) (c : BearCmd) : State :=
  match c.op with
  | .mma semi m wd imx b done _ =>
    let put := fun (n : Nat) (u : AccTile) (s1 : State) =>
      (s1.modAcc c.tm m.acc.toNat (fun _ => { u with shadow := none })).modCore core (fun x =>
        { x with bear := x.bear.map (fun e =>
            if e.id = c.id then { e with op := .mma semi m wd imx b (done + n) none, split := true } else e) })
    let n := s.choose (2 ^ 91 + c.id) (m.blocks - done)
    if n = 0 then s
    else match s.bearRun core c n with
      | .ok (u, s1) => put n u s1
      | .error (j, _) =>
        if j ≤ done then s
        else match s.bearRun core c (j - done) with
          | .ok (u, s1) => put (j - done) u s1
          | .error _ => s
  | _ => s

/-- The operations of some threads of a team that run stop at a k-block boundary (R198). -/
def State.splitBears (s : State) (tm : Nat) (ps : List Nat) : State :=
  let core := s.coreOf tm
  ((bearFree [] (s.core core).bear).filter (fun c => c.tm == tm && c.op.isMma && s.bearLive c && ps.contains (keyIx c.thread))).foldl
    (fun s c => s.splitBear core c) s

/-- The registers that a save of a thread keeps: those below LIVE and PLIVE of its block, or all of them in handler code (R184,
R196). -/
def State.saveRegs (s : State) (k : Nat) (hdr : DWord) (priv : Bool) : State :=
  if priv then s
  else
    let (l, p) := s.liveAt (keyTm k) hdr
    s.modThr k (s.dropDead k (keySide k) l p)

/-- The threads of some pairs that stand in a group are saved, as a group of their own where others of it stay. -/
def State.saveGroup (s : State) (gid : Nat) (ps : List Nat) : State :=
  let g := s.grp gid
  let mem := g.members.filter (fun t => ps.contains t)
  let s1 := mem.foldl (fun s t => s.saveRegs (g.key t) g.hdr g.priv) s
  if mem.isEmpty || g.saved then s
  else if mem.length = g.members.length then s1.modGrp gid (fun g => { g with saved := true })
  else (s1.takeOut gid mem).newGroup { g with members := mem, saved := true }

/-- The members of a team's bins among some pairs leave them, their waits kept as a number of cycles (R93). -/
def State.saveBins (s : State) (tm : Nat) (ps : List Nat) : State :=
  let core := s.coreOf tm
  let mine := (s.core core).bins.filter (fun b => b.2.tm == tm)
  let out := mine.filterMap (fun b =>
    let l := b.2.filed.filter (fun f => ps.contains f.thread)
    if l.isEmpty then none
    else some { b.2 with filed := l.map (fun f => { f with cycle := s.cycle - f.cycle }) })
  let s1 := out.foldl (fun s b => b.filed.foldl (fun s f => s.saveRegs (tkey tm .e f.thread) b.key b.priv) s) s
  let keep := fun (b : Nat × Bin) =>
    if b.2.tm = tm then (b.1, { b.2 with filed := b.2.filed.filter (fun f => !ps.contains f.thread) }) else b
  (s1.modCore core (fun c => { c with bins := (c.bins.map keep).filter (fun b => !b.2.filed.isEmpty) })).modTeam tm
    (fun t => { t with savedBins := t.savedBins ++ out })

/-- The save of one group slot of a team with the partners of its threads, as one step (R184, R196, R285). -/
def State.saveSlot (s : State) (tm slot : Nat) : State :=
  let ps := s.slotPairs tm slot
  let s0 := s.splitBears tm ps
  let gs := (kkeys s0.groups).filter (fun k => (s0.grp k).tm == tm)
  let s1 := gs.foldl (fun s k => s.saveGroup k ps) s0
  let s2 := (s1.saveBins tm ps).modSince tm (fun t => ps.contains t) (Timer.pause s.gtc)
  let s3 := s2.modTeam tm (fun t => { t with evicted := insertNat (t.slots.findIdx (· == slot)) t.evicted })
  { s3 with sends := s3.sends.map (fun x => if x.tm = tm && ps.contains (keyIx x.thread) then { x with started := x.acked } else x) }

/-- The address of a team's saved context, which Ecide chooses: the model numbers contexts by team (log 28). -/
def ctxOf (tm : Nat) : Nat := 64 * (tm + 1)

/-- A team whose groups have all been saved is saved as a whole. -/
def State.wholeSaved (s : State) (tm : Nat) : State :=
  let s1 := s.modTeam tm (fun t => { t with mode := .saved })
  { s1 with ctxs := kput s1.ctxs (ctxOf tm) tm }

/-- The save of a whole team with its tiles and accumulator tiles (R185). -/
def State.saveTeam (s : State) (tm : Nat) : State :=
  ((s.team tm).held.foldl (fun s sl => s.saveSlot tm sl) s).wholeSaved tm

/-- The waits of restored threads that R306 bounds go on, unless the debugger has stopped the team. -/
def State.resumeSince (s : State) (tm : Nat) (p : Nat → Bool) : State :=
  if (s.team tm).mode = .running then s.modSince tm p (Timer.resume s.gtc) else s

/-- The saved groups of a team are resident again, with their bin membership and the cycles they had waited (R93, R186). -/
def State.wakeSaved (s : State) (tm : Nat) : State :=
  let core := s.coreOf tm
  let gs := (kkeys s.groups).filter (fun k => let g := s.grp k; g.tm == tm && g.saved)
  let bins := (s.team tm).savedBins
  let ps := gs.flatMap (fun k => (s.grp k).members) ++ bins.flatMap (fun b => b.filed.map (·.thread))
  let s1 := (gs.foldl (fun s k => s.modGrp k (fun g => { g with saved := false })) s).resumeSince tm (fun t => ps.contains t)
  let s2 := s1.modTeam tm (fun t => { t with savedBins := [], evicted := [] })
  let s3 : State := { s2 with ctxs := kdel s2.ctxs (ctxOf tm) }
  let s4 := bins.foldl (fun s b => s.fileEntries core tm b.key b.priv (b.filed.map (fun f => { f with cycle := s.cycle - f.cycle }))) s3
  (s4.arriveAll tm .e).arriveAll tm .a

/-- The commands of a restored team come before every later one on its core (R199). -/
def State.moveBear (s : State) (tm : Nat) : State :=
  let cmds := s.cores.flatMap (fun c => c.2.bear.filter (fun b => b.tm == tm))
  let s1 : State := { s with cores := s.cores.map (fun c => (c.1, { c.2 with bear := c.2.bear.filter (fun b => b.tm != tm) })) }
  if cmds.isEmpty then s1 else s1.modCore (s.coreOf tm) (fun c => { c with bear := cmds ++ c.bear })

/-- Whether the debugger had stopped a team (R204). -/
def State.wasStopped (s : State) (tm : Nat) : Bool :=
  s.threads.any (fun e => keyTm e.1 == tm && (match e.2.park with | .stopped _ _ => true | _ => false))

/-- A saved team runs again at its place, or stands stopped as it did (R93, R186, R204). -/
def State.restoreTeam (s : State) (tm : Nat) : State :=
  let mode := if s.wasStopped tm then TeamMode.stopped else .running
  let s1 := (s.moveBear tm).modTeam tm (fun t => { t with mode := mode, since := s.gtc })
  ({ s1 with clusters := kmod s1.clusters (s.team tm).cluster (fun c => { c with saving := false }) } : State).wakeSaved tm

/-- Amounts of the resources of Table 8-7. -/
structure Amounts where
  slots : Nat
  eRegs : Nat
  aRegs : Nat
  qMem : Nat
  tiles : Nat
  accs : Nat
deriving DecidableEq, Repr, Inhabited

/-- Sum of two amounts. -/
def Amounts.add (a b : Amounts) : Amounts :=
  { slots := a.slots + b.slots, eRegs := a.eRegs + b.eRegs, aRegs := a.aRegs + b.aRegs, qMem := a.qMem + b.qMem,
    tiles := a.tiles + b.tiles, accs := a.accs + b.accs }

/-- What is short of one amount beside another. -/
def Amounts.sub (a b : Amounts) : Amounts :=
  { slots := a.slots - b.slots, eRegs := a.eRegs - b.eRegs, aRegs := a.aRegs - b.aRegs, qMem := a.qMem - b.qMem,
    tiles := a.tiles - b.tiles, accs := a.accs - b.accs }

/-- Nothing. -/
def noAmounts : Amounts := { slots := 0, eRegs := 0, aRegs := 0, qMem := 0, tiles := 0, accs := 0 }

/-- The limits of a core (Table 8-7). -/
def coreLimits : Amounts := { slots := 64, eRegs := 512 * 1024, aRegs := 256 * 1024, qMem := 256 * 1024, tiles := 64, accs := 8 }

/-- What n groups of a team take. -/
def Team.groupsTake (t : Team) (n : Nat) : Amounts :=
  { noAmounts with
    slots := n, eRegs := t.lim.vregs * 4 * t.tpg * n, aRegs := t.lim.xregs * 8 * t.tpg * n,
    qMem := t.lim.queueBytes * t.tpg * n }

/-- What a team takes as long as it is resident. -/
def Team.takes (t : Team) : Amounts := (t.groupsTake t.held.length).add { noAmounts with tiles := t.lim.tiles, accs := t.lim.accs }

/-- Whether a team holds resources of its core. -/
def Team.resident (t : Team) : Bool := t.mode == .placed || t.mode == .running || t.mode == .stopped

/-- The teams that hold resources of a core. -/
def State.residents (s : State) (core : Nat) : List Nat :=
  (kkeys s.teams).filter (fun n => (s.team n).core == core && (s.team n).resident)

/-- What is free on a core. -/
def State.freeOn (s : State) (core : Nat) : Amounts :=
  coreLimits.sub ((s.residents core).foldl (fun a n => a.add (s.team n).takes) noAmounts)

/-- The amounts of a request. -/
def needAmounts (n : Need) : Amounts :=
  { slots := n.slots, eRegs := n.eRegs, aRegs := n.aRegs, qMem := n.qMem, tiles := n.tiles, accs := n.accs }

/-- A victim of an eviction: a group slot of a team, or the whole team. -/
structure Victim where
  tm : Nat
  slot : Option Nat
deriving DecidableEq, Repr

/-- What a victim's save frees. -/
def State.frees (s : State) (v : Victim) : Amounts :=
  match v.slot with
  | some _ => (s.team v.tm).groupsTake 1
  | none => (s.team v.tm).takes

/-- Priority of a team's task. -/
def State.prioOf (s : State) (tm : Nat) : Nat := (s.task (s.team tm).task).prio

/-- Teams of a core that a request of some priority may evict, in the order of R183. -/
def State.evictable (s : State) (core prio : Nat) : List Nat :=
  sortBy (fun a b => decide (s.prioOf a < s.prioOf b) || (s.prioOf a == s.prioOf b && decide ((s.team b).born < (s.team a).born)))
    ((s.residents core).filter (fun n => (s.task (s.team n).task).preempt && decide (s.prioOf n < prio) && (s.team n).mode != .placed))

/-- The first n victims, in order, whose saves leave nothing short. -/
def State.pickN (s : State) (short : Amounts) (n : Nat) (l : List Victim) : Option (List Victim) :=
  match l, n with
  | _, 0 => if short = noAmounts then some [] else none
  | [], _ + 1 => none
  | v :: t, n + 1 => ((s.pickN (short.sub (s.frees v)) n t).map (fun r => v :: r)).orElse (fun _ => s.pickN short (n + 1) t)

/-- The fewest victims that satisfy every shortfall together, the first in order among as few (R183); none if all do not suffice. -/
def State.pickVictims (s : State) (short : Amounts) (l : List Victim) : Option (List Victim) :=
  (List.range (l.length + 1)).findSome? (fun n => s.pickN short n l)

/-- The victims of requests taken in descending priority, each for the combined need so far (R183, R197). -/
def State.victimsFor (s : State) (core : Nat) (free : Amounts) (sum : Amounts) (chosen : List Victim) (l : List Need) : List Victim :=
  match l with
  | [] => chosen
  | n :: t =>
    let sum' := sum.add (needAmounts n)
    let short := sum'.sub (chosen.foldl (fun a v => a.add (s.frees v)) free)
    let teams := (s.evictable core n.prio).filter (fun x => !chosen.any (fun v => v.tm == x && v.slot.isNone))
    let cand : List Victim :=
      if short.tiles ≠ 0 ∨ short.accs ≠ 0 then teams.map (fun x => { tm := x, slot := none })
      else teams.flatMap (fun x => ((sortBy (fun a b => decide (b < a)) (s.team x).held).map (fun sl => { tm := x, slot := some sl } : Nat → Victim)).filter
        (fun v => !chosen.contains v))
    match s.pickVictims short cand with
    | some vs => s.victimsFor core free sum' (chosen ++ vs) t
    | none => s.victimsFor core free sum chosen t

/-- The teams of a core whose saves as a whole have begun: they count as evicted (R185, R197). -/
def State.begun (s : State) (core : Nat) : List Victim :=
  ((s.residents core).filter s.saving).map (fun n => { tm := n, slot := none })

/-- The victims on a core for some requests. -/
def State.victims (s : State) (core : Nat) (l : List Need) : List Victim :=
  s.victimsFor core (s.freeOn core) noAmounts (s.begun core) (sortBy (fun a b => decide (b.prio < a.prio)) l)

/-- EVICTION: a request that needs eviction joins those pending on a core, and its victims' saves may begin (R183, R197); none does while
Ecide is being handed over (R318). -/
def execEviction (core : Nat) (need : Need) (s : State) : Out :=
  if !s.power then .fault .poweredOff
  else
    let c := s.core core
    if s.handover.isSome ∨ c.part ≠ some need.part ∨ (needAmounts need).sub (s.freeOn core) = noAmounts ∨
        (s.victims core (c.needs ++ [need])).length ≤ (s.victims core c.needs).length then .refused (.notEnabled "EVICTION")
    else .next (s.modCore core (fun c => { c with needs := c.needs ++ [need] }))

/-- Whether a victim that a condition picks stands in a list with none before it whose save could begin now: saves start in the order of
the victims (R183), and one waits as R115 states. -/
def State.firstQuiet (s : State) (l : List Victim) (f : Victim → Bool) : Bool :=
  match l with
  | [] => false
  | v :: t => f v || (!(match v.slot with
    | some sl => s.slotQuiet v.tm sl
    | none => !s.saving v.tm && (s.team v.tm).held.any (fun sl => s.slotQuiet v.tm sl)) && s.firstQuiet t f)

/-- Whether a team is saved as a whole: its cluster's save has begun, or may begin for the requests pending on some core (R185), or Ecide
halts it where no request is pending on its own (R196, R311, R319). -/
def State.wholeSave (s : State) (tm : Nat) : Bool :=
  s.saving tm || (s.core (s.coreOf tm)).needs.isEmpty ||
    s.cores.any (fun c => !c.2.needs.isEmpty && s.firstQuiet (s.victims c.1 c.2.needs)
      (fun v => v.slot.isNone && (s.team v.tm).cluster == (s.team tm).cluster))

/-- Whether a slot's save may begin: its team is saved as a whole, or Ecide has chosen the slot and no earlier victim could be saved first
(R183, R184). -/
def State.mayBegin (s : State) (tm slot : Nat) : Bool :=
  s.wholeSave tm ||
    s.firstQuiet (s.victims (s.coreOf tm) (s.core (s.coreOf tm)).needs) (fun v => v == { tm := tm, slot := some slot })

/-- The cluster of a team is being saved, every team of it (R185). -/
def State.beginSaving (s : State) (tm : Nat) : State :=
  { s with clusters := kmod s.clusters (s.team tm).cluster (fun c => { c with saving := true }) }

/-- GROUP_SAVE: the pairs of a group slot are saved as one step; a team saved as a whole is saved when its last group is, and its cluster
with it (R184, R185, R196). -/
def execGroupSave (tm slot : Nat) (s : State) : Out :=
  if !s.power then .fault .poweredOff
  else
    let t := s.team tm
    if (t.mode == .running || t.mode == .stopped) && t.held.contains slot && s.slotQuiet tm slot && s.mayBegin tm slot then
      let whole := s.wholeSave tm
      let s1 := (if whole then s.beginSaving tm else s).saveSlot tm slot
      .next (if whole && (s1.team tm).held.isEmpty then s1.wholeSaved tm else s1)
    else .refused (.notEnabled "GROUP_SAVE")

/-- Teams of a cluster. -/
def State.clusterTeams (s : State) (c : Nat) : List Nat := match kget s.clusters c with | some x => x.teams | none => []

/-- Those that have not retired. -/
def State.liveTeams (s : State) (l : List Nat) : List Nat := l.filter (fun n => (s.team n).mode != .retired)

/-- Whether a team has run on its core for `sr.minres` (R187). -/
def State.settled (s : State) (tm : Nat) : Bool :=
  decide ((s.part (s.partOf tm)).minres.toNat * 1000 ≤ (s.gtc - (s.team tm).since).toNat)

/-- THERMAL_MIGRATION: a cluster is pre-empted, to be restored on other cores (R187). -/
def execThermalMigration (cluster : Nat) (s : State) : Out :=
  if !s.power then .fault .poweredOff
  else
    let ts := s.liveTeams (s.clusterTeams cluster)
    let ok := fun tm => (s.team tm).mode == .running && s.teamQuiet tm && s.settled tm &&
      (s.task (s.team tm).task).migr && (s.task (s.team tm).task).preempt
    if !ts.isEmpty && ts.all ok then .next (ts.foldl (fun s tm => s.saveTeam tm) s)
    else .refused (.notEnabled "THERMAL_MIGRATION")

/-- The teams of a partition that are resident. -/
def State.partTeams (s : State) (p : Nat) : List Nat := (kkeys s.teams).filter (fun n => (s.team n).part == p && (s.team n).resident)

/-- SWAP_OUT: every team of a partition is halted and its context saved (R311); in a migration when a round has named fewer frames than
Ecide's threshold (R313). -/
def execSwapOut (part : Nat) (s : State) : Out :=
  if !s.power then .fault .poweredOff
  else
    let ts := s.partTeams part
    if (kget s.parts part).isSome && (s.part part).mode == .active &&
        (!(s.part part).migrating || decide ((s.part part).named < (s.part part).cfg.threshold)) && ts.all (fun n => (s.team n).mode != .placed && s.teamQuiet n) then
      .next ((ts.foldl (fun s tm => s.saveTeam tm) s).modPart part (fun q => { q with mode := .swapped }))
    else .refused (.notEnabled "SWAP_OUT")

/-- Whether two ranges of n and m places from a and b do not meet. -/
def apart (a n b m : Nat) : Bool := decide (a + n ≤ b) || decide (b + m ≤ a) || n == 0 || m == 0

/-- Bytes of queue memory that a team holds. -/
def Team.queueLen (t : Team) : Nat := t.lim.queueBytes * t.tpg * t.held.length

/-- Whether a team's slots and ranges are free of every other resident team's, and run within its core, which is present and its partition's
(R11, R180, R182). -/
def State.placeFree (s : State) (tm : Nat) (t : Team) : Bool :=
  let others := (s.residents t.core).filter (· != tm)
  !(s.core t.core).absent && (s.core t.core).part == some t.part && decide (t.tbase + t.lim.tiles ≤ 64) && decide (t.abase + t.lim.accs ≤ 8) && decide (t.qbase * 64 + t.queueLen ≤ 256 * 1024) &&
    others.all (fun n =>
      let o := s.team n
      t.held.all (fun sl => !o.held.contains sl) && apart t.tbase t.lim.tiles o.tbase o.lim.tiles &&
        apart t.abase t.lim.accs o.abase o.lim.accs && apart (t.qbase * 64) t.queueLen (o.qbase * 64) o.queueLen) &&
    (t.takes.sub (coreLimits.sub (others.foldl (fun a n => a.add (s.team n).takes) noAmounts)) == noAmounts)

/-- Restores the saved clusters of a partition that fit where they stood, the highest priority first (R186). -/
def State.restoreFitting (s : State) (l : List Nat) : State :=
  l.foldl (fun s c =>
    let ts := s.liveTeams (s.clusterTeams c)
    if !ts.isEmpty && ts.all (fun n => (s.team n).mode == .saved && s.placeFree n { s.team n with evicted := [] }) then
      ts.foldl (fun s n => s.restoreTeam n) s
    else s) s

end Sys2Proof.Machine
end

