-- ==== Sys2Proof/Machine/Placement.lean ====
section
/-! DEFINITION. Bind records (R179 to R181), the placing of teams fresh or from a saved context (R182, R186), and their start
(R65 to R67, R158). -/

namespace Sys2Proof

/-- VALID of a bind record (Table 8-6). -/
def BindRec.valid (r : BindRec) : Bool := r.ctx.getLsbD 0
/-- RESTORE of a bind record. -/
def BindRec.restore (r : BindRec) : Bool := r.ctx.getLsbD 1
/-- CTX of a bind record, as an address. -/
def BindRec.ctxAddr (r : BindRec) : Nat := (r.ctx.extractLsb' 6 58).toNat * 64
/-- TEAM of a bind record. -/
def BindRec.team (r : BindRec) : Nat := (r.place.extractLsb' 0 32).toNat
/-- TBASE of a bind record. -/
def BindRec.tbase (r : BindRec) : Nat := (r.place.extractLsb' 32 6).toNat
/-- ABASE of a bind record. -/
def BindRec.abase (r : BindRec) : Nat := (r.place.extractLsb' 40 3).toNat
/-- QBASE of a bind record. -/
def BindRec.qbase (r : BindRec) : Nat := (r.place.extractLsb' 48 12).toNat
/-- The granted group slots in ascending order. -/
def BindRec.granted (r : BindRec) : List Nat := Machine.bitsList r.slots
/-- The record as dispatch leaves it: VALID 0, and ERR as given (R180, R181). -/
def BindRec.done (r : BindRec) (err : Bool) : BindRec := { r with ctx := Machine.setBit (Machine.setBit r.ctx 0 false) 2 err }

end Sys2Proof

namespace Sys2Proof.Machine

/-- Teams of a cluster of a task. -/
def Task.width (t : Task) : Nat := t.cw * t.ch

/-- The task that a record names, on a core of a partition: ready or running. -/
def State.bindTask (s : State) (core : Nat) (r : BindRec) : Option Nat :=
  (kkeys s.tasks).find? (fun t => let k := s.task t
    (s.core core).part == some k.part && k.va == r.tcb && (k.state == 2 || k.state == 3))

/-- The cluster of a number of a task, once a record of it has been accepted. -/
def State.clusterOf (s : State) (task no : Nat) : Option Nat :=
  (kkeys s.clusters).find? (fun c => match kget s.clusters c with | some x => x.task == task && x.no == no | none => false)

/-- What a record asks for. -/
inductive BindKind where
  | fresh
  /-- A team saved as a whole. -/
  | whole (tm : Nat)
  /-- The evicted groups of a resident team. -/
  | groups (tm : Nat)
deriving DecidableEq, Repr

/-- The kind of a record for a task: none for a context that is not the team's, and for a fresh start of a team that is bound
already or is none of the grid (R65, R179). -/
def State.bindKind (s : State) (core task : Nat) (r : BindRec) : Option BindKind :=
  let t := s.task task
  if r.restore then
    let tm := r.ctxAddr / 64 - 1
    match kget s.teams tm with
    | none => none
    | some x =>
      if x.task ≠ task ∨ x.no ≠ r.team ∨ r.ctxAddr ≠ ctxOf tm then none
      else if x.mode = .saved then some (.whole tm)
      else if x.mode = .running ∧ !x.evicted.isEmpty ∧ x.core = core ∧ x.held.all (fun sl => r.granted.contains sl) then
        some (.groups tm)
      else none
  else if r.team < t.teams ∧ (kkeys s.teams).all (fun n => (s.team n).task != task || (s.team n).no != r.team) then some .fresh
  else none

/-- Slots of a team by group index after its evicted groups take new ones in ascending order (R66, R186). -/
def fillSlots (slots evicted new : List Nat) (i : Nat) : List Nat :=
  match slots with
  | [] => []
  | sl :: t =>
    if evicted.contains i then new.headD 0 :: fillSlots t evicted new.tail (i + 1)
    else sl :: fillSlots t evicted new (i + 1)

/-- The team as a record places it. -/
def State.placing (s : State) (core task : Nat) (r : BindRec) (k : BindKind) : Team :=
  let t := s.task task
  match k with
  | .fresh =>
    { noTeam with part := t.part, task := task, no := r.team, rank := r.team % t.width, core := core, slots := r.granted,
                  tpg := t.tpg, gpt := t.gpt, lim := t.lim, tbase := r.tbase, abase := r.abase, qbase := r.qbase }
  | .whole tm =>
    { s.team tm with core := core, slots := r.granted, tbase := r.tbase, abase := r.abase, qbase := r.qbase, evicted := [],
                     mode := .placed }
  | .groups tm =>
    let x := s.team tm
    { x with slots := fillSlots x.slots x.evicted (r.granted.filter (fun sl => !x.held.contains sl)) 0, qbase := r.qbase,
             evicted := [] }

/-- The number of the team that a record places. -/
def State.placingNo (s : State) (k : BindKind) : Nat :=
  match k with
  | .fresh => s.nextId
  | .whole tm => tm
  | .groups tm => tm

/-- Whether a task has the key (PRIO, TENQ, source, order) of R176 before another's. -/
def Task.ahead (a b : Task) : Bool :=
  let low := fun (t : Task) => [t.tenq.toNat, t.source, t.order]
  decide (b.prio < a.prio) || (a.prio == b.prio && decide (low a < low b))

/-- Cores of the rectangle whose corner stands at logical column x and row y (R10, R65). -/
def Task.rectCores (t : Task) (x y : Nat) : List Nat :=
  (List.range t.ch).flatMap (fun dy => (List.range t.cw).map (fun dx => 15 * (y + dy) + x + dx))

/-- Whether a rectangle lies within the logical mesh, on present cores of the task's partition (R10, R11, R65). -/
def State.rectFree (s : State) (t : Task) (x y : Nat) : Bool :=
  decide (x + t.cw ≤ 15 ∧ y + t.ch ≤ 16) && (t.rectCores x y).all (fun c => !(s.core c).absent && (s.core c).part == some t.part)

/-- Whether the ranks of a cluster stand on a rectangle of present cores of the partition (R65). -/
def State.rectOk (s : State) (task core rank : Nat) (cluster : Option Nat) : Bool :=
  let w := (s.task task).cw
  let x := core % 15
  let y := core / 15
  let dx := rank % w
  let dy := rank / w
  let others := match cluster with | some c => s.clusterTeams c | none => []
  decide (dx ≤ x ∧ dy ≤ y) && s.rectFree (s.task task) (x - dx) (y - dy) && others.all (fun n =>
    let o := s.team n
    o.rank == rank || o.mode == .saved || o.mode == .retired ||
      decide (o.core % 15 - o.rank % w = x - dx ∧ o.core / 15 - o.rank / w = y - dy))

/-- Whether n units stand free in a row below a limit, beside some ranges that are taken. -/
def gapFor (n limit : Nat) (taken : List (Nat × Nat)) : Bool :=
  (0 :: taken.map (fun e => e.1 + e.2)).any (fun b => decide (b + n ≤ limit) && taken.all (fun e => apart b n e.1 e.2))

/-- Whether a team of some limits and groups has room on a core beside its residents (R180, R182). -/
def State.roomOn (s : State) (core : Nat) (t : Team) : Bool :=
  let rs := (s.residents core).map s.team
  (t.takes.sub (s.freeOn core) == noAmounts) && gapFor t.lim.tiles 64 (rs.map (fun o => (o.tbase, o.lim.tiles))) &&
    gapFor t.lim.accs 8 (rs.map (fun o => (o.abase, o.lim.accs))) &&
    gapFor t.queueLen (256 * 1024) (rs.map (fun o => (o.qbase * 64, o.queueLen)))

/-- A team of a task as it takes resources when it is placed. -/
def Task.shape (t : Task) : Team := { noTeam with part := t.part, tpg := t.tpg, gpt := t.gpt, lim := t.lim, slots := List.range t.gpt }

/-- The pending requests of a core for which a task still waits (R197). -/
def State.pendingNeeds (s : State) (core : Nat) : List Need :=
  (s.core core).needs.filter (fun n => s.tasks.any (fun t =>
    t.2.part == n.part && t.2.prio == n.prio && (t.2.state == 2 || t.2.state == 3) && decide (t.2.bound < t.2.teams)))

/-- Whether a task of some priority may be bound on a core: only the first of its pending requests, or what comes before it (R197). -/
def State.openTo (s : State) (core prio : Nat) : Bool :=
  (s.pendingNeeds core).all (fun n => decide (n.prio ≤ prio))

/-- Whether Ecide can place a cluster of a task (R176): some rectangle has room for every rank. -/
def State.canPlace (s : State) (t : Task) : Bool :=
  (List.range 240).any (fun c => s.rectFree t (c % 15) (c / 15) &&
    (t.rectCores (c % 15) (c / 15)).all (fun k => s.openTo k t.prio && s.roomOn k t.shape))

/-- The numbers of the valid fresh records of a task that no core has consumed yet. -/
def State.waitingRecs (s : State) (task : Nat) : List Nat :=
  let t := s.task task
  s.cores.flatMap (fun c => if c.2.part == some t.part then
    (c.2.table.filter (fun e => e.2.valid && !e.2.restore && e.2.tcb == t.va)).map (fun e => e.2.team) else [])

/-- Whether a request of the partition still waits: nothing saved returns before (R197). -/
def State.partPending (s : State) (p : Nat) : Bool := s.cores.any (fun c => c.2.part == some p && !(s.pendingNeeds c.1).isEmpty)

/-- The clusters of a partition of which every live team is saved. -/
def State.savedClusters (s : State) (p : Nat) : List Nat :=
  (kkeys s.clusters).filter (fun c =>
    let ts := s.liveTeams (s.clusterTeams c)
    !ts.isEmpty && ts.all (fun n => (s.team n).part == p && (s.team n).mode == .saved))

/-- Whether something saved, of a priority no lower, comes before a fresh team on a core (R186): a saved cluster that could be placed, or
evicted groups of the core that would not fit beside the team. -/
def State.restoreDue (s : State) (core : Nat) (t : Task) : Bool :=
  !s.partPending t.part &&
    ((s.savedClusters t.part).any (fun c => match kget s.clusters c with
      | some x => decide (t.prio ≤ (s.task x.task).prio) && s.canPlace (s.task x.task)
      | none => false) ||
    (s.residents core).any (fun n => decide (t.prio ≤ s.prioOf n) && !(s.team n).evicted.isEmpty &&
      (((s.team n).groupsTake (s.team n).evicted.length).add t.shape.takes).sub (s.freeOn core) != noAmounts))

/-- Whether a fresh record is the next that Ecide writes (R176, R183, R186, R197): the next team of its task, ascending within a cluster
after the clusters before it; and where it opens a cluster, no task ahead can be placed. -/
def State.nextFresh (s : State) (core task : Nat) (r : BindRec) : Bool :=
  let t := s.task task
  let opens := r.team % t.width == 0
  r.team == t.bound + (s.waitingRecs task).length && r.team / t.width == t.bound / t.width &&
    s.openTo core t.prio &&
    (!opens || (!s.restoreDue core t && !s.tasks.any (fun q =>
      q.2.part == t.part && (q.2.state == 2 || q.2.state == 3) && decide (q.2.bound + (s.waitingRecs q.1).length < q.2.teams) &&
        (q.2.bound + (s.waitingRecs q.1).length) % q.2.width == 0 && q.2.ahead t && s.canPlace q.2)))

/-- Whether Ecide writes a record at all (R65, R176, R186, R197): its task waits in its place in the order, its cores form the cluster's
rectangle, and no saved context returns while a request is pending. -/
def State.bindSound (s : State) (core : Nat) (r : BindRec) : Option (Nat × BindKind) :=
  match s.bindTask core r with
  | none => none
  | some task => match s.bindKind core task r with
    | none => none
    | some k =>
      let t := s.task task
      let no := r.team / t.width
      if (s.part t.part).mode = .active ∧ s.rectOk task core (r.team % t.width) (s.clusterOf task no) = true ∧
          (match k with
            | .fresh => s.nextFresh core task r
            | .whole _ => !s.partPending t.part
            | .groups tm => !s.partPending t.part && !s.saving tm) = true then some (task, k) else none

/-- A request that a record answers is no longer pending, placed or refused (R197). -/
def State.dropNeed (s : State) (core task : Nat) : State :=
  let t := s.task task
  let same := fun (n : Need) => n.part == t.part && n.prio == t.prio
  s.modCore core (fun c =>
    match c.needs.findIdx? same with
    | some i => { c with needs := c.needs.take i ++ c.needs.drop (i + 1) }
    | none => c)

/-- Threads and groups of a team stand in the slots that take over their group indices (R66, R186). -/
def State.reslot (s : State) (tm : Nat) (old new : List Nat) : State :=
  let moved := fun sl => new.getD (old.findIdx (· == sl)) sl
  { s with threads := s.threads.map (fun e => if keyTm e.1 = tm then (e.1, { e.2 with slot := moved e.2.slot }) else e),
           groups := s.groups.map (fun e => if e.2.tm = tm then (e.1, { e.2 with slot := moved e.2.slot }) else e) }

/-- The cluster of a placed team holds it; the first accepted record makes it. -/
def State.joinCluster (s : State) (task no tm : Nat) (restore : Bool) : State :=
  let (c, s1) := match s.clusterOf task no with
    | some c => (c, s)
    | none =>
      let x : Cluster := { task := task, no := no, nb15E := freshBarrier none, nb15A := freshBarrier none, teams := [],
                           restore := restore, started := false, saving := false }
      (s.nextId, { s with clusters := kput s.clusters s.nextId x, nextId := s.nextId + 1 })
  ({ s1 with clusters := kmod s1.clusters c (fun x => { x with teams := insertNat tm x.teams, restore := restore }) } : State).modTeam tm
    (fun t => { t with cluster := c })

/-- A record is accepted: its team is placed, and its tiles are still lent to L1 (R125, R180). -/
def State.acceptRec (s : State) (core task : Nat) (r : BindRec) (k : BindKind) : State :=
  let no := r.team / (s.task task).width
  let t := s.placing core task r k
  let tm := s.placingNo k
  let tiles := (List.range t.lim.tiles).map (· + t.tbase)
  match k with
  | .fresh =>
    let s1 : State := { s with teams := kput s.teams tm t, nextId := s.nextId + 1 }
    ((s1.joinCluster task no tm false).modTask task (fun q => { q with bound := q.bound + 1 })).modCore core
      (fun c => { c with lent := c.lent ++ tiles })
  | .whole _ =>
    let s1 := (s.reslot tm (s.team tm).slots t.slots).modTeam tm (fun _ => t)
    (s1.joinCluster task no tm true).modCore core (fun c => { c with lent := c.lent ++ tiles })
  | .groups _ =>
    let s1 := (s.reslot tm (s.team tm).slots t.slots).modTeam tm (fun _ => t)
    s1.joinCluster task no tm true

/-- Whether dispatch accepts a record (R180, R182). -/
def State.accepts (s : State) (core task : Nat) (r : BindRec) (k : BindKind) : Bool :=
  r.granted.length == (s.task task).gpt && s.placeFree (s.placingNo k) (s.placing core task r k)

/-- An accepted record whose team waits for the other ranks is withdrawn (R181): a fresh team is gone, a saved one is saved as
it stood. -/
def State.withdraw (s : State) (tm : Nat) : State :=
  let t := s.team tm
  let tiles := (List.range t.lim.tiles).map (· + t.tbase)
  let s1 := s.modCore t.core (fun c => { c with lent := c.lent.filter (fun x => !tiles.contains x) })
  if (kkeys s.ctxs).contains (ctxOf tm) then s1.modTeam tm (fun x => { x with mode := .saved })
  else (s1.discardTeam tm).modTask t.task (fun q => { q with bound := q.bound - 1 })

/-- A refusal cancels the cluster of its task (R181): unconsumed records are cleared, accepted ones withdrawn. -/
def State.cancelCluster (s : State) (task no : Nat) : State :=
  let va := (s.task task).va
  let w := (s.task task).width
  let mine := fun (core : Nat) (r : BindRec) =>
    r.valid && r.tcb == va && r.team / w == no && (s.core core).part == some (s.task task).part
  let s1 : State := { s with cores := s.cores.map (fun c => (c.1, { c.2 with table := c.2.table.map (fun e =>
    if mine c.1 e.2 then (e.1, e.2.done true) else e) })) }
  let placed := (kkeys s.teams).filter (fun n => let t := s.team n
    t.task == task && t.mode == .placed && t.no / w == no)
  let stamp := fun (c : Nat × Core) => (c.1, { c.2 with table := c.2.table.map (fun e =>
    if e.2.tcb == va && e.2.team / w == no && placed.any (fun n => (s.team n).core == c.1 && (s.team n).no == e.2.team) then
      (e.1, e.2.done true) else e) })
  placed.foldl (fun s n => s.withdraw n) { s1 with cores := s1.cores.map stamp }

/-- The telemetry record of a cancellation names the task and the refused rank (R181). -/
def State.cancelRec (s : State) (task core rank : Nat) : State :=
  s.telemetry (s.task task).part
    (s.causeRec (s.srcCore core) 0 (s.task task).va (BitVec.ofNat 64 rank))

/-- Dispatch refuses a record: its cluster is cancelled, with a telemetry record (R180, R181). -/
def State.refuseRec (s : State) (core idx task : Nat) (r : BindRec) : State :=
  let w := (s.task task).width
  ((s.modCore core (fun c => { c with table := kput c.table idx (r.done true) })).cancelCluster task (r.team / w)).cancelRec task core
    (r.team % w)

/-- Dispatch consumes the record at an index of a core (R180, R181), which answers the request that waited for it (R197). A record that
names no team to place is refused. -/
def State.consume (s : State) (core idx : Nat) (r : BindRec) : State :=
  match s.bindTask core r with
  | none => s.modCore core (fun c => { c with table := kput c.table idx (r.done true) })
  | some task =>
    let s1 := if r.restore then s else s.dropNeed core task
    match s.bindKind core task r with
    | none => s1.refuseRec core idx task r
    | some k =>
      if s.accepts core task r k then
        (s1.modCore core (fun c => { c with table := kput c.table idx (r.done false) })).acceptRec core task r k
      else s1.refuseRec core idx task r

/-- The valid record of lowest index of a core. -/
def Core.nextRecord (c : Core) : Option Nat :=
  (List.range 8).find? (fun i => match kget c.table i with | some r => r.valid | none => false)

/-- BIND_RECORD: Ecide writes a record into the slot table of a core, unless it is being handed over (R318), or dispatch consumes the valid
one of lowest index (R179 to R181). -/
def execBindRecord (core idx : Nat) (r : BindRec) (s : State) : Out :=
  if !s.power then .fault .poweredOff
  else
    let c := s.core core
    if kget c.table idx = some r ∧ r.valid then
      if c.nextRecord ≠ some idx then .refused (.notEnabled "BIND_RECORD")
      else .next (s.consume core idx r)
    else if r.valid && s.handover.isNone && decide (idx < 8) && c.part.isSome && !((kget c.table idx).map (·.valid)).getD false &&
        (s.bindSound core r).isSome then
      .next (s.modCore core (fun c => { c with table := kput c.table idx r }))
    else .refused (.notEnabled "BIND_RECORD")

/-- The generator of a thread at team start (R158). -/
def startGen (seed : DWord) (no t : Nat) (sd : Side) : DWord :=
  seed ^^^ BitVec.ofNat 64 (no * 2 ^ 32) ^^^ BitVec.ofNat 64 (t * 2) ^^^ BitVec.ofNat 64 sd.num

/-- The s registers at team start (R67). -/
def startS (task : Task) (no : Nat) : KMap UReg :=
  ((List.range 16).map (fun i => (i, freshUReg (task.argv.getD i 0)))) ++
    [(29, freshUReg (BitVec.ofNat 64 no)), (30, freshUReg (BitVec.ofNat 64 (no / task.width))), (31, freshUReg task.args)]

/-- One side of a team at its start: threads at the task-entry header, full groups (R66, R67). -/
def State.startSide (s : State) (tm : Nat) (sd : Side) : State :=
  let t := s.team tm
  let task := s.task t.task
  let seed := (s.part t.part).seed
  let entry := match sd with | .e => task.codeE | .a => task.codeA
  (List.range t.gpt).foldl (fun s g =>
    let slot := t.slots.getD g 0
    let ts := (List.range t.tpg).map (fun l => g * t.tpg + l)
    let s1 := (List.range t.tpg).foldl (fun s l =>
      let i := g * t.tpg + l
      s.modThr (tkey tm sd i) (fun _ => { freshThread slot l (startGen seed t.no i sd) with clk := task.clk })) s
    s1.newGroup { noGroup with tm := tm, side := sd, slot := slot, members := ts, pc := entry, hdr := entry, entering := true,
                               lastIssue := s.cycle, readyAt := s.cycle }) s

/-- A team starts fresh (R66, R67). Its continuation areas stand where Ecide puts them: a free value, aligned (R200). -/
def State.startTeam (s : State) (tm : Nat) : State :=
  let t := s.team tm
  let task := s.task t.task
  let n := t.gpt * t.tpg
  let sregs := startS task t.no
  let t1 : Team :=
    { t with sE := sregs, sA := sregs, nb := [(0, freshBarrier (some n)), (15, freshBarrier (some n))], mode := .running, born := s.gtc,
             mcb := BitVec.ofNat 64 (s.choose (2 ^ 92 + tm) (2 ^ 52) * 4096), since := s.gtc }
  ((s.modTeam tm (fun _ => t1)).startSide tm .e).startSide tm .a

/-- A cluster starts fresh: its task runs from its first team on (R65, R172). -/
def State.startCluster (s : State) (c : Nat) (x : Cluster) : State :=
  let s1 := x.teams.foldl (fun s n => s.startTeam n) s
  let n := x.teams.foldl (fun n tm => n + (s.team tm).gpt * (s.team tm).tpg) 0
  let s2 : State := { s1 with clusters := kput s1.clusters c { x with
                                nb15E := freshBarrier (some n), nb15A := freshBarrier (some n),
                                                                    started := true } }
  if (s.task x.task).state = 2 then (s2.tcbPut x.task 0x40 8 s.gtc.toNat).setState x.task 3 0 0 0 else s2

/-- A restored cluster resumes: whole teams, and groups that had been evicted (R186). -/
def State.resumeCluster (s : State) (c : Nat) (x : Cluster) : State :=
  let s1 := x.teams.foldl (fun s n =>
    match (s.team n).mode with
    | .placed => s.restoreTeam n
    | _ => s) s
  { s1 with clusters := kmod s1.clusters c (fun x => { x with restore := false, started := true }) }

/-- Whether every rank of a cluster has its place and its tiles are no longer lent (R65, R125). -/
def State.clusterReady (s : State) (x : Cluster) : Bool :=
  x.teams.length == (s.task x.task).width && !(s.liveTeams x.teams).isEmpty && (s.liveTeams x.teams).all (fun n =>
    let t := s.team n
    t.mode == .placed && !(s.core t.core).lent.any (fun i => decide (t.tbase ≤ i ∧ i < t.tbase + t.lim.tiles)))

/-- Whether groups of a resident team that had been evicted have slots again and have not resumed. -/
def State.groupsBack (s : State) (tm : Nat) : Bool :=
  let t := s.team tm
  t.mode == .running && t.evicted.isEmpty && !s.saving tm && (!t.savedBins.isEmpty || s.groups.any (fun g => g.2.tm == tm && g.2.saved))

/-- TEAM_START: every rank of a cluster has been accepted, and its teams start fresh or as their contexts stood; evicted groups
of resident teams resume (R180, R186). -/
def execTeamStart (cluster : Nat) (s : State) : Out :=
  if !s.power then .fault .poweredOff
  else match kget s.clusters cluster with
  | none => .refused (.notEnabled "TEAM_START")
  | some x =>
    if s.clusterReady x then .next (if x.restore then s.resumeCluster cluster x else s.startCluster cluster x)
    else match x.teams.filter (fun n => x.restore && s.groupsBack n) with
      | [] => .refused (.notEnabled "TEAM_START")
      | ts =>
        let s1 := ts.foldl (fun s n => s.wakeSaved n) s
        .next { s1 with clusters := kmod s1.clusters cluster (fun x => { x with restore := false }) }

end Sys2Proof.Machine
end

