-- ==== Sys2Proof/Machine/Debug.lean ====
section
/-! DEFINITION. Breakpoints, the debugger's stop, resume and single step (R203 to R205), decode faults (R53), and the steps that
waiting brings about: deadlocked pairs (R106), re-fusion after a time (R73), aged bins (R83), the end of a yield (R404), and the
GTC (R14). -/

namespace Sys2Proof.Machine

/-- Whether a group may issue: it is not saved, nor its cluster being saved, and its team runs or takes a single step (R93, R185, R205). -/
def State.mayAct (s : State) (gid : Nat) : Bool :=
  let t := s.team (s.grp gid).tm
  !(s.grp gid).saved && !s.saving (s.grp gid).tm && (t.mode == .running || (t.mode == .stopped && !t.stepping.isEmpty))

/-- A group reports BREAK at the instruction that it was about to issue: its active threads, or all where none is active (R203, R204). -/
def State.breakGroup (s : State) (gid : Nat) : State :=
  let act := s.activeAt gid
  s.breakTo (s.placeOf gid) (if act.isEmpty then (s.grp gid).members else act) { s.hit .brk 0 with byMatch := true }

/-- Under a debugger's session the other groups of the team that were to issue in this cycle at an enabled breakpoint report it too,
though the team stops (R204, R221). -/
def State.breakMates (s : State) (gid : Nat) (done : State) : State :=
  let tm := (s.grp gid).tm
  let free := fun (k : Nat) => (s.activeAt k).all (fun t => match (s.thr ((s.grp k).key t)).park with | .none => true | .retry _ => true | _ => false)
  (s.due.filter (fun k => k != gid && (s.grp k).tm == tm && s.mayAct k && !s.waiting (s.grp k) && free k)).foldl (fun x k =>
    match (if (s.grp k).entering then x.enter k else .ok x) with
    | .ok y => if y.matches k then y.breakGroup k else x
    | .error _ => x) done

/-- BREAKPOINT_MATCH: a group about to issue at an enabled breakpoint raises BREAK without performing the instruction (R203,
R204). -/
def execBreakpointMatch (tm gid : Nat) (s : State) : Out :=
  if !s.power then .fault .poweredOff
  else if (s.grp gid).tm = tm && (kget s.groups gid).isSome && s.mayAct gid && s.matches gid then
    .next (if (s.part (s.partOf tm)).debug then s.breakMates gid (s.breakGroup gid) else s.breakGroup gid)
  else .refused (.notEnabled "BREAKPOINT_MATCH")

/-- Where a thread goes that the debugger lets go on: past a `brk`, else to the instruction it stood at (R204). -/
def State.afterStop (s : State) (g : Group) (t : Nat) : Dest :=
  match (s.thr (g.key t)).park with
  | .stopped .brk false => s.afterSeq g.tm g.pc g.hdr g.priv
  | _ => g.dest

/-- The members of a group that the debugger stopped may go on; a matched instruction does not match again (R204), and a `brk` at the end of
its block may not fall into a header of another kind (R25). -/
def State.releaseGroup (s : State) (gid : Nat) : State :=
  let g := s.grp gid
  let free := fun (th : Thread) => match th.park with
    | .stopped .brk true => { th with park := .none, passOnce := some g.pc }
    | .stopped .brk false => { th with park := .none, passOnce := none, h := { th.h with progressed := th.h.progressed || !g.priv } }
    | .stopped _ _ => { th with park := .none }
    | _ => if s.matches gid && g.members.any (fun t => (s.thr (g.key t)).park == .stopped .brk true) then
        { th with passOnce := some g.pc } else th
  let s1 := g.members.foldl (fun s t => s.modThr (g.key t) free) s
  let next := s.afterSeq g.tm g.pc g.hdr g.priv
  let past := g.members.filter (fun t => (s.thr (g.key t)).park == .stopped .brk false)
  if !past.isEmpty && next.entering && s.fallFault g.tm next.hdr then
    s1.raise gid g.pc g.hdr past (fun _ => s.hit .badTarget 0)
  else (s1.splitTo gid (s.afterStop g) (s.rcvOf g.tm g.hdr)).arriveHdr gid (Config.splitDepth + 1)

/-- No thread of a team is stopped any more: one whose group has fused with a group that went on before it goes on with it. -/
def State.freeStopped (s : State) (tm : Nat) : State :=
  { s with threads := s.threads.map (fun e => match e.2.park with
      | .stopped _ _ => if keyTm e.1 = tm then (e.1, { e.2 with park := .none }) else e
      | _ => e) }

/-- A stopped team runs again (R204). -/
def State.resumeTeam (s : State) (tm : Nat) : State :=
  let gs := (kkeys s.groups).filter (fun k => (s.grp k).tm == tm)
  let saved := gs.flatMap (fun k => let g := s.grp k; if g.saved then g.members.map g.key else []) ++
    ((s.team tm).savedBins.flatMap (fun b => b.filed.map (fun f => tkey tm .e f.thread)))
  let s1 := ((gs.foldl (fun s k => s.releaseGroup k) s).freeStopped tm).modTeam tm (fun t =>
    { t with mode := if t.mode = .stopped then .running else t.mode, stepping := [] })
  if (s.team tm).mode = .stopped then
    s1.modSince tm (fun t => [Side.e, Side.a].all (fun sd => !saved.contains (tkey tm sd t))) (Timer.resume s.gtc)
  else s1

/-- The teams of a partition that the debugger has stopped, saved ones among them. -/
def State.stoppedTeams (s : State) (p : Nat) : List Nat :=
  (kkeys s.teams).filter (fun n => (s.team n).part == p && ((s.team n).mode == .stopped || s.wasStopped n))

/-- CONTINUE: the debugger resumes every team it stopped (R204). -/
def execResume (part : Nat) (s : State) : Out :=
  if !s.power then .fault .poweredOff
  else if (s.part part).debug && !(s.stoppedTeams part).isEmpty then
    .next ((s.stoppedTeams part).foldl (fun s n => s.resumeTeam n) s)
  else .refused (.notEnabled "CONTINUE")

/-- Whether every active thread of a group may issue but for the debugger's stop. -/
def State.steppable (s : State) (gid : Nat) : Bool :=
  let g := s.grp gid
  !s.waiting g && !g.saved && !g.members.isEmpty && g.members.all (fun t =>
    match (s.thr (g.key t)).park with | .none => true | .stopped _ _ => true | .retry _ => true | _ => false)

/-- STEP: one instruction of a group of a stopped team issues, and the team stops again (R205). -/
def execStepGroup (tm gid : Nat) (s : State) : Out :=
  if !s.power then .fault .poweredOff
  else if (s.part (s.partOf tm)).debug && (s.team tm).mode == .stopped && (kget s.groups gid).isSome && (s.grp gid).tm == tm &&
      s.steppable gid then
    let s1 := (s.releaseGroup gid).modTeam tm (fun t => { t with stepping := (s.grp gid).members.map (s.grp gid).key })
    .next { s1 with agenda := .issue gid :: s1.agenda }
  else .refused (.notEnabled "STEP")

/-- After the issue of a single step the threads that may go on stop again with cause STEP (R205). -/
def State.stepDone (s : State) (tm : Nat) : State :=
  let t := s.team tm
  if t.mode = .stopped && !t.stepping.isEmpty then
    let s1 := t.stepping.foldl (fun s k =>
      if (kget s.threads k).isSome && (s.thr k).park = .none && !(s.thr k).exited then s.modThr k (fun th => { th with park := .stopped .step false })
      else s) s
    (s1.modSince tm (fun x => t.stepping.any (fun k => keyIx k == x)) (Timer.pause s.gtc)).modTeam tm (fun t => { t with stepping := [] })
  else s

/-- TILRAX_DBG_SESSION: a debugger takes or leaves a partition; leaving resumes what it stopped (R204, log 32). -/
def execTilraxDbgSession (part : Nat) (on : Bool) (s : State) : Out :=
  if !s.power then .fault .poweredOff
  else if (kget s.parts part).isSome && (s.part part).debug != on then
    let s1 := s.modPart part (fun q => { q with debug := on })
    .next (if on then s1 else (s1.stoppedTeams part).foldl (fun s n => s.resumeTeam n) s1)
  else .refused (.notEnabled "TILRAX_DBG_SESSION")

/-- DECODE_FAULT: the words at the issuing group's place are no instruction (R53): an unassigned one or a wrong prefix is raised to
every thread; a bad operand after the checks of side, privilege and guard. -/
def execDecodeFault (e : DecErr) (s : State) : Out :=
  if !s.power then .fault .poweredOff
  else match s.cur with
  | none => .refused (.notEnabled "DECODE_FAULT")
  | some c => match e with
    | .illegalOp => s.raiseAll c (s.grp c.gid).members .illegalOp 0
    | .badPfx => s.raiseAll c (s.grp c.gid).members .badPrefix 0
    | .badOperand side priv vx => withCur side priv { vx := vx, mxa := none } (fun _ _ => false) s (fun _ _ => .next s)
    | .priv vx => withCur .both false { vx := vx, mxa := none } (fun _ _ => true) s (fun c act => s.raiseAll c act .priv 0)

/-- Whether an execute thread is parked on a queue that only its partner can serve (R106). -/
def State.eStuck (s : State) (tm t : Nat) : Bool :=
  let p := s.pair (pkey tm t)
  match (s.thr (tkey tm .e t)).park with
  | .retry (.popQ q i) => (p.queue q).emptyAt i
  | .retry (.pushRq q) => decide (Config.fixedDepth ≤ (p.getRq q).length)
  | .retry (.pushSq q) => decide (Config.fixedDepth ≤ (p.getSq q).length)
  | _ => false

/-- Whether an access thread is parked on a queue that only its partner can serve (R106), at `fclose` with a stream that waits on a full
queue too (R349). -/
def State.aStuck (s : State) (tm t : Nat) : Bool :=
  let p := s.pair (pkey tm t)
  match (s.thr (tkey tm .a t)).park with
  | .retry (.popRq q) => (p.getRq q).isEmpty
  | .retry (.pushQ q n) => decide ((s.team tm).lim.depth < (p.queue q).places.length + n)
  | .retry (.fewSq q n) => decide ((p.getSq q).length < n)
  | .retry (.stream q) => (match (p.queue q).stream with
    | some x => !x.stopped && decide ((s.team tm).lim.depth ≤ (p.queue q).places.length)
    | none => false)
  | _ => false

/-- Whether a pair is in deadlock (R106). -/
def State.deadlocked (s : State) (tm t : Nat) : Bool :=
  let p := s.pair (pkey tm t)
  s.eStuck tm t && s.aStuck tm t && p.flights.all (fun f => f.cargo == .held) &&
    p.q.all (fun e => e.2.places.all (fun x => !x.isRecord))

/-- Address of the instruction that an access thread is parked at (R106). -/
def State.parkedAt (s : State) (tm t : Nat) : DWord :=
  match s.groupOf tm .a t with
  | some g => (s.grp g).pc
  | none => 0

/-- QUEUE_DEADLOCK: raised to the execute threads of a group whose pairs are in deadlock, at their parked instruction (R106). -/
def execQueueDeadlock (tm tid : Nat) (s : State) : Out :=
  if !s.power then .fault .poweredOff
  else match s.groupOf tm .e tid with
  | none => .refused (.notEnabled "QUEUE_DEADLOCK")
  | some gid =>
    if s.deadlocked tm tid && s.awake gid then
      let c := s.placeOf gid
      .next (s.raise gid c.pc c.hdr (s.activeAt gid) (fun t =>
        if s.deadlocked tm t then s.hit .queueDeadlock (s.parkedAt tm t) else s.noHit))
    else .refused (.notEnabled "QUEUE_DEADLOCK")

/-- Whether the wait for a record's siblings has lasted 256 cycles (R73). -/
def State.splitTimedOut (s : State) (sid : Nat) : Bool :=
  match kget s.splits sid with
  | some r => (match r.first with | some c => decide (c + Config.reconvergeCycles ≤ s.cycle) | none => false) &&
      !(s.waitersOf sid).isEmpty && (s.waitersOf sid).all (fun k => s.awake k)
  | none => false

/-- RECONVERGENCE_TIMEOUT: the threads present at a reconvergence header fuse without the others (R73). -/
def execReconvergenceTimeout (tm sid : Nat) (s : State) : Out :=
  if !s.power then .fault .poweredOff
  else
    let ws := s.waitersOf sid
    if s.splitTimedOut sid && ws.all (fun k => (s.grp k).tm == tm) then
      let sd := (ws.map (fun k => (s.grp k).side)).headD .e
      .next ((s.fusePresent sid).arriveAll tm sd)
    else .refused (.notEnabled "RECONVERGENCE_TIMEOUT")

/-- Whether the oldest entry of a bin has aged (R81, R83). -/
def State.binAged (s : State) (core bin : Nat) : Bool :=
  match kget (s.core core).bins bin with
  | some b => !b.filed.isEmpty && decide (b.oldest + (s.core core).ageOf ≤ s.cycle) && (s.team b.tm).mode == .running && !s.saving b.tm
  | none => false

/-- BIN_AGE_DRAW: a bin whose oldest entry has waited AGE cycles is drawn (R81, R83). -/
def execBinAgeDraw (core bin : Nat) (s : State) : Out :=
  if !s.power then .fault .poweredOff
  else if s.binAged core bin then
    .next (s.drawBin core bin (((kget (s.core core).bins bin).map (fun (b : Bin) => b.filed.length)).getD 0))
  else .refused (.notEnabled "BIN_AGE_DRAW")

/-- Whether a yield of a group has lasted 16 cycles (R404). -/
def Group.yieldOver (g : Group) (cycle : Nat) : Bool :=
  match g.yielded with
  | some c => decide (c + Config.yieldCycles ≤ cycle)
  | none => false

/-- YIELD_EXPIRY: a group that yielded is ready again after 16 cycles (R404). -/
def execYieldExpiry (tm gid : Nat) (s : State) : Out :=
  if !s.power then .fault .poweredOff
  else if (s.grp gid).tm = tm && (s.grp gid).yieldOver s.cycle then .next (s.modGrp gid (fun g => { g with yielded := none }))
  else .refused (.notEnabled "YIELD_EXPIRY")

/-- Sixteenths of a cycle, times ten, that one GTC increment takes at a clock step (R14, R320): ten increments in eleven cycles at
full clock. -/
def gtcSpan (cap : Nat) : Nat := 11 * (16 - cap)

/-- GTC_INCREMENT: the counter goes up by one and wraps (R14). -/
def execGtcIncrement (s : State) : Out :=
  if !s.power then .fault .poweredOff
  else .next { s with gtc := s.gtc + 1, gphase := s.gphase - gtcSpan s.cap }

end Sys2Proof.Machine
end

