-- ==== Sys2Proof/Machine/Service.lean ====
section
/-! DEFINITION. The host port (R309, R310), errors found without a consumer (R131), lent tiles (R125), partitions (R307, R308),
attestation (R316 to R318), upkeep (R11, R319), power and start-up (R8, R320, R321), and what the debugger and the management core do
besides (R52, R191, Table 9-8). -/

namespace Sys2Proof.Machine

/-- A partition whose virtual function is visible (R309, R321). -/
def State.visible (s : State) (p : Nat) : Bool := s.up && (kget s.parts p).isSome

/-- Bytes i to i + n − 1 of a register replaced. -/
def mergeReg (old : DWord) (i n : Nat) (v : DWord) : DWord :=
  BitVec.ofNat 64 (leNat ((List.range 8).map (fun j =>
    if i ≤ j ∧ j < i + n then BitVec.ofNat 8 (v.toNat / 2 ^ (8 * (j - i))) else BitVec.ofNat 8 (old.toNat / 2 ^ (8 * j)))))

/-- Whether a write is one aligned access of 1, 2, 4 or 8 bytes. -/
def alignedWrite (off width : Nat) : Bool := [1, 2, 4, 8].contains width && off % width == 0

/-- REGISTER_WRITE: a host write to BAR0 of a virtual function (R309, Table 19-1). A write that reaches SUBMIT as anything but one
aligned 64-bit write is dropped and counted; registers that may only be read, and every other offset, ignore it. -/
def execRegisterWrite (part off width : Nat) (value : BitVec 64) (s : State) : Out :=
  if !s.power then .fault .poweredOff
  else if !s.visible part then .refused (.notEnabled "REGISTER_WRITE")
  else if off < 8 then
    if off = 0 ∧ width = 8 then execSubmit part value s
    else .next (s.modPart part (fun q => { q with subDropped := q.subDropped + 1 }))
  else if !alignedWrite off width then .next s
  else if off / 8 = 2 then
    .next (s.modPart part (fun q => { q with apbase := mergeReg q.apbase (off % 8) width value &&& 0x00FFFFFFC0000000#64 }))
  else if off / 8 = 4 then
    .next (s.modPart part (fun q =>
      let n := min ((mergeReg q.telTail (off % 8) width value) - q.telTail).toNat q.tel.length
      { q with telTail := q.telTail + BitVec.ofNat 64 n, tel := q.tel.drop n }))
  else .next s

/-- Whether bytes lie in the BAR2 aperture (R310). -/
def inAperture (off n : Nat) : Bool := decide (off + n ≤ 2 ^ 30)

/-- A host write of bytes, page by page: translated, or dropped with a telemetry record (R310). -/
def State.hostWrite (s : State) (p : Nat) (l : List (DWord × Nat)) (bs : List Byte) : State :=
  match l with
  | [] => s
  | (va, n) :: t =>
    let s1 := match s.partRes p va with
      | none =>
        let c := s.xlateCause p va
        (s.partNote p hostSource c va).telemetry p (s.causeRec hostSource c.code va 0)
      | some r =>
        if !r.w then s.telemetry p (s.causeRec hostSource Cause.perm.code va 0)
        else ((s.keepTlb r).mergeLines (r.loc.words n)).unitWrite r.loc (bs.take n) none
    s1.hostWrite p t (bs.drop n)

/-- HOST_APERTURE_WRITE: through BAR2 at APBASE, as an access of class H (R310). -/
def execHostApertureWrite (part off : Nat) (bytes : List Byte) (s : State) : Out :=
  if !s.power then .fault .poweredOff
  else if s.visible part && inAperture off bytes.length then
    .next (s.hostWrite part (pieces ((s.part part).apbase + BitVec.ofNat 64 off) bytes.length) bytes)
  else .refused (.notEnabled "HOST_APERTURE_WRITE")

/-- Bytes that a host read returns, page by page: all ones where the translation fails (R310) or the data hold an uncorrectable error, each
with its record (R131, R307). -/
def State.hostBytes (s : State) (p : Nat) (l : List (DWord × Nat)) : List Byte × State :=
  match l with
  | [] => ([], s)
  | (va, n) :: t => match s.partRes p va with
    | none =>
      let (bt, s1) := (s.partNote p hostSource (s.xlateCause p va) va).hostBytes p t
      (List.replicate n 0xFF ++ bt, s1)
    | some r =>
      let s1 := (s.keepTlb r).mergeLines (r.loc.words n)
      if s1.corrupt (r.loc.words n) then
        let (bt, s2) := (s1.partNote p hostSource .integrity va).hostBytes p t
        (List.replicate n 0xFF ++ bt, s2)
      else
        let (bt, s2) := s1.hostBytes p t
        (s1.readMs r.loc n ++ bt, s2)

/-- HOST_APERTURE_READ: through BAR2 at APBASE; the value reaches the host (R310). -/
def execHostApertureRead (part off n : Nat) (s : State) : Out :=
  if !s.power then .fault .poweredOff
  else if s.visible part && inAperture off n then
    let (bs, s1) := s.hostBytes part (pieces ((s.part part).apbase + BitVec.ofNat 64 off) n)
    .next { s1 with hostRead := bs }
  else .refused (.notEnabled "HOST_APERTURE_READ")

/-- A dword of BAR0 of a partition's function as the host reads it (Table 19-1). -/
def Part.bar0 (q : Part) (i : Nat) : DWord :=
  match i with
  | 1 => q.subDropped ++ q.subTaken
  | 2 => q.apbase
  | 3 => q.telHead
  | 4 => q.telTail
  | _ => 0

/-- A byte of a register of the port: all ones until physical function 0 is visible (R321), and of a function that is not there; what
physical function 0 holds is free. -/
def State.portByte (s : State) (fn : Option Nat) (off : Nat) : Byte :=
  match s.up, fn with
  | false, _ => 0xFF
  | true, none => BitVec.ofNat 8 (Config.pick (s.tick * 2 ^ 96 + 2 ^ 91 + off) 256)
  | true, some p => match kget s.parts p with
    | some q => BitVec.ofNat 8 ((q.bar0 (off / 8)).toNat / 2 ^ (8 * (off % 8)))
    | none => 0xFF

/-- The host reads bytes of a register of the port (R309, R321). -/
def State.readPort (s : State) (fn : Option Nat) (off width : Nat) : Out :=
  if !s.power then .fault .poweredOff
  else .next { s with hostRead := (List.range width).map (fun i => s.portByte fn (off + i)) }

/-- The core whose source number this is (R9, R12). -/
def State.coreAt (s : State) (source : Nat) : Option Nat :=
  (List.range 240).find? (fun c => s.srcCore c == source && !(s.core c).absent)

/-- The partition that owns the location of an error: the holder of an address of L2 or HBM4E; the core's for its arrays (R131). Shadow
storage is Ecide's, who names the partition that it serves. -/
def State.errOwner (s : State) (part : Nat) (core : Option Nat) (array addr : Nat) : Option Nat :=
  if array = 7 ∨ array = 9 then s.holder addr
  else if array = 8 then some part
  else core.bind (fun c => (s.core c).part)

/-- A record of an error goes to the management core's log, and to the telemetry ring of the owner (R131). -/
def State.errNote (s : State) (owner : Option Nat) (r : MachineCheck) : State :=
  let rec_ : TelRec := { gtc := s.gtc, w1 := r.source ++ r.array ++ r.kind ++ 0#32, w2 := r.addr,
                         w3 := r.syndrome ++ s.errCount r.source.toNat r.array.toNat }
  let s1 : State := { s with mclog := s.mclog ++ [rec_] }
  match owner with
  | some p => s1.telemetry p rec_
  | none => s1

/-- An element of a queue memory, by its array index, holds an uncorrectable error. -/
def Pair.spoilElem (p : Pair) (code pos : Nat) : Pair :=
  let mark := fun (l : List Elem) => l.zipIdx.map (fun e => if e.2 = pos then { e.1 with bad := true } else e.1)
  if code < 16 then
    let q := p.queue code
    p.setQ code { q with places := q.places.zipIdx.map (fun e => match e.1 with
      | .full w t c b => .full w t c (b || e.2 == pos)
      | x => x) }
  else if code < 32 then p.setRq (code - 16) (mark (p.getRq (code - 16)))
  else p.setSq (code - 32) (mark (p.getSq (code - 32)))

/-- A word of an array now holds an uncorrectable error, which its next consumer meets (R131). -/
def State.spoil (s : State) (core : Option Nat) (array addr : Nat) : State :=
  let word := (Loc.hbm addr).wkey
  let on := fun (f : Team → Bool) => (core.map (fun c => (s.residents c).find? (fun n => f (s.team n)))).join
  match array with
  | 2 =>
    let pk := addr / 4096
    if (kget s.pairs pk).isSome then s.modPair pk (fun p => p.spoilElem (addr / 64 % 64) (addr % 64)) else s
  | 3 => match on (fun t => decide (t.tbase ≤ addr / 16384 ∧ addr / 16384 < t.tbase + t.lim.tiles)) with
    | some n => { s with bad := insertNat (Loc.scratch n (addr - (s.team n).tbase * 16384)).wkey s.bad }
    | none => s
  | 4 => match core with
    | some c => { s with badL1 := (c, word) :: s.badL1 }
    | none => s
  | 5 => match on (fun t => decide (t.abase ≤ addr ∧ addr < t.abase + t.lim.accs)) with
    | some n => { s with badAcc := (n, addr - (s.team n).abase) :: s.badAcc }
    | none => s
  | 6 => match core with
    | some c => { s with badCode := (c, word) :: s.badCode }
    | none => s
  | 7 => { s with bad := insertNat word s.bad }
  | 8 => s
  | 9 => { s with bad := insertNat word s.bad }
  | _ =>
    let k := addr / 128
    if (kget s.threads k).isSome && (keySide k).num == array then
      s.modThr k (fun t => { t with bad := insertNat (addr % 128) t.bad })
    else s

/-- SCRUB_ERROR: an error of an array of an agent (R130, R131, Table 5-4). A corrected one is counted, and writes a record when the count
crosses a power of two. An uncorrectable one that eviction or scrubbing finds writes its record; the word keeps the error for its next
consumer, as does one that nothing has found yet (kind 1). -/
def execScrubError (part : Nat) (r : MachineCheck) (s : State) : Out :=
  if !s.power then .fault .poweredOff
  else
    let src := r.source.toNat
    let array := r.array.toNat
    let core := s.coreAt src
    let owner := s.errOwner part core array r.addr.toNat
    if decide (array ≤ 9 ∧ r.kind.toNat ≤ 2) && (decide (7 ≤ array) || core.isSome) && (owner == some part || owner.isNone) then
      let old := (s.errCount src array).toNat
      let new := min (old + 1) (2 ^ 32 - 1)
      let counted : State := { s with errs := kput s.errs (errKey src array) new }
      .next (match r.kind.toNat with
        | 0 => if new != old && isPow2 new then counted.errNote owner r else counted
        | 1 => s.spoil core array r.addr.toNat
        | _ => (s.errNote owner r).spoil core array r.addr.toNat)
    else .refused (.notEnabled "SCRUB_ERROR")

/-- LENT_TILE_DRAIN: a tile granted to a launch has drained from L1 and is zeroed (R125). -/
def execLentTileDrain (core : Nat) (s : State) : Out :=
  if !s.power then .fault .poweredOff
  else match (s.core core).lent with
  | [] => .refused (.notEnabled "LENT_TILE_DRAIN")
  | _ :: rest => .next (s.modCore core (fun c => { c with lent := rest }))

/-- A telemetry record to every partition (R319). -/
def State.announce (s : State) (v w : DWord) : State :=
  (kkeys s.parts).foldl (fun s p => s.telemetry p (s.causeRec 0xFFFF 0 v w)) s

/-- No two partitions share anything of two lists. -/
def disjoint (a b : List Nat) : Bool := a.all (fun x => !b.contains x)

/-- GiB of HBM4E that Ecide grants: 1/64 of each stack, the last twelve, is reserved for repair (R319). -/
def grantable : Nat := 756

/-- Cores and grants of the other partitions leave room for those of a configuration (R307, R319). -/
def State.roomFor (s : State) (p : Nat) (cores grant : List Nat) : Bool :=
  let others := s.parts.filter (fun e => e.1 != p)
  decide cores.Nodup && decide grant.Nodup && cores.all (fun c => decide (c < 240) && !(s.core c).absent) &&
    grant.all (fun g => decide (g < grantable)) &&
    others.all (fun e => disjoint cores e.2.cfg.cores && disjoint grant e.2.cfg.grant)

/-- Cores belong to a partition. -/
def State.giveCores (s : State) (cores : List Nat) (p : Option Nat) : State :=
  cores.foldl (fun s c => s.modCore c (fun x => { x with part := p, table := [], needs := [], lent := [] })) s

/-- A ring as Ecide sets it up: every counter 0 (R302). -/
def freshRing (p : Nat) (c : RingCfg) : Ring :=
  { part := p, cfg := c, tail := 0, pub := 0, head := 0, rel := 0, posted := [], freed := [], postClk := [], freeClk := [] }

/-- What the ring registers of Table 18-3 can hold. -/
def ringLegal (c : RingCfg) : Bool :=
  decide (1 ≤ c.ssize ∧ c.ssize ≤ 255 ∧ 1 ≤ c.logn ∧ c.logn ≤ 16) && c.base.extractLsb' 0 7 == 0#7

/-- The ways that the partitions of the device and a new one reserve in each Sett: 0 to 8 for versions and 0 to 8 for shadow storage, so
that 8 of the 24 remain for caching (R128). -/
def State.waysFit (s : State) (cfg : PartCfg) : Bool :=
  decide (cfg.verWays + s.parts.foldl (fun n e => n + e.2.cfg.verWays) 0 ≤ 8 ∧
    cfg.shadowWays + s.parts.foldl (fun n e => n + e.2.cfg.shadowWays) 0 ≤ 8)

/-- PARTITION_CREATE: Ecide creates a partition, and its virtual function appears (R302, R307 to R309, R128, R321). -/
def execPartitionCreate (part : Nat) (cfg : PartCfg) (s : State) : Out :=
  if !s.power then .fault .poweredOff
  else if s.up && !s.recovery && decide (part ≤ 23) && (kget s.parts part).isNone && s.roomFor part cfg.cores cfg.grant &&
      decide (cfg.share + s.parts.foldl (fun n e => n + e.2.cfg.share) 0 ≤ 64) && s.waysFit cfg &&
      cfg.rings.all (fun e => decide (e.1 < 1024) && (kget s.rings e.1).isNone && ringLegal e.2) then
    let s1 : State := { s with parts := kput s.parts part (freshPart cfg),
                               rings := cfg.rings.foldl (fun m e => kput m e.1 (freshRing part e.2)) s.rings }
    .next ((s1.giveCores cfg.cores (some part)).dropTlb part none)
  else .refused (.notEnabled "PARTITION_CREATE")

/-- Whether no team holds resources of a core and no record waits there. -/
def State.idleCore (s : State) (c : Nat) : Bool := (s.residents c).isEmpty && (s.core c).nextRecord.isNone

/-- A frame number of one grant as a number of another; none where its GiB is gone. -/
def moveFrame (old new : List Nat) (f : Nat) : Option Nat :=
  let g := old.getD (f / 2 ^ 18) 768
  if new.contains g then some ((new.findIdx (· == g)) * 2 ^ 18 + f % 2 ^ 18) else none

/-- Frames whose dirty bit is set. -/
def Part.dirtyFrames (p : Part) : List Nat := p.dirty.flatMap (fun e => (bitsList e.2).map (fun i => 64 * e.1 + i))

/-- PARTITION_RESIZE: cores and grant change; what stays keeps its frames' bits (R307, R312). -/
def execPartitionResize (part : Nat) (cores grant : List Nat) (s : State) : Out :=
  if !s.power then .fault .poweredOff
  else
    let q := s.part part
    let gone := q.cfg.cores.filter (fun c => !cores.contains c)
    if (kget s.parts part).isSome && !q.migrating && s.roomFor part cores grant && gone.all (fun c => s.idleCore c) then
      let move := fun (l : List Nat) => l.filterMap (moveFrame q.cfg.grant grant)
      let q1 : Part := { q with cfg := { q.cfg with cores := cores, grant := grant }, dirty := [], l2dirty := move q.l2dirty }
      let q2 := (move q.dirtyFrames).foldl (fun p f => setDirty f p) q1
      let s1 := (s.giveCores gone none).modPart part (fun _ => q2)
      .next (s1.giveCores (cores.filter (fun c => !q.cfg.cores.contains c)) (some part))
    else .refused (.notEnabled "PARTITION_RESIZE")

/-- Type of the last record of an image (Table 19-4). -/
def endType : BitVec 15 := 0x7FFF

/-- Whether a partition's image has been written in whole: its tasks go on elsewhere (R313, R314). -/
def Part.sentAway (q : Part) : Bool := q.mode == .swapped && q.image.any (fun r => r.typ == endType)

/-- PARTITION_DELETE: a partition whose tasks are over, or go on elsewhere, is gone, with its rings and its cores' grant (R307). -/
def execPartitionDelete (part : Nat) (s : State) : Out :=
  if !s.power then .fault .poweredOff
  else
    let live := s.tasks.any (fun t => t.2.part == part && decide (1 ≤ t.2.state ∧ t.2.state ≤ 3))
    if (kget s.parts part).isSome && (!live || (s.part part).sentAway) then
      let s1 := ((kkeys s.teams).filter (fun n => (s.team n).part == part)).foldl (fun s n => s.discardTeam n) s
      let s2 := (s1.giveCores (s.part part).cfg.cores none).dropTlb part none
      .next { s2 with parts := kdel s2.parts part, rings := s2.rings.filter (fun e => e.2.part != part),
                      tasks := s2.tasks.filter (fun e => e.2.part != part) }
    else .refused (.notEnabled "PARTITION_DELETE")

/-- CORE_RETIREMENT: the row's spare takes over the logical column of a core whose teams have moved; where the spare is in use
already, the position is absent (R11, R319). -/
def execCoreRetirement (core : Nat) (s : State) : Out :=
  if !s.power then .fault .poweredOff
  else if core < 240 ∧ s.up = true ∧ (s.core core).absent = false ∧ s.idleCore core = true then
    let used := s.spareUsed.any (fun c => c / 15 == core / 15)
    let s1 := (kkeys (s.core core).upd).foldl (fun s k => s.mergeWord core k) s
    let s2 : State := if used then s1.modCore core (fun c => { c with absent := true }) else { s1 with spareUsed := s1.spareUsed ++ [core] }
    .next (s2.announce (BitVec.ofNat 64 (s.srcCore core)) (BitVec.ofNat 64 core))
  else .refused (.notEnabled "CORE_RETIREMENT")

/-- PSEUDO_CHANNEL_RETIREMENT: its contents stand in repair space from now on, at the same addresses; that space takes one of the 64
pseudo-channels of a stack (R319, log 127). -/
def execPseudoChannelRetirement (stack channel : Nat) (s : State) : Out :=
  if !s.power then .fault .poweredOff
  else if stack < 12 ∧ channel < 64 ∧ s.up = true ∧ s.channels.all (fun e => e.1 != stack) = true then
    .next (({ s with channels := s.channels ++ [(stack, channel)] } : State).announce (BitVec.ofNat 64 stack) (BitVec.ofNat 64 channel))
  else .refused (.notEnabled "PSEUDO_CHANNEL_RETIREMENT")

/-- LYNX_LANE_DEGRADE: a port goes on with fewer lanes, and rows in flight are sent again (R319, R284). -/
def execLynxLaneDegrade (port lanes : Nat) (s : State) : Out :=
  if !s.power then .fault .poweredOff
  else if 320 ≤ port ∧ port ≤ 331 ∧ (lanes = 4 ∨ lanes = 2) ∧ lanes < kgetD s.lanes port 8 ∧ s.up = true then
    let s1 : State := { s with lanes := kput s.lanes port lanes,
                               sends := s.sends.map (fun x => if x.port = port then { x with started := x.acked } else x) }
    .next (s1.announce (BitVec.ofNat 64 port) (BitVec.ofNat 64 lanes))
  else .refused (.notEnabled "LYNX_LANE_DEGRADE")

/-- PCIE_DEGRADE: the port goes on at x8 or x4 (R319). -/
def execPcieDegrade (width : Nat) (s : State) : Out :=
  if !s.power then .fault .poweredOff
  else if (width = 8 ∨ width = 4) ∧ width < s.pcieWidth ∧ s.up = true then
    .next (({ s with pcieWidth := width } : State).announce (BitVec.ofNat 64 hostSource) (BitVec.ofNat 64 width))
  else .refused (.notEnabled "PCIE_DEGRADE")

/-- HBM_RECALIBRATION: accesses to one channel are delayed, and a record tells every partition (R319). -/
def execHbmRecalibration (stack channel : Nat) (s : State) : Out :=
  if !s.power then .fault .poweredOff
  else if stack < 12 ∧ s.up = true then .next (s.announce (BitVec.ofNat 64 stack) (BitVec.ofNat 64 channel))
  else .refused (.notEnabled "HBM_RECALIBRATION")

/-- POWER_CAP: the clock goes one step of 1/16 down or up; the GTC is unaffected (R320). -/
def execPowerCap (sixteenths : Nat) (s : State) : Out :=
  if !s.power then .fault .poweredOff
  else if sixteenths ≤ 15 ∧ (sixteenths = s.cap + 1 ∨ sixteenths + 1 = s.cap) then .next { s with cap := sixteenths }
  else .refused (.notEnabled "POWER_CAP")

/-- The device without power (R8): the fuses stay, and host memory is not the device's. -/
def State.off (s : State) : State :=
  { State.reset with power := false, fuses := s.fuses, agenda := s.agenda, tick := s.tick, mem := s.mem.filter (fun e => isHost e.1) }

/-- COOLANT_OVER_LIMIT: with every clock at its lowest step, Ecide ends all tasks with cause ENDED and removes power (R320, R8). -/
def execCoolantOverLimit (s : State) : Out :=
  if !s.power then .fault .poweredOff
  else if s.cap = 15 then
    let live := (kkeys s.tasks).filter (fun t => decide (1 ≤ (s.task t).state ∧ (s.task t).state ≤ 3))
    .next (live.foldl (fun s t => (s.endedRecord t 0xFFFF .ended).endTask t 6 .ended 0 0 none none) s).off
  else .refused (.notEnabled "COOLANT_OVER_LIMIT")

/-- POWER_REMOVED: every volatile state is lost (R8). -/
def execPowerRemoved (s : State) : Out := if !s.power then .fault .poweredOff else .next s.off

/-- The measurement log after a component is loaded (R317). -/
def extendLog (log : BitVec 512) (component : List Byte) : BitVec 512 :=
  sha512 (beBytes 64 log.toNat ++ beBytes 64 (sha512 component).toNat)

/-- Whether what the fuses hold is the same (R8, R316). -/
def sameFuses (a b : BootCfg) : Bool :=
  a.spareCol == b.spareCol && a.imageKey == b.imageKey && a.idPublic == b.idPublic && a.idPrivate == b.idPrivate

/-- POWER_GOOD: the boot ROM verifies image A, then image B; the spare map comes from fuses, the mesh is brought up, and physical
function 0 becomes visible, with nothing but the recovery registers where both images fail (R316, R317, R321). The fuses of a
module that had power before are those it had. Bring-up uses no spare: each of the sixteen rows still has its own (R11, log 104). -/
def execPowerGood (boot : BootCfg) (s : State) : Out :=
  if s.power && (s.up || s.recovery) then .refused (.notEnabled "POWER_GOOD")
  else if s.fuses != noFuses && !sameFuses boot s.fuses then .refused (.notEnabled "POWER_GOOD")
  else
    let okA := Config.verifyImage boot.imageKey boot.imageA
    let img := if okA then some boot.imageA else if Config.verifyImage boot.imageKey boot.imageB then some boot.imageB else none
    .next { s with power := true, fuses := boot, identSpares := 16, up := true, recovery := img.isNone, slotB := !okA,
                   imageA := boot.imageA, imageB := boot.imageB,
                   mlog := match img with | some b => extendLog 0 b | none => 0 }

/-- ECIDE_HANDOVER: Ecide verifies and loads the image of the inactive slot, and its handover begins: until it ends no bind record is
written, and submissions and releases wait in the ready queues. At its end the new image has taken over, or, where it failed, the old
one runs on (R317, R318). -/
def execEcideHandover (component : List Byte) (ok : Bool) (s : State) : Out :=
  if !s.power then .fault .poweredOff
  else if !s.up || s.recovery then .refused (.notEnabled "ECIDE_HANDOVER")
  else match s.handover with
  | none =>
    let s1 : State := if s.slotB then { s with imageA := component } else { s with imageB := component }
    .next (if Config.verifyImage s.fuses.imageKey component then
      { s1 with handover := some component, mlog := extendLog s.mlog component } else s1)
  | some new =>
    if component = new then .next { s with handover := none, slotB := if ok then !s.slotB else s.slotB }
    else .refused (.notEnabled "ECIDE_HANDOVER")

/-- What a configuration digest is taken of. -/
def cfgBytes (c : PartCfg) : List Byte :=
  (c.cores ++ c.grant).flatMap (leBytes 8) ++ [c.share, c.ptroot.toNat, c.htab.toNat, c.verWays, c.shadowWays, c.telCap].flatMap (leBytes 8)

/-- QUOTE: a signed quote of the partition, the log, the configuration, a nonce and the GTC (R317). -/
def execQuote (part : Nat) (nonce : BitVec 512) (s : State) : Out :=
  if !s.power then .fault .poweredOff
  else if s.visible part then
    let body := leBytes 8 part ++ leBytes 64 s.mlog.toNat ++ Config.configDigest (cfgBytes (s.part part).cfg) ++
      leBytes 64 nonce.toNat ++ leBytes 8 s.gtc.toNat
    .next { s with quotes := s.quotes ++ [{ part := part, log := s.mlog, nonce := nonce, gtc := s.gtc, body := Config.sign s.fuses.idPrivate body }] }
  else .refused (.notEnabled "QUOTE")

/-- `tlbi` on the management core's behalf, of the page at an address or of every page of a partition (R52, R210). -/
def State.serviceTlbi (s : State) (part : Nat) (va : Option DWord) : Out :=
  if !s.power then .fault .poweredOff
  else if (kget s.parts part).isSome then .next (s.dropTlb part (va.map BitVec.toNat))
  else .refused (.notEnabled "TLBI")

/-- The debugger that holds a partition sets or clears a breakpoint register (Table 9-8, R203). -/
def State.setBreakpoint (s : State) (part n : Nat) (value : DWord) : Out :=
  if !s.power then .fault .poweredOff
  else if (s.part part).debug && decide (n < 8) && srTakes (0x28 + n) value then
    .next (s.modPart part (fun q => { q with bp := kput q.bp n value }))
  else .refused (.notEnabled "TILRAX_DBG_SESSION")

/-- An uncorrectable error in a group's program counter or split records ends the group (R191, Table 9-3). -/
def State.groupError (s : State) (gid : Nat) : Out :=
  if !s.power then .fault .poweredOff
  else match kget s.groups gid with
  | none => .refused (.notEnabled "SCRUB_ERROR")
  | some g =>
    let s1 := s.machineCheck (s.partOf g.tm) (s.srcCore (s.coreOf g.tm)) g.side.num 1 0
    .next ((s1.setRegs g.tm g.side g.members g.pc g.hdr (fun _ => s.hit .machineCheck 0)).endGroup g.tm g.side g.members)

end Sys2Proof.Machine
end

