-- ==== Sys2Proof/Machine/Migration.lean ====
section
/-! DEFINITION. The dirty bitmap and its harvest (R312), pre-copy rounds and sealed frames (R313), the context image at its source and at
its destination (R314, R315), and its refusal. -/

namespace Sys2Proof.Machine

/-- L2_WRITE_BACK: a line dirty in L2 reaches HBM, and its frame's bit is set (R312). -/
def execL2WriteBack (part frame : Nat) (s : State) : Out :=
  if !s.power then .fault .poweredOff
  else if (s.part part).l2dirty.contains frame then
    .next (s.modPart part (fun q => setDirty frame { q with l2dirty := q.l2dirty.filter (· != frame) }))
  else .refused (.notEnabled "L2_WRITE_BACK")

/-- Adds frames to those a round still sends. -/
def addFrames (l new : List Nat) : List Nat := new.foldl (fun l f => insertNat f l) l

/-- DIRTY_HARVEST: fetch-and-clear of one dword of the bitmap; in a migration its frames are to be sent (R312, R313). -/
def execDirtyHarvest (part dword : Nat) (s : State) : Out :=
  if !s.power then .fault .poweredOff
  else
    let q := s.part part
    if (kget s.parts part).isSome && decide (dword < q.cfg.grant.length * 4096) then
      let fs := (bitsList (kgetD q.dirty dword 0)).map (fun i => 64 * dword + i)
      .next (s.modPart part (fun q =>
        { q with dirty := kdel q.dirty dword, toSend := if q.migrating then addFrames q.toSend fs else q.toSend }))
    else .refused (.notEnabled "DIRTY_HARVEST")

/-- Frames of a partition's grant. -/
def Part.frameCount (q : Part) : Nat := q.cfg.grant.length * 2 ^ 18

/-- MIGRATION_ROUND: round 0 of a new session names every frame of the grant; a later one, while the last named no fewer frames than Ecide's
threshold, harvests the bitmap and names what it held; after the swap one harvests it a last time, when no line is dirty in L2 any more
(R313). -/
def execMigrationRound (part : Nat) (s : State) : Out :=
  if !s.power then .fault .poweredOff
  else
    let q := s.part part
    let more := match q.mode with
      | .active => !q.migrating || decide (q.cfg.threshold ≤ q.named)
      | .swapped => q.migrating && q.l2dirty.isEmpty
      | .receiving _ _ _ => false
    if (kget s.parts part).isSome && q.toSend.isEmpty && (!q.migrating || q.image.isEmpty) && more then
      .next (if q.migrating then
        s.modPart part (fun q =>
          { q with toSend := addFrames [] q.dirtyFrames, named := q.dirtyFrames.length, dirty := [], round := q.round + 1 })
      else
        ({ s with nextId := s.nextId + 1 } : State).modPart part (fun q =>
          { q with migrating := true, round := 0, fails := 0, frames := 0, session := s.nextId, named := q.frameCount, image := [],
                   toSend := List.range q.frameCount }))
    else .refused (.notEnabled "MIGRATION_ROUND")

/-- Resumes the teams of a swapped-out partition: the saved clusters that fit where they stood, the highest priority first (R186,
R311). -/
def State.resumePart (s : State) (part : Nat) : State :=
  let cs := (kkeys s.clusters).filter (fun c => (s.clusterTeams c).any (fun n => (s.team n).part == part))
  let prio := fun c => ((s.clusterTeams c).map (fun n => s.prioOf n)).headD 0
  (s.modPart part (fun q => { q with mode := .active })).restoreFitting (sortBy (fun a b => decide (prio b < prio a)) cs)

/-- The source partition resumes unchanged: the migration is given up (R313). -/
def State.giveUp (s : State) (part : Nat) : State :=
  let swapped := (s.part part).mode == .swapped
  let s1 := s.modPart part (fun q => { q with migrating := false, toSend := [], round := 0, fails := 0, image := [] })
  if swapped then s1.resumePart part else s1

/-- The address of a frame of a partition's grant. -/
def framePa (p : Part) (f : Nat) : Nat := (p.cfg.grant.getD (f / 2 ^ 18) 768) * 2 ^ 30 + f % 2 ^ 18 * 4096

/-- Key and nonce of the next frame of a partition's session: the nonce is the session's frame counter (R313). -/
def Part.nonce (q : Part) : BitVec 256 × BitVec 96 := (Config.sessionKey q.session, BitVec.ofNat 96 q.frames)

/-- A frame as the source sends it, sealed (R313). -/
def State.sealFrame (s : State) (part frame : Nat) : List Byte :=
  let q := s.part part
  sealBytes q.nonce.1 q.nonce.2 (s.mBytes (framePa q frame) 4096)

/-- The source has sealed a frame and sent it, and hears whether its tag was right: it goes on, or sends the frame again, or gives the
migration up at the third failure. The frame counter never repeats (R313). -/
def State.frameSent (s : State) (part frame : Nat) (tagOk : Bool) : State :=
  let q := s.part part
  let s1 : State := { s with sealed := s.sealFrame part frame }
  if tagOk then s1.modPart part (fun q => { q with toSend := q.toSend.tail, frames := q.frames + 1, fails := 0 })
  else
    let s2 := s1.modPart part (fun q => { q with frames := q.frames + 1, fails := q.fails + 1 })
    if 3 ≤ q.fails + 1 then s2.giveUp part else s2

/-- A sealed frame arrives at a destination: one whose tag is right is written, and any other is dropped and asked for again (R313). The
first one begins a session. -/
def State.frameCame (s : State) (part frame : Nat) (bytes : List Byte) : State :=
  let s0 := if (s.part part).mode == .active then
      ({ s with nextId := s.nextId + 1 } : State).modPart part (fun q => { q with mode := .receiving 0 0 [], session := s.nextId, frames := 0, image := [] })
    else s
  let q := s0.part part
  let s1 := match openBytes q.nonce.1 q.nonce.2 bytes with
    | some bs => s0.unitWrite (.hbm (framePa q frame)) bs none
    | none => s0
  s1.modPart part (fun q => { q with frames := q.frames + 1 })

/-- PRECOPY_FRAME: at the source, the next frame of a round goes off; at a destination that holds no task, one arrives (R313). -/
def execPrecopyFrame (part frame : Nat) (bytes : List Byte) (tagOk : Bool) (s : State) : Out :=
  if !s.power then .fault .poweredOff
  else
    let q := s.part part
    let open_ := match q.mode with
      | .active => true
      | .receiving _ _ seen => seen.isEmpty
      | .swapped => false
    if q.migrating && q.toSend.head? == some frame then .next (s.frameSent part frame tagOk)
    else if (kget s.parts part).isSome && !q.migrating && open_ && s.tasks.all (fun t => t.2.part != part) &&
        decide (frame < q.frameCount) && decide (bytes.length = 4112) then .next (s.frameCame part frame bytes)
    else .refused (.notEnabled "PRECOPY_FRAME")

/-- Whether a partition's last frames have been sent (R313): nothing is dirty any more, and no copy or `kvq` of its teams runs. -/
def State.allSent (s : State) (part : Nat) : Bool :=
  let q := s.part part
  q.toSend.isEmpty && q.l2dirty.isEmpty && q.dirty.isEmpty && s.copies.all (fun c => s.partOf c.tm != part) &&
    s.kvqs.all (fun c => s.partOf c.tm != part)

/-- A record of image version 1 at a place of an image: telemetry and statistics need not be understood (Tables 19-3 and 19-4). -/
def imgRec (typ : BitVec 15) (place : Nat) (body : ImgBody) : ImgRec :=
  { typ := typ, mand := typ != 0x10 && typ != 0x11, version := 1,
    length := if typ = endType then 0 else Config.recordLength typ.toNat place, body := body }

/-- Whether a partition's image holds a record. -/
def Part.wrote (q : Part) (f : ImgBody → Bool) : Bool := q.image.any (fun r => f r.body)

/-- A record of the image of a halted partition, written after its last frames have been sent; the header comes first, the end last, and none
twice (R313, R314). -/
def imageRecord (name : String) (part : Nat) (typ : BitVec 15) (ok : Bool) (body : ImgBody) (s : State) : Out :=
  if !s.power then .fault .poweredOff
  else
    let q := s.part part
    if q.mode == .swapped && q.migrating && s.allSent part && (typ == 1) == q.image.isEmpty &&
        q.image.all (fun r => r.typ != endType) && !q.wrote (· == body) && ok then
      .next (s.modPart part (fun q => { q with image := q.image ++ [imgRec typ q.image.length body] }))
    else .refused (.notEnabled name)

/-- PARTITION_HEADER: grant size, cluster shapes and register values (Table 19-4). -/
def execPartitionHeader (part : Nat) (s : State) : Out :=
  let q := s.part part
  let shapes := (kkeys s.clusters).filterMap (fun c => match kget s.clusters c with
    | some x => let t := s.task x.task; if t.part = part then some (t.cw, t.ch) else none
    | none => none)
  imageRecord "PARTITION_HEADER" part 1 true
    (.header q.cfg.grant.length s.nextId [q.ptroot, q.htab, q.seed, q.minres, q.eddl, q.bchk, q.kvfreq, q.kvsalt, q.kvdir, q.apbase] q.bp
      shapes) s

/-- A team's saved context. -/
def State.teamImage (s : State) (tm : Nat) : TeamImage :=
  let gs := s.groups.filter (fun e => e.2.tm == tm)
  let sids := gs.flatMap (fun e => e.2.stack)
  { no := tm, team := s.team tm, cluster := kget s.clusters (s.team tm).cluster,
    threads := s.threads.filter (fun e => keyTm e.1 == tm), pairs := s.pairs.filter (fun e => e.1 / 1024 == tm), groups := gs,
    splits := s.splits.filter (fun e => sids.contains e.1), sends := s.sends.filter (fun x => x.tm == tm), cycle := s.cycle }

/-- TEAM_CONTEXT: the saved context of a team (R93, R115, Table 19-4). -/
def execTeamContext (part tm : Nat) (s : State) : Out :=
  let t := s.team tm
  imageRecord "TEAM_CONTEXT" part 2
    ((kget s.teams tm).isSome && t.part == part && t.mode == .saved &&
      !(s.part part).wrote (fun b => match b with | .team x => x.no == tm | _ => false))
    (.team (s.teamImage tm)) s

/-- TASK_RECORD: a TCB in states 1 to 3 and its place in the ready queues, stamps included (Table 19-4). -/
def execTaskRecord (part task : Nat) (s : State) : Out :=
  let t := s.task task
  imageRecord "TASK_RECORD" part 3 ((kget s.tasks task).isSome && t.part == part && decide (1 ≤ t.state ∧ t.state ≤ 3))
    (.task task t) s

/-- The commands of a partition's teams that a core's Bear holds. -/
def State.partBear (s : State) (part core : Nat) : List BearCmd := (s.core core).bear.filter (fun c => s.partOf c.tm == part)

/-- BEAR_CONTINUATION: the operations that stopped at a k-block boundary on a core, and those behind them (Tables 9-6 and 19-4). -/
def execBearContinuation (part core : Nat) (s : State) : Out :=
  imageRecord "BEAR_CONTINUATION" part 4 (!(s.partBear part core).isEmpty) (.bear core (s.partBear part core)) s

/-- LYNX_FLOWS: flow ids, next sequence numbers and first unacknowledged rows (Table 19-4). -/
def execLynxFlows (part : Nat) (s : State) : Out :=
  imageRecord "LYNX_FLOWS" part 5 true (.flows (s.part part).flows (s.part part).rflows) s

/-- TIME_RECORD: the source's GTC at the halt (R315, Table 19-4). -/
def execTimeRecord (part : Nat) (s : State) : Out :=
  imageRecord "TIME_RECORD" part 6 (!(s.part part).wrote (fun b => match b with | .time _ => true | _ => false)) (.time s.gtc) s

/-- TELEMETRY_RING_TAIL (Table 19-4). -/
def execTelemetryRingTail (part : Nat) (s : State) : Out :=
  let q := s.part part
  imageRecord "TELEMETRY_RING_TAIL" part 0x10 true (.tail q.telHead q.telTail q.tel) s

/-- BEAR_CHECK_STATISTICS (R244, Table 19-4). -/
def execBearCheckStatistics (part : Nat) (s : State) : Out :=
  imageRecord "BEAR_CHECK_STATISTICS" part 0x11 true (.check (s.part part).bchk (s.part part).mzeros) s

/-- Whether the image holds everything that a destination needs: the contexts of the saved teams, the live tasks, what the Bears hold, the
flows and the time (Table 19-4). -/
def State.imageWhole (s : State) (part : Nat) : Bool :=
  let q := s.part part
  (kkeys s.teams).all (fun n => (s.team n).part != part || (s.team n).mode != .saved ||
    q.wrote (fun b => match b with | .team x => x.no == n | _ => false)) &&
  s.tasks.all (fun e => e.2.part != part || !decide (1 ≤ e.2.state ∧ e.2.state ≤ 3) || q.wrote (· == .task e.1 e.2)) &&
  (kkeys s.cores).all (fun c => (s.partBear part c).isEmpty || q.wrote (· == .bear c (s.partBear part c))) &&
  q.wrote (fun b => match b with | .flows _ _ => true | _ => false) && q.wrote (fun b => match b with | .time _ => true | _ => false)

/-- END_OF_IMAGE: the image is whole, and the destination can restore from it (R313, R314). -/
def execEndOfImage (part : Nat) (s : State) : Out :=
  match imageRecord "END_OF_IMAGE" part endType (s.imageWhole part) .fin s with
  | .next t => .next (t.modPart part (fun q => { q with migrating := false }))
  | o => o

/-- A cycle number of a source, whose count stood at `src`, in the count of a device at `here`: what has been waited, or is still to wait,
stays (R315). -/
def moveCycle (src here c : Nat) : Nat := if c ≤ src then here - (src - c) else here + (c - src)

/-- Whether the parts of a team's context name that team, and numbers from a base up to a top that are free here. -/
def State.takesTeam (s : State) (part base top : Nat) (x : TeamImage) : Bool :=
  let ok := fun (n : Nat) => decide (base ≤ n ∧ n < top)
  ok x.no && (kget s.teams x.no).isNone && x.team.part == part && x.team.mode == .saved && ok x.team.cluster && ok x.team.task &&
    x.threads.all (fun e => keyTm e.1 == x.no) && x.pairs.all (fun e => e.1 / 1024 == x.no) &&
    x.groups.all (fun e => ok e.1 && (kget s.groups e.1).isNone && e.2.tm == x.no && e.2.saved) &&
    x.splits.all (fun e => ok e.1 && (kget s.splits e.1).isNone) && x.sends.all (fun y => ok y.id && y.tm == x.no)

/-- A map with the entries of another put in. -/
def kputAll {α : Type} (m new : KMap α) : KMap α := new.foldl (fun m e => kput m e.1 e.2) m

/-- A team's saved context is taken from an image (R93, R115): `sr.eddl` windows start afresh, waits in cycles stay (R315). -/
def State.takeTeam (s : State) (x : TeamImage) : State :=
  let cyc := moveCycle x.cycle s.cycle
  let old := fun (m : KMap UReg) => m.map (fun e => (e.1, freshUReg e.2.cur))
  let team := { x.team with sE := old x.team.sE, sA := old x.team.sA, tr := old x.team.tr }
  { s with
    teams := kput s.teams x.no team
    clusters := match kget s.clusters x.team.cluster, x.cluster with
      | none, some c => kput s.clusters x.team.cluster c
      | _, _ => s.clusters
    threads := kputAll s.threads (x.threads.map (fun e => (e.1, { e.2 with since := e.2.since.map (fun _ => .held 0) })))
    pairs := kputAll s.pairs x.pairs
    groups := kputAll s.groups (x.groups.map (fun e =>
      (e.1, { e.2 with lastIssue := cyc e.2.lastIssue, readyAt := cyc e.2.readyAt, yielded := e.2.yielded.map cyc })))
    splits := kputAll s.splits (x.splits.map (fun e => (e.1, { e.2 with first := e.2.first.map cyc })))
    sends := s.sends ++ x.sends
    ctxs := kput s.ctxs (ctxOf x.no) x.no }

/-- The registers of an image's header, in its order (R307). -/
def Part.takeRegs (q : Part) (regs : List DWord) (bp : KMap DWord) : Part :=
  let at_ := fun i => regs.getD i 0
  { q with ptroot := at_ 0, htab := at_ 1, seed := at_ 2, minres := at_ 3, eddl := at_ 4, bchk := at_ 5, kvfreq := at_ 6, kvsalt := at_ 7,
           kvdir := at_ 8, apbase := at_ 9, bp := bp }

/-- A receiving partition takes a record of image version 1 (R314): the state that it names, stamps and all (R17, R315); none where the
record does not fit. -/
def State.takeRecord (s : State) (part base top : Nat) (seen : List Nat) (b : ImgBody) : Option State :=
  let mode := fun (m : PartMode) (s : State) => s.modPart part (fun q => { q with mode := m })
  let more := fun (t : Nat) (s : State) => some (mode (.receiving base top (seen ++ [t])) s)
  let ok := fun (n : Nat) => decide (base ≤ n ∧ n < top)
  match seen.isEmpty, b with
  | true, .header grant ids regs bp _ =>
    if grant = (s.part part).cfg.grant.length then
      some (mode (.receiving s.nextId (s.nextId + ids) [1])
        (({ s with nextId := s.nextId + ids } : State).modPart part (fun q => q.takeRegs regs bp)))
    else none
  | false, .team x => if s.takesTeam part base top x then more 2 (s.takeTeam x) else none
  | false, .task n t =>
    if ok n && (kget s.tasks n).isNone && t.part == part && decide (1 ≤ t.state ∧ t.state ≤ 3) then
      more 3 { s with tasks := kput s.tasks n t } else none
  | false, .bear core cmds =>
    if cmds.all (fun c => ok c.id && ok c.tm) then more 4 (s.modCore core (fun c => { c with bear := c.bear ++ cmds })) else none
  | false, .flows out back => more 5 (s.modPart part (fun q => { q with flows := out, rflows := back }))
  | false, .time t => more 6 (s.modPart part (fun q => { q with srcGtc := some t }))
  | false, .tail h t l => more 0x10 (s.modPart part (fun q => { q with telHead := h, telTail := t, tel := l }))
  | false, .check b m => more 0x11 (s.modPart part (fun q => { q with bchk := b, mzeros := m }))
  | false, .fin => some (mode .swapped s)
  | _, _ => none

/-- The type of the record that a body belongs to (Table 19-4). -/
def ImgBody.typ (b : ImgBody) : Option (BitVec 15) :=
  match b with
  | .header _ _ _ _ _ => some 1
  | .team _ => some 2
  | .task _ _ => some 3
  | .bear _ _ => some 4
  | .flows _ _ => some 5
  | .time _ => some 6
  | .tail _ _ _ => some 0x10
  | .check _ _ => some 0x11
  | .fin => some endType
  | .other _ => none

/-- A record's header as its 64 bits (Table 19-3). -/
def ImgRec.head (r : ImgRec) : DWord := r.length ++ r.version ++ (BitVec.ofBool r.mand ++ r.typ)

/-- Whether a record header names a type and version of image version 1 (Tables 19-3 and 19-4). -/
def knownRecord (head : DWord) : Bool :=
  [1, 2, 3, 4, 5, 6, 0x10, 0x11, endType.toNat].contains (head.extractLsb' 0 15).toNat && head.extractLsb' 16 16 == 1#16

/-- A destination refuses an image, drops what it has taken of it, and reports a record's TYPE and VERSION to the source (R314). -/
def State.refuseImage (s : State) (part : Nat) (head : DWord) : State :=
  let s1 := ((kkeys s.teams).filter (fun n => (s.team n).part == part)).foldl (fun s n => s.discardTeam n) s
  ({ s1 with tasks := s1.tasks.filter (fun e => e.2.part != part), clusters := s1.clusters.filter (fun e => !e.2.teams.isEmpty) } : State).modPart
    part (fun q => { q with mode := .active, image := [{ typ := head.extractLsb' 0 15, mand := head.getLsbD 15, version := head.extractLsb' 16 16,
                                                         length := 0, body := .other [] }] })

/-- UNKNOWN_RECORD: the receiver skips a record that it does not know, or refuses the image where the record is mandatory (R314). -/
def execUnknownRecord (part : Nat) (head : BitVec 64) (s : State) : Out :=
  if !s.power then .fault .poweredOff
  else match (s.part part).mode with
  | .receiving base top seen =>
    if knownRecord head then .refused (.notEnabled "UNKNOWN_RECORD")
    else if head.getLsbD 15 then .next (s.refuseImage part head)
    else .next (s.modPart part (fun q => { q with mode := .receiving base top (seen ++ [(head.extractLsb' 0 15).toNat]) }))
  | _ => .refused (.notEnabled "UNKNOWN_RECORD")

/-- A record of an image arrives at a receiving partition, which takes it, skips it or refuses the image (R314), as it does one
whose grant has another size. -/
def State.recordCame (s : State) (part : Nat) (r : ImgRec) : Out :=
  if !s.power then .fault .poweredOff
  else if !knownRecord r.head then execUnknownRecord part r.head s
  else match (s.part part).mode with
  | .receiving base top seen =>
    (match (if r.body.typ = some r.typ then s.takeRecord part base top seen r.body else none) with
    | some t => .next t
    | none => if seen.isEmpty && r.typ == 1 then .next (s.refuseImage part r.head) else .refused (.notEnabled "UNKNOWN_RECORD"))
  | _ => .refused (.notEnabled "UNKNOWN_RECORD")

/-- IMAGE_REFUSED: the source learns that the destination refuses the image, or has failed a frame three times, and resumes unchanged
(R313). -/
def execImageRefused (part : Nat) (head : BitVec 64) (s : State) : Out :=
  if !s.power then .fault .poweredOff
  else if (s.part part).migrating || (s.part part).sentAway then
    .next ((s.giveUp part).telemetry part (s.causeRec 0xFFFF 0 head 0))
  else .refused (.notEnabled "IMAGE_REFUSED")

/-- SWAP_IN: a swapped-out partition's teams resume (R311, R186); at a destination, from the image taken there (R313). -/
def execSwapIn (part : Nat) (s : State) : Out :=
  if !s.power then .fault .poweredOff
  else if (s.part part).mode == .swapped && !(s.part part).migrating && !(s.part part).sentAway then .next (s.resumePart part)
  else .refused (.notEnabled "SWAP_IN")

end Sys2Proof.Machine
end

