-- ==== Sys2Proof/Machine/Clock.lean ====
section
/-! DEFINITION. A clock cycle of a core: what its end completes (`join`, R76 to R78; named barriers, R86, R87), the slip counters (R113), which
groups are ready (R90, R92) and in what order they are chosen (R91); and the events that the device takes of itself, with their sources
(R16, Table 1-1). -/

namespace Sys2Proof.Machine

/-- Whether the enrolled threads of a rejoin mask have all arrived (R76). -/
def JMask.complete (m : JMask) : Bool := m.arrived != 0 && (m.enrolled &&& ~~~m.arrived) == 0

/-- Whether every member of a group is parked at a `join` on a mask. -/
def State.joinedOn (s : State) (gid j : Nat) : Bool :=
  let g := s.grp gid
  !g.members.isEmpty && g.members.all (fun t => (s.thr (g.key t)).park == .joined j)

/-- A rejoin mask completes: the arrived threads go on with what every arrival knew, and those of a slot that stand at one place form
one group (R76, R78). -/
def State.completeJoin (s : State) (tm j : Nat) : State :=
  let m := (s.team tm).jmask j
  let gs := (kkeys s.groups).filter (fun k => let g := s.grp k; g.tm == tm && g.side == .e && s.joinedOn k j)
  let s1 := (bitsList m.arrived).foldl (fun s t => s.modThr (tkey tm .e t) (fun th =>
    { th with park := .none, clk := clkJoin th.clk m.clk })) s
  let s2 := s1.modMask tm j (fun m => { m with arrived := 0, clk := [] })
  let places := distinct (gs.map (fun k => ((s.grp k).dest, (s.grp k).saved)))
  places.foldl (fun s d => s.unite (gs.filter (fun k => decide ((s.grp k).dest = d.1) && (s.grp k).saved == d.2))) s2

/-- Every complete rejoin mask of a team. -/
def State.joins (s : State) (tm : Nat) : State :=
  (List.range 16).foldl (fun s j => if ((s.team tm).jmask j).complete then s.completeJoin tm j else s) s

/-- Whether a phase is complete (R87). -/
def Barrier.complete (b : Barrier) : Bool := decide (0 < b.arrived) && b.expected == some b.arrived

/-- The barrier in its next phase (R86, R87). -/
def Barrier.next (b : Barrier) (exp : Option Nat) : Barrier := { freshBarrier exp with phase := b.phase + 1 }

/-- Threads of some teams and sides that wait for a phase go on, with what every arrival knew (R87). -/
def State.releasePhase (s : State) (tms : List Nat) (sds : List Side) (nb : Nat) (b : Barrier) : State :=
  { s with threads := s.threads.map (fun e =>
      if tms.contains (keyTm e.1) && sds.contains (keySide e.1) && e.2.park == .phase nb b.phase then
        (e.1, { e.2 with park := .none, clk := clkJoin e.2.clk b.clk })
      else e) }

/-- A complete barrier of a team, by its key: nb1 to nb14 for both sides, nb0 for each (R86, R87). Groups that it lets go may stand before
the header of their record, and arrive there (R73). -/
def State.completeBar (s : State) (tm key : Nat) : State :=
  let b := (s.team tm).barrier key
  if !b.complete then s
  else
    let sds : List Side := if key = 0 then [.e] else if key = 15 then [.a] else [.e, .a]
    let nb := if key = 15 then 0 else key
    let exp := if key = 0 then some (s.liveOf tm .e).length else if key = 15 then some (s.liveOf tm .a).length else none
    let s1 := (s.releasePhase [tm] sds nb b).modTeam tm (fun t => { t with nb := kput t.nb key (b.next exp) })
    sds.foldl (fun s sd => s.arriveAll tm sd) s1

/-- The complete instances of nb15 of a cluster (R86, R87). -/
def State.completeCluster (s : State) (c : Nat) : State :=
  match kget s.clusters c with
  | none => s
  | some x =>
    let live := fun sd => x.teams.foldl (fun n tm => n + (s.liveOf tm sd).length) 0
    let s1 := if x.nb15E.complete then s.releasePhase x.teams [.e] 15 x.nb15E else s
    let s2 := if x.nb15A.complete then s1.releasePhase x.teams [.a] 15 x.nb15A else s1
    let x' := { x with nb15E := if x.nb15E.complete then x.nb15E.next (some (live .e)) else x.nb15E,
                       nb15A := if x.nb15A.complete then x.nb15A.next (some (live .a)) else x.nb15A }
    let sds := (if x.nb15E.complete then [Side.e] else []) ++ (if x.nb15A.complete then [Side.a] else [])
    x.teams.foldl (fun s tm => sds.foldl (fun s sd => s.arriveAll tm sd) s) { s2 with clusters := kput s2.clusters c x' }

/-- Whether the condition that a thread waits on at its instruction has ended, so that it attempts the instruction again (R92). -/
def State.condMet (s : State) (k : Nat) (c : Cond) : Bool :=
  let p := s.pair (pairOf k)
  let gone := s.partnerGone k
  let owed := fun (f : Deferred → Bool) => (s.owedFor k f).isSome
  match c with
  | .popQ q i =>
    let x := p.queue q
    x.flushed || (match x.places.drop i with | y :: _ => y.isFull | [] => gone)
  | .popRq q => !(p.getRq q).isEmpty || gone
  | .pushQ q n => decide ((p.queue q).places.length + n ≤ (s.team (keyTm k)).lim.depth) || (p.queue q).flushed || gone
  | .pushRq q => decide ((p.getRq q).length < Config.fixedDepth) || gone
  | .pushSq q => decide ((p.getSq q).length < Config.fixedDepth) || gone
  | .fewSq q n => decide (n ≤ (p.getSq q).length) || gone
  | .line tm l => !(s.team tm).absent.contains l || owed (fun d => d.lines.contains (tm, l)) ||
      p.flights.any (fun f => f.cargo == .held && !(p.queue f.q).holds f.id)
  | .reach m => (s.thr k).reached m || (m == 0 && (s.thr k).sb.isEmpty) || owed (fun d => d.send)
  | .tile t => !s.tileNamed (keyTm k) t || owed (fun d => d.tile == some t)
  | .mb l ph => (mbOf ((s.mergeLines (l.words 16)).readMs l 16)).phase != ph || owed (fun d => s.mbAt k d == some l)
  | .ringFull id => match kget s.rings id with | some r => r.free != 0 | none => true
  | .ringEmpty id => match kget s.rings id with | some r => r.head != r.pub | none => true
  | .signed cv pos => (kget ((s.team (keyTm k)).cvReg cv).signed pos).isNone
  | .unissued acc own => !s.signsOn k acc own
  | .stream q => match s.closeTry k q with | .park _ => false | _ => true
  | .loads => !p.flights.any (fun f => match f.cargo with | .remote _ _ => true | _ => false)

/-- The wait at a queue that a thread counts, while it lasts (R113). -/
def State.counts (s : State) (k : Nat) : Option Cond :=
  match (s.thr k).park with
  | .retry c => if s.condMet k c then none else some c
  | _ => none

/-- The slip counters of a pair after one more cycle in which its threads wait so (R113). -/
def Pair.count (p : Pair) (e a : Option Cond) : Pair :=
  { p with
    afull := match a with | some (.pushQ _ _) => satInc p.afull | _ => p.afull
    eempty := match e with | some (.popQ _ _) => satInc p.eempty | _ => p.eempty
    awaitrq := match a with | some (.popRq _) => satInc p.awaitrq | _ => p.awaitrq }

/-- Indices of the threads of a team that are saved (R184). -/
def State.savedOf (s : State) (tm : Nat) : List Nat :=
  s.groups.flatMap (fun g => if g.2.tm = tm && g.2.saved then g.2.members else []) ++
    (s.team tm).savedBins.flatMap (fun b => b.filed.map (·.thread))

/-- The slip counters of a running team count a cycle; time spent saved is not counted (R113). -/
def State.slipTeam (s : State) (tm : Nat) : State :=
  let saved := s.savedOf tm
  { s with pairs := s.pairs.map (fun e =>
      let t := e.1 % 1024
      if e.1 / 1024 = tm && !saved.contains t then (e.1, e.2.count (s.counts (tkey tm .e t)) (s.counts (tkey tm .a t))) else e) }

/-- The teams that run, on a core. -/
def State.runningOn (s : State) (core : Nat) : List Nat :=
  (kkeys s.teams).filter (fun n => (s.team n).mode == .running && (s.team n).core == core)

/-- The cores that have running teams, by ascending source number (R16). -/
def State.busyCores (s : State) : List Nat :=
  sortBy (fun a b => decide (s.srcCore a < s.srcCore b))
    (distinct (((kkeys s.teams).filter (fun n => (s.team n).mode == .running)).map s.coreOf))

/-- The end of a cycle on a core: slip counters, rejoin masks and barriers (R76, R87, R113). -/
def State.endCycle (s : State) (core : Nat) : State :=
  let tms := s.runningOn core
  let s1 := tms.foldl (fun s n => s.slipTeam n) s
  let s2 := tms.foldl (fun s n => s.joins n) s1
  let s3 := tms.foldl (fun s n => (List.range 16).foldl (fun s k => s.completeBar n k) s) s2
  (distinct (tms.map (fun n => (s.team n).cluster))).foldl (fun s c => s.completeCluster c) s3

/-- Whether a thread waits where it stands until something outside its instruction lets it go: its group issues nothing meanwhile. -/
def Park.stays (p : Park) : Bool :=
  match p with
  | .none => false
  | .retry _ => false
  | .signedOn => false
  | _ => true

/-- Whether a thread's park keeps its group from issuing an instruction at which it is active. -/
def State.holds (s : State) (k : Nat) : Bool :=
  match (s.thr k).park with
  | .none => false
  | .signedOn => false
  | .retry c => !s.condMet k c
  | _ => true

/-- The threads of a group that are active at its next instruction; where it stands before a header, at the first of the block. -/
def State.nextActive (s : State) (gid : Nat) : List Nat :=
  let g := s.grp gid
  if g.entering then
    match s.header g.tm g.hdr with
    | .ok h => (s.modGrp gid (fun g => { g with pc := g.hdr + 8, len := h.len, entering := false })).activeAt gid
    | .error _ => g.members
  else s.activeAt gid

/-- Whether a group may issue as far as its threads go (R90): none of its active ones is parked, nor any at something that it must not move
on from, and it does not wait at a reconvergence header. -/
def State.unparked (s : State) (gid : Nat) : Bool :=
  let g := s.grp gid
  !g.members.isEmpty && !s.waiting g && g.members.all (fun t => !(s.thr (g.key t)).park.stays) &&
    (s.nextActive gid).all (fun t => !s.holds (g.key t))

/-- Whether a group is ready as far as its operands do not matter (R90): neither a save (R93, R185), a move (R84) nor a `yield` (R404) delays
it. -/
def State.ready (s : State) (gid : Nat) : Bool :=
  let g := s.grp gid
  let core := s.core (s.coreOf g.tm)
  let last := match g.side with | .e => core.lastE | .a => core.lastA
  s.awake gid && !s.saving g.tm && decide (g.readyAt ≤ s.cycle) && (match g.yielded with | some c => decide (c < last) | none => true) &&
    s.unparked gid

/-- Priority of a group's task. -/
def State.groupPrio (s : State) (gid : Nat) : Nat := s.prioOf (s.grp gid).tm

/-- Whether a ready group has not issued for 1,024 cycles (R91). -/
def State.overdue (s : State) (gid : Nat) : Bool := decide ((s.grp gid).lastIssue + Config.agingCycles ≤ s.cycle)

/-- Whether a group stands before another by slot, then by lowest lane (R89, R91). -/
def State.slotBefore (s : State) (a b : Nat) : Bool :=
  let x := s.grp a
  let y := s.grp b
  decide (x.slot < y.slot) || (x.slot == y.slot && decide (s.lowLane x < s.lowLane y))

/-- The order in which ready groups of one side are chosen (R91). -/
def State.issuesBefore (s : State) (a b : Nat) : Bool :=
  let x := s.grp a
  let y := s.grp b
  let late := s.overdue a
  let oldest := decide (x.lastIssue < y.lastIssue) || (x.lastIssue == y.lastIssue && s.slotBefore a b)
  if late != s.overdue b then late
  else if late then oldest
  else if s.groupPrio a ≠ s.groupPrio b then decide (s.groupPrio b < s.groupPrio a)
  else oldest

/-- The groups of a side of a core that are ready but for their operands. -/
def State.candidates (s : State) (core : Nat) (sd : Side) : List Nat :=
  (kkeys s.groups).filter (fun k => let g := s.grp k; g.side == sd && s.coreOf g.tm == core && s.ready k)

/-- After the issue of an access group `g`, the Fox takes ⌈threads ÷ 8⌉ clocks for it, 8 lanes a clock (R90). -/
def State.foxBusy (s : State) (core : Nat) (g : Group) : State :=
  match g.side with
  | .a => s.modCore core (fun c => { c with foxUntil := s.cycle + ceilDiv g.members.length 8 })
  | .e => s

/-- Whether a group may issue when its turn comes: what other groups did in the same cycle may have parked or moved it. -/
def State.mayIssue (s : State) (gid : Nat) : Bool := (kget s.groups gid).isSome && s.mayAct gid && s.unparked gid

/-- The events of a core that may not wait for another of its cycles: a deadlocked pair at the end of the cycle, an aged bin, a reconvergence
wait and a yield whose time is over, a `ring.take` past its deadline (R106, R83, R73, R404, R306, R385). -/
noncomputable def State.forcedOn (s : State) (core : Nat) : List Instr :=
  let gs := (kkeys s.groups).filter (fun k => s.coreOf (s.grp k).tm == core)
  gs.flatMap (fun k => let g := s.grp k
    if g.side = .e && s.awake k then ((g.members.filter (fun t => s.deadlocked g.tm t)).take 1).map (fun t => Instr.queueDeadlock g.tm t) else []) ++
  ((kkeys (s.core core).bins).filter (fun b => s.binAged core b)).map (fun b => Instr.binAgeDraw core b) ++
  (distinct (gs.flatMap (fun k => (s.grp k).stack))).filterMap (fun i =>
    if s.splitTimedOut i then some (Instr.reconvergenceTimeout ((s.grp ((s.waitersOf i).headD 0)).tm) i) else none) ++
  (gs.filter (fun k => (s.grp k).yieldOver s.cycle)).map (fun k => Instr.yieldExpiry (s.grp k).tm k) ++
  gs.flatMap (fun k => let g := s.grp k
    if g.side = .a then ((g.members.filter (fun t => s.starved (g.key t))).take 1).map (fun t => Instr.expertStarved g.tm t) else [])

/-- The k-block that the running operation of a core cannot take, because of a tile or of its latched data (R198). -/
def State.bearStops (s : State) (core : Nat) : Option Nat :=
  match s.bearNext core true with
  | some c => match c.op with
    | .mma _ m _ _ _ done _ => match s.bearRun core c (m.blocks - done) with
      | .error (j, _) => some j
      | .ok _ => none
    | _ => none
  | none => none

/-- The events that the device may take of itself, each where it may be enabled (R134, Table 6-2, and the chapters that name them). -/
noncomputable def State.internalEvents (s : State) : List Instr :=
  let ths := kkeys s.threads
  let acc := ths.filter (fun k => keySide k == .a)
  let qs := s.pairs.flatMap (fun e => (kkeys e.2.q).map (fun q => (e.1 / 1024, e.1 % 1024, q)))
  let flights := s.pairs.flatMap (fun e => e.2.flights.map (fun f => (e.1 / 1024, e.1 % 1024, f.q)))
  let cores := kkeys s.cores
  (acc.filter (fun k => !(s.thr k).sb.isEmpty)).map (fun k => Instr.drain (keyTm k) (keyIx k)) ++
  (acc.filter (fun k => !(s.thr k).out.isEmpty)).map (fun k => Instr.hostStoreCompletion (keyTm k) (keyIx k)) ++
  cores.flatMap (fun c => (distinct ((kkeys (s.core c).upd).map lineKey)).map (fun l => Instr.merge c l)) ++
  flights.map (fun f => Instr.translationComplete f.1 f.2.1) ++ flights.map (fun f => Instr.ldqFill f.1 f.2.1 f.2.2) ++
  acc.map (fun k => Instr.pendingFaultDelivery (keyTm k) (keyIx k)) ++ qs.map (fun q => Instr.streamElement q.1 q.2.1 q.2.2) ++
  cores.flatMap (fun c => [Instr.mmaComplete c, .bearCommandComplete c, .lentTileDrain c]) ++
  cores.filterMap (fun c => (s.bearStops c).map (fun j => Instr.bearFault c j)) ++
  s.copies.map (fun c => Instr.copyRow c.id) ++
  s.kvqs.flatMap (fun q => (kkeys q.todo).map (fun e => Instr.settPairPass q.id e) ++ [Instr.returnMerge q.id, .kvqComplete q.id, .kvqFail q.id]) ++
  s.sends.map (fun x => Instr.nsendRow x.id) ++ ths.map (fun k => Instr.mcallAnswer (keyTm k) (keyIx k)) ++
  (kkeys s.tasks).flatMap (fun t => [Instr.commit t, .successorDecrement t]) ++ (kkeys s.clusters).map Instr.teamStart ++
  cores.filterMap (fun c => match (s.core c).nextRecord with
    | some i => (kget (s.core c).table i).map (fun r => Instr.bindRecord c i r)
    | none => none) ++
  s.parts.flatMap (fun p => p.2.l2dirty.map (fun f => Instr.l2WriteBack p.1 f))

/-- Source number of the management core (Table 1-1). -/
def ecideSource : Nat := 0xFFFF

/-- Source number of a core by a team on it. -/
def State.srcTeam (s : State) (tm : Nat) : Nat := s.srcCore (s.coreOf tm)

/-- Source number of the port of a transfer. -/
def State.srcSend (s : State) (id : Nat) : Nat := ((s.sends.find? (fun x => x.id == id)).map (·.port)).getD 320

/-- The agent that performs an event, by its source number (Table 1-1): the core whose threads or units it moves, a Sett, a Lynx port, the
PCIe port; what nothing else performs is Ecide's (log 114). -/
def State.evSource (s : State) (i : Instr) : Nat :=
  match i with
  | .reconvergenceTimeout tm _ => s.srcTeam tm
  | .yieldExpiry tm _ => s.srcTeam tm
  | .drain tm _ => s.srcTeam tm
  | .ldqFill tm _ _ => s.srcTeam tm
  | .translationComplete tm _ => s.srcTeam tm
  | .pendingFaultDelivery tm _ => s.srcTeam tm
  | .queueDeadlock tm _ => s.srcTeam tm
  | .streamElement tm _ _ => s.srcTeam tm
  | .expertStarved tm _ => s.srcTeam tm
  | .breakpointMatch tm _ => s.srcTeam tm
  | .groupSave tm _ => s.srcTeam tm
  | .kvqComplete id => ((s.kvqs.find? (fun q => q.id == id)).map (fun q => s.srcTeam q.tm)).getD ecideSource
  | .kvqFail id => ((s.kvqs.find? (fun q => q.id == id)).map (fun q => s.srcTeam q.tm)).getD ecideSource
  | .teamStart c => match s.clusterTeams c with | tm :: _ => s.srcTeam tm | [] => ecideSource
  | .binAgeDraw c _ => s.srcCore c
  | .mmaComplete c => s.srcCore c
  | .bearCommandComplete c => s.srcCore c
  | .bearFault c _ => s.srcCore c
  | .lentTileDrain c => s.srcCore c
  | .bindRecord c i r => if kget (s.core c).table i = some r ∧ r.valid then s.srcCore c else ecideSource
  | .copyRow id => ((s.copies.find? (fun c => c.id == id)).map (fun c => s.srcCore c.core)).getD ecideSource
  | .merge _ line => homeSett (128 * line)
  | .settPairPass _ sett => sett
  | .returnMerge _ => 256
  | .commit t => homeSource (locOfPa (s.task t).pa)
  | .successorDecrement t => homeSource (locOfPa (s.task t).pa)
  | .l2WriteBack p f => homeSett (framePa (s.part p) f)
  | .nsendRow id => s.srcSend id
  | .rowAck id => s.srcSend id
  | .remoteRowArrival row => row.port
  | .remoteTimeout op => match op with | .send id => s.srcSend id | _ => 320
  | .remoteRefused op => match op with | .send id => s.srcSend id | _ => 320
  | .remoteRead _ _ _ => 320
  | .ngetResponse _ _ _ _ => 320
  | .hostStoreCompletion _ _ => hostSource
  | .submit _ _ => hostSource
  | .registerWrite _ _ _ _ => hostSource
  | .hostApertureWrite _ _ _ => hostSource
  | .hostApertureRead _ _ _ => hostSource
  | .scrubError _ r => r.source.toNat
  | _ => ecideSource

end Sys2Proof.Machine
end

