-- ==== Sys2Proof/Machine/FloatArith.lean ====
section
/-! DEFINITION. Floating-point arithmetic of M 13 to M 16 (R344, R345), comparisons of M 5 and M 6 (R352), special functions of
M 17 (R353 to R355) and the instructions of M 18 (R351, R356, R358, R360, R361). -/

namespace Sys2Proof.Machine

/-- FADD: a + b (R345, Table 20-14). -/
def execFadd (p : Pfx) (d : BitVec 7) (a b : Src) (s : State) : Out := floatOp false .f32 p d [a, b] false opAdd s

/-- FSUB: a − b (R345, Table 20-14). -/
def execFsub (p : Pfx) (d : BitVec 7) (a b : Src) (s : State) : Out := floatOp false .f32 p d [a, b] false opSub s

/-- FMUL: a × b (R345, Table 20-14). -/
def execFmul (p : Pfx) (d : BitVec 7) (a b : Src) (s : State) : Out := floatOp false .f32 p d [a, b] false opMul s

/-- FFMA: a × b + c, rounded once; c is −0 without VX (R345, Table 20-14). -/
def execFfma (p : Pfx) (d : BitVec 7) (a b : Src) (s : State) : Out := floatOp false .f32 p d [a, b] true opFma s

/-- FMIN: minimumNumber (R345, Table 20-14). -/
def execFmin (p : Pfx) (d : BitVec 7) (a b : Src) (s : State) : Out := floatOp false .f32 p d [a, b] false (opMinMax false) s

/-- FMAX: maximumNumber (R345, Table 20-14). -/
def execFmax (p : Pfx) (d : BitVec 7) (a b : Src) (s : State) : Out := floatOp false .f32 p d [a, b] false (opMinMax true) s

/-- FABS: a with sign 0 (R345, Table 20-14). -/
def execFabs (p : Pfx) (d : BitVec 7) (a : Src) (s : State) : Out := floatOp false .f32 p d [a] false (opSign true) s

/-- FNEG: a with its sign inverted (R345, Table 20-14). -/
def execFneg (p : Pfx) (d : BitVec 7) (a : Src) (s : State) : Out := floatOp false .f32 p d [a] false (opSign false) s

/-- FADD_F16X2: a + b (R345, Table 20-14). -/
def execFaddF16x2 (p : Pfx) (d : BitVec 7) (a b : Src) (s : State) : Out := floatOp true .f16 p d [a, b] false opAdd s

/-- FSUB_F16X2: a − b (R345, Table 20-14). -/
def execFsubF16x2 (p : Pfx) (d : BitVec 7) (a b : Src) (s : State) : Out := floatOp true .f16 p d [a, b] false opSub s

/-- FMUL_F16X2: a × b (R345, Table 20-14). -/
def execFmulF16x2 (p : Pfx) (d : BitVec 7) (a b : Src) (s : State) : Out := floatOp true .f16 p d [a, b] false opMul s

/-- FFMA_F16X2: a × b + c, rounded once; c is −0 without VX (R345, Table 20-14). -/
def execFfmaF16x2 (p : Pfx) (d : BitVec 7) (a b : Src) (s : State) : Out := floatOp true .f16 p d [a, b] true opFma s

/-- FMIN_F16X2: minimumNumber (R345, Table 20-14). -/
def execFminF16x2 (p : Pfx) (d : BitVec 7) (a b : Src) (s : State) : Out := floatOp true .f16 p d [a, b] false (opMinMax false) s

/-- FMAX_F16X2: maximumNumber (R345, Table 20-14). -/
def execFmaxF16x2 (p : Pfx) (d : BitVec 7) (a b : Src) (s : State) : Out := floatOp true .f16 p d [a, b] false (opMinMax true) s

/-- FABS_F16X2: a with sign 0 (R345, Table 20-14). -/
def execFabsF16x2 (p : Pfx) (d : BitVec 7) (a : Src) (s : State) : Out := floatOp true .f16 p d [a] false (opSign true) s

/-- FNEG_F16X2: a with its sign inverted (R345, Table 20-14). -/
def execFnegF16x2 (p : Pfx) (d : BitVec 7) (a : Src) (s : State) : Out := floatOp true .f16 p d [a] false (opSign false) s

/-- FADD_BF16X2: a + b (R345, Table 20-14). -/
def execFaddBf16x2 (p : Pfx) (d : BitVec 7) (a b : Src) (s : State) : Out := floatOp true .bf16 p d [a, b] false opAdd s

/-- FSUB_BF16X2: a − b (R345, Table 20-14). -/
def execFsubBf16x2 (p : Pfx) (d : BitVec 7) (a b : Src) (s : State) : Out := floatOp true .bf16 p d [a, b] false opSub s

/-- FMUL_BF16X2: a × b (R345, Table 20-14). -/
def execFmulBf16x2 (p : Pfx) (d : BitVec 7) (a b : Src) (s : State) : Out := floatOp true .bf16 p d [a, b] false opMul s

/-- FFMA_BF16X2: a × b + c, rounded once; c is −0 without VX (R345, Table 20-14). -/
def execFfmaBf16x2 (p : Pfx) (d : BitVec 7) (a b : Src) (s : State) : Out := floatOp true .bf16 p d [a, b] true opFma s

/-- FMIN_BF16X2: minimumNumber (R345, Table 20-14). -/
def execFminBf16x2 (p : Pfx) (d : BitVec 7) (a b : Src) (s : State) : Out := floatOp true .bf16 p d [a, b] false (opMinMax false) s

/-- FMAX_BF16X2: maximumNumber (R345, Table 20-14). -/
def execFmaxBf16x2 (p : Pfx) (d : BitVec 7) (a b : Src) (s : State) : Out := floatOp true .bf16 p d [a, b] false (opMinMax true) s

/-- FABS_BF16X2: a with sign 0 (R345, Table 20-14). -/
def execFabsBf16x2 (p : Pfx) (d : BitVec 7) (a : Src) (s : State) : Out := floatOp true .bf16 p d [a] false (opSign true) s

/-- FNEG_BF16X2: a with its sign inverted (R345, Table 20-14). -/
def execFnegBf16x2 (p : Pfx) (d : BitVec 7) (a : Src) (s : State) : Out := floatOp true .bf16 p d [a] false (opSign false) s

/-- FADD_F64: a + b (R345, Table 20-14). -/
def execFaddF64 (p : Pfx) (d : BitVec 7) (a b : Src) (s : State) : Out := floatOp false .f64 p d [a, b] false opAdd s

/-- FSUB_F64: a − b (R345, Table 20-14). -/
def execFsubF64 (p : Pfx) (d : BitVec 7) (a b : Src) (s : State) : Out := floatOp false .f64 p d [a, b] false opSub s

/-- FMUL_F64: a × b (R345, Table 20-14). -/
def execFmulF64 (p : Pfx) (d : BitVec 7) (a b : Src) (s : State) : Out := floatOp false .f64 p d [a, b] false opMul s

/-- FFMA_F64: a × b + c, rounded once; c is −0 without VX (R345, Table 20-14). -/
def execFfmaF64 (p : Pfx) (d : BitVec 7) (a b : Src) (s : State) : Out := floatOp false .f64 p d [a, b] true opFma s

/-- FMIN_F64: minimumNumber (R345, Table 20-14). -/
def execFminF64 (p : Pfx) (d : BitVec 7) (a b : Src) (s : State) : Out := floatOp false .f64 p d [a, b] false (opMinMax false) s

/-- FMAX_F64: maximumNumber (R345, Table 20-14). -/
def execFmaxF64 (p : Pfx) (d : BitVec 7) (a b : Src) (s : State) : Out := floatOp false .f64 p d [a, b] false (opMinMax true) s

/-- FABS_F64: a with sign 0 (R345, Table 20-14). -/
def execFabsF64 (p : Pfx) (d : BitVec 7) (a : Src) (s : State) : Out := floatOp false .f64 p d [a] false (opSign true) s

/-- FNEG_F64: a with its sign inverted (R345, Table 20-14). -/
def execFnegF64 (p : Pfx) (d : BitVec 7) (a : Src) (s : State) : Out := floatOp false .f64 p d [a] false (opSign false) s

/-- FCMP_F32_EQ: a = b (R352, Table 20-19). -/
def execFcmpF32Eq (p : Pfx) (d : BitVec 7) (a b : Src) (s : State) : Out :=
  fcmpOp .f32 false p d a b (fun x y => fEq x y) s

/-- FCMP_F32_NE: a ≠ b or unordered (R352, Table 20-19). -/
def execFcmpF32Ne (p : Pfx) (d : BitVec 7) (a b : Src) (s : State) : Out :=
  fcmpOp .f32 false p d a b (fun x y => !fEq x y) s

/-- FCMP_F32_LT: a < b, ordered (R352, Table 20-19). -/
def execFcmpF32Lt (p : Pfx) (d : BitVec 7) (a b : Src) (s : State) : Out :=
  fcmpOp .f32 true p d a b (fun x y => vLt false x y) s

/-- FCMP_F32_LE: a ≤ b, ordered (R352, Table 20-19). -/
def execFcmpF32Le (p : Pfx) (d : BitVec 7) (a b : Src) (s : State) : Out :=
  fcmpOp .f32 true p d a b (fun x y => ordered x y && !vLt false y x) s

/-- FCMP_F32_GT: a > b, ordered (R352, Table 20-19). -/
def execFcmpF32Gt (p : Pfx) (d : BitVec 7) (a b : Src) (s : State) : Out :=
  fcmpOp .f32 true p d a b (fun x y => vLt false y x) s

/-- FCMP_F32_GE: a ≥ b, ordered (R352, Table 20-19). -/
def execFcmpF32Ge (p : Pfx) (d : BitVec 7) (a b : Src) (s : State) : Out :=
  fcmpOp .f32 true p d a b (fun x y => ordered x y && !vLt false x y) s

/-- FCMP_F32_UN: a or b is a NaN (R352, Table 20-19). -/
def execFcmpF32Un (p : Pfx) (d : BitVec 7) (a b : Src) (s : State) : Out :=
  fcmpOp .f32 false p d a b (fun x y => !ordered x y) s

/-- FCMP_F32_OR: neither is a NaN (R352, Table 20-19). -/
def execFcmpF32Or (p : Pfx) (d : BitVec 7) (a b : Src) (s : State) : Out :=
  fcmpOp .f32 false p d a b (fun x y => ordered x y) s

/-- FCMP_F64_EQ: a = b (R352, Table 20-19). -/
def execFcmpF64Eq (p : Pfx) (d : BitVec 7) (a b : Src) (s : State) : Out :=
  fcmpOp .f64 false p d a b (fun x y => fEq x y) s

/-- FCMP_F64_NE: a ≠ b or unordered (R352, Table 20-19). -/
def execFcmpF64Ne (p : Pfx) (d : BitVec 7) (a b : Src) (s : State) : Out :=
  fcmpOp .f64 false p d a b (fun x y => !fEq x y) s

/-- FCMP_F64_LT: a < b, ordered (R352, Table 20-19). -/
def execFcmpF64Lt (p : Pfx) (d : BitVec 7) (a b : Src) (s : State) : Out :=
  fcmpOp .f64 true p d a b (fun x y => vLt false x y) s

/-- FCMP_F64_LE: a ≤ b, ordered (R352, Table 20-19). -/
def execFcmpF64Le (p : Pfx) (d : BitVec 7) (a b : Src) (s : State) : Out :=
  fcmpOp .f64 true p d a b (fun x y => ordered x y && !vLt false y x) s

/-- FCMP_F64_GT: a > b, ordered (R352, Table 20-19). -/
def execFcmpF64Gt (p : Pfx) (d : BitVec 7) (a b : Src) (s : State) : Out :=
  fcmpOp .f64 true p d a b (fun x y => vLt false y x) s

/-- FCMP_F64_GE: a ≥ b, ordered (R352, Table 20-19). -/
def execFcmpF64Ge (p : Pfx) (d : BitVec 7) (a b : Src) (s : State) : Out :=
  fcmpOp .f64 true p d a b (fun x y => ordered x y && !vLt false x y) s

/-- FCMP_F64_UN: a or b is a NaN (R352, Table 20-19). -/
def execFcmpF64Un (p : Pfx) (d : BitVec 7) (a b : Src) (s : State) : Out :=
  fcmpOp .f64 false p d a b (fun x y => !ordered x y) s

/-- FCMP_F64_OR: neither is a NaN (R352, Table 20-19). -/
def execFcmpF64Or (p : Pfx) (d : BitVec 7) (a b : Src) (s : State) : Out :=
  fcmpOp .f64 false p d a b (fun x y => ordered x y) s

/-- A special function of one operand (R353, R354). -/
def specialOp (p : Pfx) (d : BitVec 7) (a : Src) (f : Env → Nat → Nat × Env) (s : State) : Out :=
  valueOp .eOnly p (fun _ => [(.flt .f32, a)]) (fun _ c => dstOk c.side false d) (fun sd => setD sd false d 0)
    (fun _ _ vs t =>
      let (r, e) := f (t.env p.rc) (arg vs 0).toNat
      .ok (setD .e false d (BitVec.ofNat 64 r) (t.putEnv e))) s

/-- FRCP: 1 ÷ a within 0.502 ulp (R354, R355). -/
def execFrcp (p : Pfx) (d : BitVec 7) (a : Src) (s : State) : Out := specialOp p d a frcpF s

/-- FRSQ: 1 ÷ √a within 0.502 ulp (R354, R355). -/
def execFrsq (p : Pfx) (d : BitVec 7) (a : Src) (s : State) : Out := specialOp p d a frsqF s

/-- FSQRT: √a, correctly rounded (R354, R355). -/
def execFsqrt (p : Pfx) (d : BitVec 7) (a : Src) (s : State) : Out := specialOp p d a fsqrtF s

/-- FEXP2: 2^a within 0.502 ulp (R354, R355). -/
def execFexp2 (p : Pfx) (d : BitVec 7) (a : Src) (s : State) : Out := specialOp p d a fexp2F s

/-- FLOG2: log2 a within 0.502 ulp (R354, R355). -/
def execFlog2 (p : Pfx) (d : BitVec 7) (a : Src) (s : State) : Out := specialOp p d a flog2F s

/-- FDIV: a ÷ b, correctly rounded; the dividend is popped first (R353, R354). -/
def execFdiv (p : Pfx) (d : BitVec 7) (a b : Src) (s : State) : Out := floatOp false .f32 p d [a, b] false (fun _ e x y _ => fdivF e x y) s

/-- FRND: a rounded to an integral value under the code (R360). -/
def execFrnd (p : Pfx) (d : BitVec 7) (a : Src) (s : State) : Out := specialOp p d a frndF s

/-- FCLASS: the bit of the mask that names the class of a (R351, Table 20-18). -/
def execFclass (p : Pfx) (d : BitVec 7) (a b : Src) (s : State) : Out :=
  valueOp .eOnly p (fun _ => [(.flt .f32, a), (.int32, b)]) (fun _ _ => true) (fun _ t => t.setPred d.toNat false)
    (fun _ _ vs t => .ok (t.setPred d.toNat ((arg vs 1).getLsbD (classOf (arg vs 0).toNat)))) s

/-- FFLAG: the thread's flag word, then the flags that b names are cleared (R358, R164). -/
def execFflag (p : Pfx) (d : BitVec 7) (b : Src) (s : State) : Out :=
  valueOp .eOnly p (fun _ => [(.int32, b)]) (fun _ c => dstOk c.side false d) (fun sd => setD sd false d 0)
    (fun _ _ vs t => .ok { setD .e false d (t.flags.setWidth 64) t with flags := t.flags &&& ~~~((arg vs 0).setWidth 5) }) s

/-- FSCL: a × 2^n with n the signed 32-bit b (R361). -/
def execFscl (p : Pfx) (d : BitVec 7) (a b : Src) (s : State) : Out :=
  valueOp .eOnly p (fun _ => [(.flt .f32, a), (.int32, b)]) (fun _ c => dstOk c.side false d) (fun sd => setD sd false d 0)
    (fun _ _ vs t =>
      let (r, e) := fsclF (t.env p.rc) (arg vs 0).toNat ((arg vs 1).setWidth 32)
      .ok (setD .e false d (BitVec.ofNat 64 r) (t.putEnv e))) s

/-- A dot product of n packed elements added to d (R356); the format stands in VX C. -/
def fdotOp (n : Nat) (p : Pfx) (d : BitVec 7) (a b : Src) (s : State) : Out :=
  valueOp .eOnly p (fun _ => [(.int32, a), (.int32, b)]) (fun _ _ => p.vx.isSome && fdotCode n p.cByte)
    (fun sd => setD sd false d 0)
    (fun _ _ vs t => tryThen (t.soundRegs [d.toNat]) fun _ =>
      let (r, e) := fdotF n ((narrowFm p.cByte).getD .f16) (t.env p.rc) (arg vs 0).toNat (arg vs 1).toNat (t.getV d.toNat).toNat
      .ok (setD .e false d (BitVec.ofNat 64 r) (t.putEnv e))) s

/-- FDOT_2: d + the dot product of 2 elements, rounded once (R356). -/
def execFdot2 (p : Pfx) (d : BitVec 7) (a b : Src) (s : State) : Out := fdotOp 2 p d a b s

/-- FDOT_4: d + the dot product of 4 elements, rounded once (R356). -/
def execFdot4 (p : Pfx) (d : BitVec 7) (a b : Src) (s : State) : Out := fdotOp 4 p d a b s

/-- FDOT_8: d + the dot product of 8 elements, rounded once (R356). -/
def execFdot8 (p : Pfx) (d : BitVec 7) (a b : Src) (s : State) : Out := fdotOp 8 p d a b s

end Sys2Proof.Machine
end

