-- ==== Sys2Proof/Machine/Integer.lean ====
section
/-! DEFINITION. Integer instructions: arithmetic (M 7, M 8), bitwise (M 9), shifts and counts (M 10), bit fields (M 11), the
64-bit execute family (M 12) and comparisons (M 4). -/

namespace Sys2Proof.Machine

/-- The high half of the signed product. -/
def mulhS (w : Nat) (a b : BitVec w) : BitVec w := BitVec.ofInt w ((a.toInt * b.toInt) / (2 ^ w : Nat))
/-- The high half of the unsigned product. -/
def mulhU (w : Nat) (a b : BitVec w) : BitVec w := BitVec.ofNat w (a.toNat * b.toNat / 2 ^ w)
/-- The smaller by the signed order. -/
def minS (w : Nat) (a b : BitVec w) : BitVec w := if b.slt a then b else a
/-- The larger by the signed order. -/
def maxS (w : Nat) (a b : BitVec w) : BitVec w := if a.slt b then b else a
/-- The smaller by the unsigned order. -/
def minU (w : Nat) (a b : BitVec w) : BitVec w := if b.ult a then b else a
/-- The larger by the unsigned order. -/
def maxU (w : Nat) (a b : BitVec w) : BitVec w := if a.ult b then b else a
/-- Signed quotient, truncated; MIN ÷ −1 gives MIN (Table 20-1). -/
def quotS (w : Nat) (a b : BitVec w) : BitVec w := BitVec.ofInt w (a.toInt.tdiv b.toInt)
/-- Signed remainder; the sign follows a (Table 20-1). -/
def remS (w : Nat) (a b : BitVec w) : BitVec w := BitVec.ofInt w (a.toInt.tmod b.toInt)
/-- Magnitude; MIN gives MIN. -/
def absS (w : Nat) (a : BitVec w) : BitVec w := if a.slt 0 then 0 - a else a
/-- Left shift; 0 from the width on (Table 20-8). -/
def shlW (w : Nat) (a b : BitVec w) : BitVec w := if b.toNat < w then a <<< b.toNat else 0
/-- Right shift with zero fill. -/
def shrW (w : Nat) (a b : BitVec w) : BitVec w := if b.toNat < w then a >>> b.toNat else 0
/-- Right shift with sign fill. -/
def sraW (w : Nat) (a b : BitVec w) : BitVec w := a.sshiftRight (min b.toNat w)
/-- Number of 1 bits. -/
def popcW (w : Nat) (a : BitVec w) : BitVec w := BitVec.ofNat w ((List.range w).countP (fun i => a.getLsbD i))
/-- Number of leading zero bits; the width for 0. -/
def clzW (w : Nat) (a : BitVec w) : BitVec w :=
  BitVec.ofNat w (((List.range w).find? (fun i => a.getLsbD (w - 1 - i))).getD w)
/-- Bits in reverse order. -/
def brevW (w : Nat) (a : BitVec w) : BitVec w := a.reverse

/-- Position and length of a bit field in value(B) (R332). -/
def fieldOf (w : Nat) (b : BitVec w) : Nat × Nat :=
  let pos := b.toNat % 256
  let len := b.toNat / 256 % 256
  (pos, if w ≤ pos then 0 else min len (w - pos))
/-- Extracts a field, zero-extended. -/
def bfeU (w : Nat) (a b : BitVec w) : BitVec w :=
  let (pos, len) := fieldOf w b
  BitVec.ofNat w (bitsOf a.toNat pos len)
/-- Extracts a field, sign-extended from its top bit. -/
def bfeS (w : Nat) (a b : BitVec w) : BitVec w :=
  let (pos, len) := fieldOf w b
  let n := bitsOf a.toNat pos len
  if len ≠ 0 ∧ 2 ^ (len - 1) ≤ n then BitVec.ofInt w ((n : Int) - (2 ^ len : Nat)) else BitVec.ofNat w n
/-- Replaces a field of d by the low bits of a. -/
def bfiW (w : Nat) (d a b : BitVec w) : BitVec w :=
  let (pos, len) := fieldOf w b
  BitVec.ofNat w (d.toNat - bitsOf d.toNat pos len * 2 ^ pos + a.toNat % 2 ^ len * 2 ^ pos)
/-- One byte of the source string of `perm` (R377): index i of the bytes of a and then of c. -/
def permByte (w : Nat) (a c : BitVec w) (i : Nat) : Nat := bitsOf (a.toNat + c.toNat * 2 ^ w) (8 * i) 8
/-- `perm` (R377): nibbles select among 8 bytes at 32 bits, bytes among 16 at 64 bits. -/
def permW (w : Nat) (a b c : BitVec w) : BitVec w :=
  let n := w / 8
  BitVec.ofNat w ((List.range n).foldl (fun acc i =>
    let sel := if w = 32 then bitsOf b.toNat (4 * i) 4 else bitsOf b.toNat (8 * i) 8
    let zero := if w = 32 then 8 ≤ sel else 128 ≤ sel
    acc + (if zero then 0 else permByte w a c (sel % (2 * n))) * 2 ^ (8 * i)) 0)


/-- ADD: a + b (R323, Table 20-1). -/
def execAdd (p : Pfx) (d : BitVec 7) (a b : Src) (s : State) : Out := intOp p d a b (fun _ x y => x + y) s

/-- SUB: a − b (R323, Table 20-1). -/
def execSub (p : Pfx) (d : BitVec 7) (a b : Src) (s : State) : Out := intOp p d a b (fun _ x y => x - y) s

/-- MUL: low half of a × b (R323, Table 20-1). -/
def execMul (p : Pfx) (d : BitVec 7) (a b : Src) (s : State) : Out := intOp p d a b (fun _ x y => x * y) s

/-- MULH: high half of s(a) × s(b) (R323, Table 20-1). -/
def execMulh (p : Pfx) (d : BitVec 7) (a b : Src) (s : State) : Out := intOp p d a b (mulhS) s

/-- MULH_N: high half of u(a) × u(b) (R323, Table 20-1). -/
def execMulhN (p : Pfx) (d : BitVec 7) (a b : Src) (s : State) : Out := intOp p d a b (mulhU) s

/-- MIN: the smaller by s (R323, Table 20-1). -/
def execMin (p : Pfx) (d : BitVec 7) (a b : Src) (s : State) : Out := intOp p d a b (minS) s

/-- MAX: the larger by s (R323, Table 20-1). -/
def execMax (p : Pfx) (d : BitVec 7) (a b : Src) (s : State) : Out := intOp p d a b (maxS) s

/-- MIN_N: the smaller by u (R323, Table 20-1). -/
def execMinN (p : Pfx) (d : BitVec 7) (a b : Src) (s : State) : Out := intOp p d a b (minU) s

/-- MAX_N: the larger by u (R323, Table 20-1). -/
def execMaxN (p : Pfx) (d : BitVec 7) (a b : Src) (s : State) : Out := intOp p d a b (maxU) s

/-- AND: a AND b (R325, Table 20-3). -/
def execAnd (p : Pfx) (d : BitVec 7) (a b : Src) (s : State) : Out := intOp p d a b (fun _ x y => x &&& y) s

/-- OR: a OR b (R325, Table 20-3). -/
def execOr (p : Pfx) (d : BitVec 7) (a b : Src) (s : State) : Out := intOp p d a b (fun _ x y => x ||| y) s

/-- XOR: a XOR b (R325, Table 20-3). -/
def execXor (p : Pfx) (d : BitVec 7) (a b : Src) (s : State) : Out := intOp p d a b (fun _ x y => x ^^^ y) s

/-- ANDN: a AND NOT b (R325, Table 20-3). -/
def execAndn (p : Pfx) (d : BitVec 7) (a b : Src) (s : State) : Out := intOp p d a b (fun _ x y => x &&& ~~~y) s

/-- SHL (R335, Table 20-8). -/
def execShl (p : Pfx) (d : BitVec 7) (a b : Src) (s : State) : Out := intOp p d a b shlW s

/-- SHR (R335, Table 20-8). -/
def execShr (p : Pfx) (d : BitVec 7) (a b : Src) (s : State) : Out := intOp p d a b shrW s

/-- SRA (R335, Table 20-8). -/
def execSra (p : Pfx) (d : BitVec 7) (a b : Src) (s : State) : Out := intOp p d a b sraW s

/-- BFE (R332). -/
def execBfe (p : Pfx) (d : BitVec 7) (a b : Src) (s : State) : Out := intOp p d a b bfeS s

/-- BFE_N (R332). -/
def execBfeN (p : Pfx) (d : BitVec 7) (a b : Src) (s : State) : Out := intOp p d a b bfeU s

/-- ABS: |s(a)|; MIN gives MIN (R323). -/
def execAbs (p : Pfx) (d : BitVec 7) (a : Src) (s : State) : Out := intOp1 p d a (absS) s

/-- NEG: 0 − a (R323). -/
def execNeg (p : Pfx) (d : BitVec 7) (a : Src) (s : State) : Out := intOp1 p d a (fun _ x => 0 - x) s

/-- NOT: NOT a (R325). -/
def execNot (p : Pfx) (d : BitVec 7) (a : Src) (s : State) : Out := intOp1 p d a (fun _ x => ~~~x) s

/-- MOV: a (R325). -/
def execMov (p : Pfx) (d : BitVec 7) (a : Src) (s : State) : Out := intOp1 p d a (fun _ x => x) s

/-- POPC: number of 1 bits (R335). -/
def execPopc (p : Pfx) (d : BitVec 7) (a : Src) (s : State) : Out := intOp1 p d a (popcW) s

/-- CLZ: leading zero bits (R335). -/
def execClz (p : Pfx) (d : BitVec 7) (a : Src) (s : State) : Out := intOp1 p d a (clzW) s

/-- BREV: bits reversed (R335). -/
def execBrev (p : Pfx) (d : BitVec 7) (a : Src) (s : State) : Out := intOp1 p d a (brevW) s

/-- MAD: a × b + c; c is 0 without VX (R323). -/
def execMad (p : Pfx) (d : BitVec 7) (a b : Src) (s : State) : Out := intOpC p d a b (fun _ x y z => x * y + z) s

/-- SEL: a where c ≠ 0, else b; c is 0 without VX (R325). -/
def execSel (p : Pfx) (d : BitVec 7) (a b : Src) (s : State) : Out := intOpC p d a b (fun _ x y z => if z = 0 then y else x) s

/-- PERM: bytes selected from a and c (R377). -/
def execPerm (p : Pfx) (d : BitVec 7) (a b : Src) (s : State) : Out := intOpC p d a b (permW) s

/-- DIV: signed quotient; DIV_ZERO where b = 0 (R323, R324). -/
def execDiv (p : Pfx) (d : BitVec 7) (a b : Src) (s : State) : Out := divOp p d a b (quotS) s

/-- DIV_N: unsigned quotient; DIV_ZERO where b = 0 (R323, R324). -/
def execDivN (p : Pfx) (d : BitVec 7) (a b : Src) (s : State) : Out := divOp p d a b (fun _ x y => x / y) s

/-- REM: signed remainder; DIV_ZERO where b = 0 (R323, R324). -/
def execRem (p : Pfx) (d : BitVec 7) (a b : Src) (s : State) : Out := divOp p d a b (remS) s

/-- REM_N: unsigned remainder; DIV_ZERO where b = 0 (R323, R324). -/
def execRemN (p : Pfx) (d : BitVec 7) (a b : Src) (s : State) : Out := divOp p d a b (fun _ x y => x % y) s

/-- BFI: d with the field replaced by the low bits of a; d is a source too (R332). -/
def execBfi (p : Pfx) (d : BitVec 7) (a b : Src) (s : State) : Out :=
  valueOp .both p (fun sd => [(intOf sd, a), (intOf sd, b)]) (fun _ c => dstOk c.side false d) (fun sd => setD sd false d 0)
    (fun _ k vs t => tryThen (t.soundRegs [d.toNat]) fun _ => .ok (setD (keySide k) false d
      (match keySide k with
        | .e => (bfiW 32 ((getD .e false d t).setWidth 32) ((arg vs 0).setWidth 32) ((arg vs 1).setWidth 32)).setWidth 64
        | .a => bfiW 64 (getD .a false d t) (arg vs 0) (arg vs 1)) t)) s

/-- CMP_EQ: a = b (R336). -/
def execCmpEq (p : Pfx) (d : BitVec 7) (a b : Src) (s : State) : Out := cmpOp p d a b (fun _ x y => x == y) s

/-- CMP_NE: a ≠ b (R336). -/
def execCmpNe (p : Pfx) (d : BitVec 7) (a b : Src) (s : State) : Out := cmpOp p d a b (fun _ x y => x != y) s

/-- CMP_LT: s(a) < s(b) (R336). -/
def execCmpLt (p : Pfx) (d : BitVec 7) (a b : Src) (s : State) : Out := cmpOp p d a b (fun _ x y => x.slt y) s

/-- CMP_LE: s(a) ≤ s(b) (R336). -/
def execCmpLe (p : Pfx) (d : BitVec 7) (a b : Src) (s : State) : Out := cmpOp p d a b (fun _ x y => x.sle y) s

/-- CMP_GT: s(a) > s(b) (R336). -/
def execCmpGt (p : Pfx) (d : BitVec 7) (a b : Src) (s : State) : Out := cmpOp p d a b (fun _ x y => y.slt x) s

/-- CMP_GE: s(a) ≥ s(b) (R336). -/
def execCmpGe (p : Pfx) (d : BitVec 7) (a b : Src) (s : State) : Out := cmpOp p d a b (fun _ x y => y.sle x) s

/-- CMP_LTN: u(a) < u(b) (R336). -/
def execCmpLtn (p : Pfx) (d : BitVec 7) (a b : Src) (s : State) : Out := cmpOp p d a b (fun _ x y => x.ult y) s

/-- CMP_GEN: u(a) ≥ u(b) (R336). -/
def execCmpGen (p : Pfx) (d : BitVec 7) (a b : Src) (s : State) : Out := cmpOp p d a b (fun _ x y => y.ule x) s

/-- Registers that a 64-bit execute operand names lie below `.vregs` (R372). -/
def pairBelow (vregs : Nat) (x : Src) : Bool := match x with | .reg n => decide (n.toNat + 1 < vregs) | _ => true

/-- An instruction of M 12: 64-bit values on the execute side (R372). -/
def longOp (p : Pfx) (d : BitVec 7) (l : List Src) (f : DWord → DWord → DWord) (s : State) : Out :=
  valueOp .eOnly p (fun _ => l.map (fun x => (.int64, x)))
    (fun s c => let v := (s.team c.tm).lim.vregs
      dstOk c.side true d && decide (d.toNat + 1 < v) && l.all (pairBelow v))
    (fun sd => setD sd true d 0) (fun _ _ vs t => .ok (setD .e true d (f (arg vs 0) (arg vs 1)) t)) s

/-- ADD_I64: a + b (R372). -/
def execAddI64 (p : Pfx) (d : BitVec 7) (a b : Src) (s : State) : Out := longOp p d [a, b] (fun x y => x + y) s

/-- SUB_I64: a − b (R372). -/
def execSubI64 (p : Pfx) (d : BitVec 7) (a b : Src) (s : State) : Out := longOp p d [a, b] (fun x y => x - y) s

/-- MUL_I64: low 64 bits of a × b (R372). -/
def execMulI64 (p : Pfx) (d : BitVec 7) (a b : Src) (s : State) : Out := longOp p d [a, b] (fun x y => x * y) s

/-- SHL_I64: a << n; 0 from 64 on (R372). -/
def execShlI64 (p : Pfx) (d : BitVec 7) (a b : Src) (s : State) : Out := longOp p d [a, b] (fun x y => shlW 64 x y) s

/-- SHR_I64: a >> n, zero fill; 0 from 64 on (R372). -/
def execShrI64 (p : Pfx) (d : BitVec 7) (a b : Src) (s : State) : Out := longOp p d [a, b] (fun x y => shrW 64 x y) s

/-- MOV_I64: a (R372). -/
def execMovI64 (p : Pfx) (d : BitVec 7) (a : Src) (s : State) : Out := longOp p d [a] (fun x _ => x) s

end Sys2Proof.Machine
end

