-- ==== Sys2Proof/Machine/Dispatch.lean ====
section
/-! DEFINITION. Execution: one arm for each instruction and event, each one call of its meaning. -/

namespace Sys2Proof.Machine

/-- What an instruction or an event does at a state. -/
def exec (i : Instr) (s : State) : Host.Outcome State Fault Refusal :=
  match i with
  | .br off => Sys2Proof.Machine.execBr off s
  | .brp pr off => Sys2Proof.Machine.execBrp pr off s
  | .brpNot pr off => Sys2Proof.Machine.execBrpNot pr off s
  | .call off => Sys2Proof.Machine.execCall off s
  | .ret => Sys2Proof.Machine.execRet s
  | .brx a => Sys2Proof.Machine.execBrx a s
  | .exit => Sys2Proof.Machine.execExit s
  | .nop => Sys2Proof.Machine.execNop s
  | .yield => Sys2Proof.Machine.execYield s
  | .brk => Sys2Proof.Machine.execBrk s
  | .trap n => Sys2Proof.Machine.execTrap n s
  | .rfhRetry p => Sys2Proof.Machine.execRfhRetry p s
  | .rfhSkip p => Sys2Proof.Machine.execRfhSkip p s
  | .rfhEnd p => Sys2Proof.Machine.execRfhEnd p s
  | .enrol p j => Sys2Proof.Machine.execEnrol p j s
  | .join p j => Sys2Proof.Machine.execJoin p j s
  | .strike p j => Sys2Proof.Machine.execStrike p j s
  | .reform p => Sys2Proof.Machine.execReform p s
  | .jmask p d j b => Sys2Proof.Machine.execJmask p d j b s
  | .jmaskArr p d j b => Sys2Proof.Machine.execJmaskArr p d j b s
  | .plogAnd p d a b => Sys2Proof.Machine.execPlogAnd p d a b s
  | .plogOr p d a b => Sys2Proof.Machine.execPlogOr p d a b s
  | .plogXor p d a b => Sys2Proof.Machine.execPlogXor p d a b s
  | .plogAndn p d a b => Sys2Proof.Machine.execPlogAndn p d a b s
  | .pmov p d a => Sys2Proof.Machine.execPmov p d a s
  | .pset p d b => Sys2Proof.Machine.execPset p d b s
  | .ballot p d pr => Sys2Proof.Machine.execBallot p d pr s
  | .cmpEq p d a b => Sys2Proof.Machine.execCmpEq p d a b s
  | .cmpNe p d a b => Sys2Proof.Machine.execCmpNe p d a b s
  | .cmpLt p d a b => Sys2Proof.Machine.execCmpLt p d a b s
  | .cmpLe p d a b => Sys2Proof.Machine.execCmpLe p d a b s
  | .cmpGt p d a b => Sys2Proof.Machine.execCmpGt p d a b s
  | .cmpGe p d a b => Sys2Proof.Machine.execCmpGe p d a b s
  | .cmpLtn p d a b => Sys2Proof.Machine.execCmpLtn p d a b s
  | .cmpGen p d a b => Sys2Proof.Machine.execCmpGen p d a b s
  | .fcmpF32Eq p d a b => Sys2Proof.Machine.execFcmpF32Eq p d a b s
  | .fcmpF32Ne p d a b => Sys2Proof.Machine.execFcmpF32Ne p d a b s
  | .fcmpF32Lt p d a b => Sys2Proof.Machine.execFcmpF32Lt p d a b s
  | .fcmpF32Le p d a b => Sys2Proof.Machine.execFcmpF32Le p d a b s
  | .fcmpF32Gt p d a b => Sys2Proof.Machine.execFcmpF32Gt p d a b s
  | .fcmpF32Ge p d a b => Sys2Proof.Machine.execFcmpF32Ge p d a b s
  | .fcmpF32Un p d a b => Sys2Proof.Machine.execFcmpF32Un p d a b s
  | .fcmpF32Or p d a b => Sys2Proof.Machine.execFcmpF32Or p d a b s
  | .fcmpF64Eq p d a b => Sys2Proof.Machine.execFcmpF64Eq p d a b s
  | .fcmpF64Ne p d a b => Sys2Proof.Machine.execFcmpF64Ne p d a b s
  | .fcmpF64Lt p d a b => Sys2Proof.Machine.execFcmpF64Lt p d a b s
  | .fcmpF64Le p d a b => Sys2Proof.Machine.execFcmpF64Le p d a b s
  | .fcmpF64Gt p d a b => Sys2Proof.Machine.execFcmpF64Gt p d a b s
  | .fcmpF64Ge p d a b => Sys2Proof.Machine.execFcmpF64Ge p d a b s
  | .fcmpF64Un p d a b => Sys2Proof.Machine.execFcmpF64Un p d a b s
  | .fcmpF64Or p d a b => Sys2Proof.Machine.execFcmpF64Or p d a b s
  | .add p d a b => Sys2Proof.Machine.execAdd p d a b s
  | .sub p d a b => Sys2Proof.Machine.execSub p d a b s
  | .mul p d a b => Sys2Proof.Machine.execMul p d a b s
  | .mulh p d a b => Sys2Proof.Machine.execMulh p d a b s
  | .mulhN p d a b => Sys2Proof.Machine.execMulhN p d a b s
  | .min p d a b => Sys2Proof.Machine.execMin p d a b s
  | .max p d a b => Sys2Proof.Machine.execMax p d a b s
  | .minN p d a b => Sys2Proof.Machine.execMinN p d a b s
  | .div p d a b => Sys2Proof.Machine.execDiv p d a b s
  | .divN p d a b => Sys2Proof.Machine.execDivN p d a b s
  | .rem p d a b => Sys2Proof.Machine.execRem p d a b s
  | .remN p d a b => Sys2Proof.Machine.execRemN p d a b s
  | .maxN p d a b => Sys2Proof.Machine.execMaxN p d a b s
  | .abs p d a => Sys2Proof.Machine.execAbs p d a s
  | .neg p d a => Sys2Proof.Machine.execNeg p d a s
  | .mad p d a b => Sys2Proof.Machine.execMad p d a b s
  | .and p d a b => Sys2Proof.Machine.execAnd p d a b s
  | .or p d a b => Sys2Proof.Machine.execOr p d a b s
  | .xor p d a b => Sys2Proof.Machine.execXor p d a b s
  | .andn p d a b => Sys2Proof.Machine.execAndn p d a b s
  | .not p d a => Sys2Proof.Machine.execNot p d a s
  | .sel p d a b => Sys2Proof.Machine.execSel p d a b s
  | .mov p d a => Sys2Proof.Machine.execMov p d a s
  | .smov p d a => Sys2Proof.Machine.execSmov p d a s
  | .smovHi p d a => Sys2Proof.Machine.execSmovHi p d a s
  | .shl p d a b => Sys2Proof.Machine.execShl p d a b s
  | .shr p d a b => Sys2Proof.Machine.execShr p d a b s
  | .sra p d a b => Sys2Proof.Machine.execSra p d a b s
  | .popc p d a => Sys2Proof.Machine.execPopc p d a s
  | .clz p d a => Sys2Proof.Machine.execClz p d a s
  | .brev p d a => Sys2Proof.Machine.execBrev p d a s
  | .bfe p d a b => Sys2Proof.Machine.execBfe p d a b s
  | .bfeN p d a b => Sys2Proof.Machine.execBfeN p d a b s
  | .bfi p d a b => Sys2Proof.Machine.execBfi p d a b s
  | .perm p d a b => Sys2Proof.Machine.execPerm p d a b s
  | .addI64 p d a b => Sys2Proof.Machine.execAddI64 p d a b s
  | .subI64 p d a b => Sys2Proof.Machine.execSubI64 p d a b s
  | .mulI64 p d a b => Sys2Proof.Machine.execMulI64 p d a b s
  | .shlI64 p d a b => Sys2Proof.Machine.execShlI64 p d a b s
  | .shrI64 p d a b => Sys2Proof.Machine.execShrI64 p d a b s
  | .movI64 p d a => Sys2Proof.Machine.execMovI64 p d a s
  | .fadd p d a b => Sys2Proof.Machine.execFadd p d a b s
  | .fsub p d a b => Sys2Proof.Machine.execFsub p d a b s
  | .fmul p d a b => Sys2Proof.Machine.execFmul p d a b s
  | .ffma p d a b => Sys2Proof.Machine.execFfma p d a b s
  | .fmin p d a b => Sys2Proof.Machine.execFmin p d a b s
  | .fmax p d a b => Sys2Proof.Machine.execFmax p d a b s
  | .fabs p d a => Sys2Proof.Machine.execFabs p d a s
  | .fneg p d a => Sys2Proof.Machine.execFneg p d a s
  | .faddF16x2 p d a b => Sys2Proof.Machine.execFaddF16x2 p d a b s
  | .fsubF16x2 p d a b => Sys2Proof.Machine.execFsubF16x2 p d a b s
  | .fmulF16x2 p d a b => Sys2Proof.Machine.execFmulF16x2 p d a b s
  | .ffmaF16x2 p d a b => Sys2Proof.Machine.execFfmaF16x2 p d a b s
  | .fminF16x2 p d a b => Sys2Proof.Machine.execFminF16x2 p d a b s
  | .fmaxF16x2 p d a b => Sys2Proof.Machine.execFmaxF16x2 p d a b s
  | .fabsF16x2 p d a => Sys2Proof.Machine.execFabsF16x2 p d a s
  | .fnegF16x2 p d a => Sys2Proof.Machine.execFnegF16x2 p d a s
  | .faddBf16x2 p d a b => Sys2Proof.Machine.execFaddBf16x2 p d a b s
  | .fsubBf16x2 p d a b => Sys2Proof.Machine.execFsubBf16x2 p d a b s
  | .fmulBf16x2 p d a b => Sys2Proof.Machine.execFmulBf16x2 p d a b s
  | .ffmaBf16x2 p d a b => Sys2Proof.Machine.execFfmaBf16x2 p d a b s
  | .fminBf16x2 p d a b => Sys2Proof.Machine.execFminBf16x2 p d a b s
  | .fmaxBf16x2 p d a b => Sys2Proof.Machine.execFmaxBf16x2 p d a b s
  | .fabsBf16x2 p d a => Sys2Proof.Machine.execFabsBf16x2 p d a s
  | .fnegBf16x2 p d a => Sys2Proof.Machine.execFnegBf16x2 p d a s
  | .faddF64 p d a b => Sys2Proof.Machine.execFaddF64 p d a b s
  | .fsubF64 p d a b => Sys2Proof.Machine.execFsubF64 p d a b s
  | .fmulF64 p d a b => Sys2Proof.Machine.execFmulF64 p d a b s
  | .ffmaF64 p d a b => Sys2Proof.Machine.execFfmaF64 p d a b s
  | .fminF64 p d a b => Sys2Proof.Machine.execFminF64 p d a b s
  | .fmaxF64 p d a b => Sys2Proof.Machine.execFmaxF64 p d a b s
  | .fabsF64 p d a => Sys2Proof.Machine.execFabsF64 p d a s
  | .fnegF64 p d a => Sys2Proof.Machine.execFnegF64 p d a s
  | .frcp p d a => Sys2Proof.Machine.execFrcp p d a s
  | .frsq p d a => Sys2Proof.Machine.execFrsq p d a s
  | .fsqrt p d a => Sys2Proof.Machine.execFsqrt p d a s
  | .fexp2 p d a => Sys2Proof.Machine.execFexp2 p d a s
  | .flog2 p d a => Sys2Proof.Machine.execFlog2 p d a s
  | .fdiv p d a b => Sys2Proof.Machine.execFdiv p d a b s
  | .frnd p d a => Sys2Proof.Machine.execFrnd p d a s
  | .fclass p d a b => Sys2Proof.Machine.execFclass p d a b s
  | .fflag p d b => Sys2Proof.Machine.execFflag p d b s
  | .fscl p d a b => Sys2Proof.Machine.execFscl p d a b s
  | .fdot2 p d a b => Sys2Proof.Machine.execFdot2 p d a b s
  | .fdot4 p d a b => Sys2Proof.Machine.execFdot4 p d a b s
  | .fdot8 p d a b => Sys2Proof.Machine.execFdot8 p d a b s
  | .cvt p rc d a ty => Sys2Proof.Machine.execCvt p rc d a ty s
  | .cvtnPk p d a fmt => Sys2Proof.Machine.execCvtnPk p d a fmt s
  | .cvtnUp p d a fmt => Sys2Proof.Machine.execCvtnUp p d a fmt s
  | .cvtnPk6 p d a fmt => Sys2Proof.Machine.execCvtnPk6 p d a fmt s
  | .cvtnUp6 p d a fmt => Sys2Proof.Machine.execCvtnUp6 p d a fmt s
  | .mxscale p d a fmt => Sys2Proof.Machine.execMxscale p d a fmt s
  | .shflI p d a b => Sys2Proof.Machine.execShflI p d a b s
  | .shflX p d a b => Sys2Proof.Machine.execShflX p d a b s
  | .shflD p d a b => Sys2Proof.Machine.execShflD p d a b s
  | .bcast p d a b => Sys2Proof.Machine.execBcast p d a b s
  | .redAdd p d a ty => Sys2Proof.Machine.execRedAdd p d a ty s
  | .redMin p d a ty => Sys2Proof.Machine.execRedMin p d a ty s
  | .redMax p d a ty => Sys2Proof.Machine.execRedMax p d a ty s
  | .scanAdd p d a excl ty => Sys2Proof.Machine.execScanAdd p d a excl ty s
  | .scanMin p d a excl ty => Sys2Proof.Machine.execScanMin p d a excl ty s
  | .scanMax p d a excl ty => Sys2Proof.Machine.execScanMax p d a excl ty s
  | .tatomWr p d tr b => Sys2Proof.Machine.execTatomWr p d tr b s
  | .tatomAdd p d tr b => Sys2Proof.Machine.execTatomAdd p d tr b s
  | .tatomMax p d tr b => Sys2Proof.Machine.execTatomMax p d tr b s
  | .tatomCas p d tr b => Sys2Proof.Machine.execTatomCas p d tr b s
  | .sdq p d a => Sys2Proof.Machine.execSdq p d a s
  | .sendx p d a => Sys2Proof.Machine.execSendx p d a s
  | .qstatE p d q => Sys2Proof.Machine.execQstatE p d q s
  | .qflushE p q => Sys2Proof.Machine.execQflushE p q s
  | .qend p d q => Sys2Proof.Machine.execQend p d q s
  | .feed p d a => Sys2Proof.Machine.execFeed p d a s
  | .feedEnd p d a => Sys2Proof.Machine.execFeedEnd p d a s
  | .recvx p d q => Sys2Proof.Machine.execRecvx p d q s
  | .qstatA p d q => Sys2Proof.Machine.execQstatA p d q s
  | .qflushA p q => Sys2Proof.Machine.execQflushA p q s
  | .ldqB8 p d a b => Sys2Proof.Machine.execLdqB8 p d a b s
  | .ldqB16 p d a b => Sys2Proof.Machine.execLdqB16 p d a b s
  | .ldqB32 p d a b => Sys2Proof.Machine.execLdqB32 p d a b s
  | .ldqB64 p d a b => Sys2Proof.Machine.execLdqB64 p d a b s
  | .ldqK16 p d a b => Sys2Proof.Machine.execLdqK16 p d a b s
  | .ldqLine p d a b => Sys2Proof.Machine.execLdqLine p d a b s
  | .ldI8 p d a b => Sys2Proof.Machine.execLdI8 p d a b s
  | .ldN8 p d a b => Sys2Proof.Machine.execLdN8 p d a b s
  | .ldI16 p d a b => Sys2Proof.Machine.execLdI16 p d a b s
  | .ldN16 p d a b => Sys2Proof.Machine.execLdN16 p d a b s
  | .ldI32 p d a b => Sys2Proof.Machine.execLdI32 p d a b s
  | .ldN32 p d a b => Sys2Proof.Machine.execLdN32 p d a b s
  | .ldB64 p d a b => Sys2Proof.Machine.execLdB64 p d a b s
  | .stB8 p d a b => Sys2Proof.Machine.execStB8 p d a b s
  | .stB16 p d a b => Sys2Proof.Machine.execStB16 p d a b s
  | .stB32 p d a b => Sys2Proof.Machine.execStB32 p d a b s
  | .stB64 p d a b => Sys2Proof.Machine.execStB64 p d a b s
  | .staB8 p d a b => Sys2Proof.Machine.execStaB8 p d a b s
  | .staB16 p d a b => Sys2Proof.Machine.execStaB16 p d a b s
  | .staB32 p d a b => Sys2Proof.Machine.execStaB32 p d a b s
  | .staB64 p d a b => Sys2Proof.Machine.execStaB64 p d a b s
  | .atomAdd p w d a b => Sys2Proof.Machine.execAtomAdd p w d a b s
  | .atomMin p w d a b => Sys2Proof.Machine.execAtomMin p w d a b s
  | .atomMinN p w d a b => Sys2Proof.Machine.execAtomMinN p w d a b s
  | .atomMax p w d a b => Sys2Proof.Machine.execAtomMax p w d a b s
  | .atomMaxN p w d a b => Sys2Proof.Machine.execAtomMaxN p w d a b s
  | .atomAnd p w d a b => Sys2Proof.Machine.execAtomAnd p w d a b s
  | .atomOr p w d a b => Sys2Proof.Machine.execAtomOr p w d a b s
  | .atomXor p w d a b => Sys2Proof.Machine.execAtomXor p w d a b s
  | .atomXchg p w d a b => Sys2Proof.Machine.execAtomXchg p w d a b s
  | .cas p w d a b => Sys2Proof.Machine.execCas p w d a b s
  | .credAddI32 p d a b => Sys2Proof.Machine.execCredAddI32 p d a b s
  | .credAddF32 p d a b => Sys2Proof.Machine.execCredAddF32 p d a b s
  | .credMinI32 p d a b => Sys2Proof.Machine.execCredMinI32 p d a b s
  | .credMaxI32 p d a b => Sys2Proof.Machine.execCredMaxI32 p d a b s
  | .credOrB32 p d a b => Sys2Proof.Machine.execCredOrB32 p d a b s
  | .credAddI64 p d a b => Sys2Proof.Machine.execCredAddI64 p d a b s
  | .credMaxF32 p d a b => Sys2Proof.Machine.execCredMaxF32 p d a b s
  | .fence p => Sys2Proof.Machine.execFence p s
  | .pref p a b => Sys2Proof.Machine.execPref p a b s
  | .tgive p t => Sys2Proof.Machine.execTgive p t s
  | .tclaim p t => Sys2Proof.Machine.execTclaim p t s
  | .tchk p d t => Sys2Proof.Machine.execTchk p d t s
  | .fopen p d a b => Sys2Proof.Machine.execFopen p d a b s
  | .fadv p d q b => Sys2Proof.Machine.execFadv p d q b s
  | .fend p q => Sys2Proof.Machine.execFend p q s
  | .fclose p q => Sys2Proof.Machine.execFclose p q s
  | .kins p d a b => Sys2Proof.Machine.execKins p d a b s
  | .kget p d a b => Sys2Proof.Machine.execKget p d a b s
  | .ringClaim p d b => Sys2Proof.Machine.execRingClaim p d b s
  | .ringPost p a b => Sys2Proof.Machine.execRingPost p a b s
  | .ringTake p d b => Sys2Proof.Machine.execRingTake p d b s
  | .ringFree p a b => Sys2Proof.Machine.execRingFree p a b s
  | .kick p d a b => Sys2Proof.Machine.execKick p d a b s
  | .mbinit p d a b => Sys2Proof.Machine.execMbinit p d a b s
  | .mbexp p d a b => Sys2Proof.Machine.execMbexp p d a b s
  | .mbarr p a b => Sys2Proof.Machine.execMbarr p a b s
  | .mbwait p d a b => Sys2Proof.Machine.execMbwait p d a b s
  | .xform p d a b => Sys2Proof.Machine.execXform p d a b s
  | .arrive p nb b => Sys2Proof.Machine.execArrive p nb b s
  | .arwait p nb b => Sys2Proof.Machine.execArwait p nb b s
  | .bwait p nb => Sys2Proof.Machine.execBwait p nb s
  | .ngetB32 p d a b => Sys2Proof.Machine.execNgetB32 p d a b s
  | .nsend p a b => Sys2Proof.Machine.execNsend p a b s
  | .nfence p => Sys2Proof.Machine.execNfence p s
  | .kvlk p d a => Sys2Proof.Machine.execKvlk p d a s
  | .kvins p d a b => Sys2Proof.Machine.execKvins p d a b s
  | .kvdel p d a => Sys2Proof.Machine.execKvdel p d a s
  | .kvref p d a b => Sys2Proof.Machine.execKvref p d a b s
  | .kvpos p d a b => Sys2Proof.Machine.execKvpos p d a b s
  | .kvq p d a b => Sys2Proof.Machine.execKvq p d a b s
  | .mcv p d a => Sys2Proof.Machine.execMcv p d a s
  | .mma p m => Sys2Proof.Machine.execMma p m s
  | .mmaMinplus p m => Sys2Proof.Machine.execMmaMinplus p m s
  | .mmaMaxtimes p m => Sys2Proof.Machine.execMmaMaxtimes p m s
  | .mmaOrand p m => Sys2Proof.Machine.execMmaOrand p m s
  | .mmaStage p m => Sys2Proof.Machine.execMmaStage p m s
  | .mzero p d => Sys2Proof.Machine.execMzero p d s
  | .mrdF32 p d t h ix => Sys2Proof.Machine.execMrdF32 p d t h ix s
  | .mrdSt p d t ix => Sys2Proof.Machine.execMrdSt p d t ix s
  | .mwrF32 p d t h ix => Sys2Proof.Machine.execMwrF32 p d t h ix s
  | .mwrSt p d t ix => Sys2Proof.Machine.execMwrSt p d t ix s
  | .mcont p a => Sys2Proof.Machine.execMcont p a s
  | .mscl p d az b => Sys2Proof.Machine.execMscl p d az b s
  | .smx p d a b => Sys2Proof.Machine.execSmx p d a b s
  | .smrg p d aS => Sys2Proof.Machine.execSmrg p d aS s
  | .smfin p d => Sys2Proof.Machine.execSmfin p d s
  | .tenq p a => Sys2Proof.Machine.execTenq p a s
  | .vabort p d a => Sys2Proof.Machine.execVabort p d a s
  | .tstamp p d => Sys2Proof.Machine.execTstamp p d s
  | .rdsr p d n => Sys2Proof.Machine.execRdsr p d n s
  | .wrsr p n a => Sys2Proof.Machine.execWrsr p n a s
  | .tlbi p a => Sys2Proof.Machine.execTlbi p a s
  | .tlbiAll p => Sys2Proof.Machine.execTlbiAll p s
  | .mcallTelemetry p d b => Sys2Proof.Machine.execMcallTelemetry p d b s
  | .mcallLocate p d => Sys2Proof.Machine.execMcallLocate p d s
  | .mcallPeer p d b => Sys2Proof.Machine.execMcallPeer p d b s
  | .reconvergenceTimeout tm sid => Sys2Proof.Machine.execReconvergenceTimeout tm sid s
  | .binAgeDraw core bin => Sys2Proof.Machine.execBinAgeDraw core bin s
  | .yieldExpiry tm gid => Sys2Proof.Machine.execYieldExpiry tm gid s
  | .taskEnded task => Sys2Proof.Machine.execTaskEnded task s
  | .drain tm tid => Sys2Proof.Machine.execDrain tm tid s
  | .merge core line => Sys2Proof.Machine.execMerge core line s
  | .ldqFill tm tid q => Sys2Proof.Machine.execLdqFill tm tid q s
  | .translationComplete tm tid => Sys2Proof.Machine.execTranslationComplete tm tid s
  | .pendingFaultDelivery tm tid => Sys2Proof.Machine.execPendingFaultDelivery tm tid s
  | .queueDeadlock tm tid => Sys2Proof.Machine.execQueueDeadlock tm tid s
  | .streamElement tm tid q => Sys2Proof.Machine.execStreamElement tm tid q s
  | .mmaComplete core => Sys2Proof.Machine.execMmaComplete core s
  | .bearCommandComplete core => Sys2Proof.Machine.execBearCommandComplete core s
  | .bearFault core blocks => Sys2Proof.Machine.execBearFault core blocks s
  | .copyRow id => Sys2Proof.Machine.execCopyRow id s
  | .settPairPass id sett => Sys2Proof.Machine.execSettPairPass id sett s
  | .returnMerge id => Sys2Proof.Machine.execReturnMerge id s
  | .kvqComplete id => Sys2Proof.Machine.execKvqComplete id s
  | .kvqFail id => Sys2Proof.Machine.execKvqFail id s
  | .nsendRow id => Sys2Proof.Machine.execNsendRow id s
  | .rowAck id => Sys2Proof.Machine.execRowAck id s
  | .remoteRowArrival row => Sys2Proof.Machine.execRemoteRowArrival row s
  | .remoteTimeout op => Sys2Proof.Machine.execRemoteTimeout op s
  | .remoteRead part win off => Sys2Proof.Machine.execRemoteRead part win off s
  | .ngetResponse tm tid q w => Sys2Proof.Machine.execNgetResponse tm tid q w s
  | .mcallAnswer tm tid => Sys2Proof.Machine.execMcallAnswer tm tid s
  | .expertStarved tm tid => Sys2Proof.Machine.execExpertStarved tm tid s
  | .breakpointMatch tm gid => Sys2Proof.Machine.execBreakpointMatch tm gid s
  | .resume part => Sys2Proof.Machine.execResume part s
  | .stepGroup tm gid => Sys2Proof.Machine.execStepGroup tm gid s
  | .submit part va => Sys2Proof.Machine.execSubmit part va s
  | .registerWrite part off width value => Sys2Proof.Machine.execRegisterWrite part off width value s
  | .hostApertureWrite part off bytes => Sys2Proof.Machine.execHostApertureWrite part off bytes s
  | .hostApertureRead part off n => Sys2Proof.Machine.execHostApertureRead part off n s
  | .commit task => Sys2Proof.Machine.execCommit task s
  | .successorDecrement task => Sys2Proof.Machine.execSuccessorDecrement task s
  | .bindRecord core idx r => Sys2Proof.Machine.execBindRecord core idx r s
  | .teamStart cluster => Sys2Proof.Machine.execTeamStart cluster s
  | .eviction core need => Sys2Proof.Machine.execEviction core need s
  | .groupSave tm slot => Sys2Proof.Machine.execGroupSave tm slot s
  | .thermalMigration cluster => Sys2Proof.Machine.execThermalMigration cluster s
  | .lentTileDrain core => Sys2Proof.Machine.execLentTileDrain core s
  | .l2WriteBack part frame => Sys2Proof.Machine.execL2WriteBack part frame s
  | .scrubError part rec => Sys2Proof.Machine.execScrubError part rec s
  | .dirtyHarvest part dword => Sys2Proof.Machine.execDirtyHarvest part dword s
  | .swapOut part => Sys2Proof.Machine.execSwapOut part s
  | .swapIn part => Sys2Proof.Machine.execSwapIn part s
  | .migrationRound part => Sys2Proof.Machine.execMigrationRound part s
  | .precopyFrame part frame bytes tagOk => Sys2Proof.Machine.execPrecopyFrame part frame bytes tagOk s
  | .partitionHeader part => Sys2Proof.Machine.execPartitionHeader part s
  | .teamContext part tm => Sys2Proof.Machine.execTeamContext part tm s
  | .taskRecord part task => Sys2Proof.Machine.execTaskRecord part task s
  | .bearContinuation part core => Sys2Proof.Machine.execBearContinuation part core s
  | .lynxFlows part => Sys2Proof.Machine.execLynxFlows part s
  | .timeRecord part => Sys2Proof.Machine.execTimeRecord part s
  | .telemetryRingTail part => Sys2Proof.Machine.execTelemetryRingTail part s
  | .bearCheckStatistics part => Sys2Proof.Machine.execBearCheckStatistics part s
  | .endOfImage part => Sys2Proof.Machine.execEndOfImage part s
  | .unknownRecord part head => Sys2Proof.Machine.execUnknownRecord part head s
  | .quote part nonce => Sys2Proof.Machine.execQuote part nonce s
  | .ecideHandover component ok => Sys2Proof.Machine.execEcideHandover component ok s
  | .partitionCreate part cfg => Sys2Proof.Machine.execPartitionCreate part cfg s
  | .partitionResize part cores grant => Sys2Proof.Machine.execPartitionResize part cores grant s
  | .partitionDelete part => Sys2Proof.Machine.execPartitionDelete part s
  | .coreRetirement core => Sys2Proof.Machine.execCoreRetirement core s
  | .pseudoChannelRetirement stack channel => Sys2Proof.Machine.execPseudoChannelRetirement stack channel s
  | .lynxLaneDegrade port lanes => Sys2Proof.Machine.execLynxLaneDegrade port lanes s
  | .pcieDegrade width => Sys2Proof.Machine.execPcieDegrade width s
  | .hbmRecalibration stack channel => Sys2Proof.Machine.execHbmRecalibration stack channel s
  | .powerCap sixteenths => Sys2Proof.Machine.execPowerCap sixteenths s
  | .coolantOverLimit => Sys2Proof.Machine.execCoolantOverLimit s
  | .powerGood boot => Sys2Proof.Machine.execPowerGood boot s
  | .powerRemoved => Sys2Proof.Machine.execPowerRemoved s
  | .decodeFault e => Sys2Proof.Machine.execDecodeFault e s
  | .gtcIncrement => Sys2Proof.Machine.execGtcIncrement s
  | .hostStoreCompletion tm tid => Sys2Proof.Machine.execHostStoreCompletion tm tid s
  | .remoteRefused op => Sys2Proof.Machine.execRemoteRefused op s
  | .imageRefused part head => Sys2Proof.Machine.execImageRefused part head s
  | .tilraxDbgSession part on => Sys2Proof.Machine.execTilraxDbgSession part on s

end Sys2Proof.Machine
end

