-- ==== Sys2Proof/Machine/Run.lean ====
section
/-! DEFINITION. What a step is made of: the issue of a group, which groups of a core issue in a cycle and in what order (R89 to R91, R381),
the order of the events of one GTC value by their sources (R16, log 114), the acts decided outside, and the free choice among what is
left (R134, log 3); and the placing of one instruction where the next step issues it (log 15). -/

namespace Sys2Proof.Machine

/-- The end of a step: no issue is in progress any more, and the next free choices are other ones. -/
def finish (o : Out) : Out :=
  match o with
  | .next s => .next { s with cur := none, tick := s.tick + 1 }
  | .fault f => .fault f
  | .refused r => .refused r

/-- A next state goes on through a function. -/
def andThen (o : Out) (f : State → State) : Out :=
  match o with
  | .next s => .next (f s)
  | .fault f => .fault f
  | .refused r => .refused r

/-- What is left to do after the issue of a group `g` of a core: the Fox is busy with it (R90), and a single step of the debugger ends
(R205). -/
def State.afterIssue (s : State) (core : Nat) (g : Group) : State := (s.foxBusy core g).stepDone g.tm

/-- The issue of a group: its next instruction, decoded, is executed (R69). -/
noncomputable def State.runIssue (s : State) (gid : Nat) : Out :=
  let g := s.grp gid
  let core := s.coreOf g.tm
  match s.issue gid with
  | .done s1 => .next (s1.afterIssue core g)
  | .exec i s1 => andThen (exec i s1) (fun t => t.afterIssue core g)

/-- The state that the issue of a group leads to. -/
noncomputable def State.issued (s : State) (gid : Nat) : Option State := match s.runIssue gid with | .next t => some t | _ => none

/-- Whether a task that had not ended in one state has ended in another. -/
def State.endedBy (s t : State) (task : Nat) : Bool := (s.task task).state == 3 && (t.task task).state != 3

/-- The issue of a group has ended its task: each other group of the task that issues in the same cycle and would end it too writes its
record; the rest of the task is gone (R195). -/
noncomputable def State.endMates (s : State) (gid : Nat) (t : State) : State :=
  let task := (s.team (s.grp gid).tm).task
  let p := s.partOf (s.grp gid).tm
  if s.endedBy t task then
    (s.due.filter (fun k => (s.team (s.grp k).tm).task == task && s.mayIssue k)).foldl (fun t k =>
      match s.issued k with
      | some u => if s.endedBy u task then (match (u.part p).tel.getLast? with | some r => t.telemetry p r | none => t) else t
      | none => t) t
  else t

/-- What a core's groups have filed enters the bins when the last of them has had its turn in the cycle (R80). -/
def State.closeIssues (s : State) (core : Nat) : State := if s.due.isEmpty then s.flushFiling core else s

/-- The turn of a group; one that may not issue any more passes it. -/
noncomputable def State.turnOf (s : State) (gid : Nat) : Out :=
  let core := s.coreOf (s.grp gid).tm
  andThen (if s.mayIssue gid then andThen (s.runIssue gid) (s.endMates gid) else .next s) (fun t => t.closeIssues core)

/-- Whether an event has a step here. -/
def State.enabled (s : State) (i : Instr) : Bool := match exec i s with | .next _ => true | _ => false

/-- The members of a group whose instruction waits for its operands or for places in a queue, if one does: they park there and the group takes
no port (R90). -/
noncomputable def State.operandWait (s : State) (gid : Nat) : Option State :=
  match s.issued gid with
  | some t =>
    let g := s.grp gid
    if g.members.any (fun u => match (t.thr (g.key u)).park with | .retry c => c.early | _ => false) then
      some (g.members.foldl (fun x u => x.modThr (g.key u) (fun th => { th with park := (t.thr (g.key u)).park })) s)
    else none
  | none => none

/-- Of the groups of a side that are ready but for their operands, those whose operands can be read, and the state in which the others are
parked (R90). -/
noncomputable def State.readyOn (s : State) (core : Nat) (sd : Side) : List Nat × State :=
  (s.candidates core sd).foldl (fun r k => match r.2.operandWait k with
    | some t => (r.1, t)
    | none => (r.1 ++ [k], r.2)) ([], s)

/-- The instruction that a group stands at. -/
noncomputable def State.instrAt (s : State) (gid : Nat) : Option Instr :=
  match s.issue gid with
  | .exec i _ => some i
  | .done _ => none

/-- The place of a group's issue in its cycle: `qstat` sees the queues as they stood, and a flush comes after every push and pop, the execute
side's first (R381); between them the execute side comes before the access side (R89). -/
noncomputable def State.issueClass (s : State) (gid : Nat) : Nat :=
  match s.instrAt gid with
  | some (.qstatE _ _ _) => 0
  | some (.qstatA _ _ _) => 0
  | some (.qflushE _ _) => 3
  | some (.qflushA _ _) => 4
  | _ => match (s.grp gid).side with | .e => 1 | .a => 2

/-- A cycle of a core: two groups of its execute side issue, and one of its access side when the Fox is free (R90), as R91 chooses them, in the
order of R89 and R381. -/
noncomputable def State.chooseOn (s : State) (core : Nat) : State :=
  let (es, s1) := s.readyOn core .e
  let (as_, s2) := s1.readyOn core .a
  let n := if (s2.core core).foxUntil ≤ s2.cycle then 1 else 0
  let pick := (sortBy s.issuesBefore es).take 2 ++ (sortBy s.issuesBefore as_).take n
  { s2 with due := sortBy (fun a b => let x := s.issueClass a; let y := s.issueClass b
                                      decide (x < y) || (x == y && s.slotBefore a b)) pick }

/-- The steps of a new GTC value begin: so many cycles of the cores that have running teams, core by core in the order of their source
numbers, as it takes until the counter goes up (R14, R16, R320). -/
def State.beginTurn (s : State) : State :=
  let n := ceilDiv (gtcSpan s.cap - s.gphase) 160
  let cores := s.busyCores
  { s with turnGtc := s.gtc, turn := 0, cycleOf := none, gphase := s.gphase + 160 * n,
           plan := cores.flatMap (fun c => (List.range n).map (fun i => (c, s.cycle + 1 + i))),
           cycle := if cores.isEmpty then s.cycle + n else s.cycle }

/-- Whether an event of a source may come now: no source of a higher number has acted at this GTC value, nor has one of a lower number still
a cycle to come (R16). -/
def State.sourceDue (s : State) (source : Nat) : Bool :=
  s.turnGtc == s.gtc && s.cycleOf.isNone && decide (s.turn ≤ source) &&
    (match s.plan with | [] => true | (c, _) :: _ => decide (source ≤ s.srcCore c))

/-- An event of a source is taken. -/
def State.fromSource (s : State) (source : Nat) (o : State → Out) : Out := o { s with turn := source }

/-- The next cycle of this GTC value: that of the core whose turn it is; after the last of them the counter goes up. -/
noncomputable def State.nextCycle (s : State) : Out :=
  match s.plan with
  | [] => exec .gtcIncrement s
  | (c, k) :: rest =>
    .next { ({ s with plan := rest, turn := s.srcCore c, cycleOf := some c, cycle := k - 1 } : State).endCycle c with cycle := k }

/-- A step that the device takes of itself between issues: in a core's cycle the events that may not wait, then the choice of its groups; else
one of the events that are enabled and due, or the next cycle (log 3). -/
noncomputable def State.free (s : State) : Out :=
  if s.turnGtc != s.gtc then .next s.beginTurn
  else match s.cycleOf with
  | some c => (match (s.forcedOn c).find? s.enabled with
    | some i => exec i s
    | none => .next { s.chooseOn c with cycleOf := none })
  | none =>
    let evs := s.internalEvents.filter (fun i => s.sourceDue (s.evSource i) && s.enabled i)
    match evs[s.choose (2 ^ 93) (evs.length + 1)]? with
    | some i => s.fromSource (s.evSource i) (exec i)
    | none => s.nextCycle

/-- The source of an act decided outside. -/
def State.actSource (s : State) (a : Act) : Nat :=
  match a with
  | .ev i => s.evSource i
  | .registerRead _ _ _ => hostSource
  | .groupError gid => s.srcTeam (s.grp gid).tm
  | _ => ecideSource

/-- An act decided outside. -/
noncomputable def State.act (s : State) (a : Act) : Out :=
  match a with
  | .issue gid => s.turnOf gid
  | .ev i => exec i s
  | .tlbi p va => s.serviceTlbi p va
  | .breakpoint p n v => s.setBreakpoint p n v
  | .registerRead fn off w => s.readPort fn off w
  | .groupError gid => s.groupError gid
  | .record p r => s.recordCame p r

/-- Whether an act decided outside is taken now: an issue at once, an event when its source's turn has come and no issue is left to do
(R16). -/
def State.actsNow (s : State) (a : Act) : Bool :=
  match a with
  | .issue _ => true
  | _ => !s.power || (s.due.isEmpty && s.sourceDue (s.actSource a))

/-- A step without an act decided outside: the next group of this cycle, or a step of the device itself. -/
noncomputable def State.own (s : State) : Out :=
  if !s.power then .fault .poweredOff
  else match s.due with
    | g :: rest => ({ s with due := rest }).turnOf g
    | [] => s.free

/-- One step: the next act decided outside when its turn has come, or one of the device's own. -/
noncomputable def State.advance (s : State) : Out :=
  match s.agenda with
  | a :: rest =>
    if s.actsNow a then
      (match a with
      | .issue gid => ({ s with agenda := rest }).turnOf gid
      | _ => ({ s with agenda := rest }).fromSource (max s.turn (s.actSource a)) (fun t => t.act a))
    else s.own
  | [] => s.own

/-- The side whose group executes an instruction with a major opcode (Table 2-13): the access side where only it may. -/
def sideFor (m : Nat) : Side := if (24 ≤ m ∧ m ≤ 33) ∨ m = 35 ∨ m = 36 then .a else .e

/-- Whether an instruction is privileged (R52): `rfh`, `wrsr` and `tlbi`. -/
def privFor (m f : Nat) : Bool := (m == 1 && f == 7) || (m == 39 && (f == 4 || f == 5))

/-- Whether a word of some block can be at its end only: `reform` (R79). -/
def lenFor (m f n : Nat) : Nat := if m = 2 ∧ f = 3 then n else n + 1

/-- The virtual address of the block that holds a placed instruction. -/
def placedHdr : DWord := 0x10000

/-- The bytes of the block: its header, then four words (Table 2-1). -/
def placedBytes (len : Nat) (ws : List Word) : List Byte :=
  leBytes 8 (62 * 2 ^ 26 + len * 2 ^ 16 + 128 * 2 ^ 8 + 16 * 2 ^ 40) ++ wordBytes ws

/-- A page table for the first 2 MiB of a partition, at physical address 0x400000, writable, executable and untracked (Table 5-2). -/
def placedTables : List (Nat × Nat) := [(0x100000, 0x200001), (0x200000, 0x201001), (0x201000, 0x40003B)]

/-- Writes bytes of M as they stand before anything runs. -/
def State.poke (s : State) (pa : Nat) (bs : List Byte) : State :=
  { s with mem := ((List.range bs.length).zip bs).foldl (fun m e => kputD m (pa + e.1) 0 e.2) s.mem }

/-- A partition for a placed instruction: the first GiB of HBM. -/
def placedPart : Part := freshPart { noCfg with cores := [0], grant := [0], ptroot := 0x100000 }

/-- Resources of the placed team. -/
def placedLim : Limits := { vregs := 128, xregs := 32, nq := 16, depth := 32, tiles := 4, accs := 8 }

/-- An instruction's words placed where the next step issues them: a partition, a running task of one team of four threads a side in
one group, standing in a block that holds the words (log 15). -/
def State.place1 (s : State) (ws : List Word) : State :=
  let n := (takeInstr ws).length
  let w := (takeInstr ws).getLastD 0
  let m := (opM w).toNat
  let f := (w.extractLsb' 23 3).toNat
  let sd := sideFor m
  let id := s.nextId
  let len := lenFor m f n
  let task : Task := { noTask with pa := 0x500000, va := 0x100000, tpg := 4, gpt := 1, teams := 1, lim := placedLim, state := 3, bound := 1 }
  let team : Team :=
    { noTeam with task := id, cluster := id + 2, slots := [0], tpg := 4, gpt := 1, lim := placedLim, mode := .running,
                  nb := [(0, freshBarrier (some 4)), (15, freshBarrier (some 4))] }
  let cluster : Cluster := { task := id, no := 0, nb15E := freshBarrier (some 4), nb15A := freshBarrier (some 4), teams := [id + 1],
                             restore := false, started := true, saving := false }
  let grp : Group :=
    { noGroup with tm := id + 1, side := sd, members := [0, 1, 2, 3], pc := placedHdr + 8, hdr := placedHdr, len := len, priv := privFor m f }
  let s1 := (placedTables.foldl (fun s e => s.poke e.1 (leBytes 8 e.2)) s).poke 0x410000 (placedBytes len ws)
  let s2 : State :=
    { s1 with power := true, up := true, nextId := id + 4, parts := kput s1.parts 0 placedPart, tasks := kput s1.tasks id task,
              teams := kput s1.teams (id + 1) team, clusters := kput s1.clusters (id + 2) cluster, groups := kput s1.groups (id + 3) grp,
              cores := kput s1.cores 0 { s1.core 0 with part := some 0 }, agenda := [.issue (id + 3)] }
  [Side.e, Side.a].foldl (fun s sd => (List.range 4).foldl (fun s t => s.modThr (tkey (id + 1) sd t) (fun _ => freshThread 0 t 0)) s) s2

end Sys2Proof.Machine
end

