-- ==== Sys2Proof/Machine/Step.lean ====
section
/-! DEFINITION. One step of the device, and the placing of one instruction where the next step issues it. -/

namespace Sys2Proof.Machine

/-- One step of the device. -/
noncomputable def step (s : State) : Host.Outcome State Fault Refusal := finish s.advance

/-- The state with an instruction of the opcode table placed where the next step issues it: the words as decodeTableWord lays them
out. -/
def State.withFetchWord (s : State) (nbits w : Nat) : State := s.place1 (wordsOf 4 (w % 2 ^ nbits))

end Sys2Proof.Machine
end

