-- ==== Sys2Proof/Safety.lean ====
section
/-! DEFINITION. The terms that statements about the machine are made in: when the issue of an instruction passes the checks made
before it acts, when every thread of it succeeds, what an instruction leaves unchanged, and for each instruction of one of two
shapes a row of what it reads, needs and does. -/

namespace Sys2Proof.Safety

open Sys2Proof.Machine

/-- The issue of an instruction passes the checks made before its operands (R39, R51, R52): there is power, the issue in progress
is c, `act` are its active threads and at least one is, the instruction may execute on the side, and a privileged one executes in
handler code. -/
def Issues (s : State) (c : Cur) (act : List Nat) (need : SideReq) (priv : Bool) (p : Pfx) : Prop :=
  s.power = true ∧ s.cur = some c ∧ s.activeOf c p = act ∧ act ≠ [] ∧ ¬ (need = .eOnly ∧ c.side = .a) ∧
    ¬ (need = .aOnly ∧ c.side = .e) ∧ (priv = true → (s.grp c.gid).priv = true)

/-- The group may fall into the header after its block, if the instruction is the last one of it (R25). -/
def Falls (s : State) (c : Cur) : Prop := (c.last && s.fallFault c.tm c.next) = false

/-- Every attempt of a list has succeeded. -/
def AllOk {α : Type} (rs : List (Nat × Try α)) : Prop := ∀ e ∈ rs, ∃ v, e.2 = .ok v

/-- A thread after it has completed an instruction that left it as `a`: only its park, and what the next exception will count, differ
(R92, R193, R203, R306). -/
def doneThread (priv : Bool) (a : Thread) : Thread :=
  { a with park := a.park.kept, passOnce := none, since := none, h := { a.h with progressed := a.h.progressed || !priv } }

/-- The whole state but its threads, pairs, groups and split records is unchanged, and every byte of memory reads as before. -/
def Frame (s t : State) : Prop :=
  { t with threads := s.threads, pairs := s.pairs, groups := s.groups, splits := s.splits } = s ∧ ∀ l, t.readM l = s.readM l

/-- The same with the pairs unchanged too. -/
def FramePairs (s t : State) : Prop :=
  { t with threads := s.threads, groups := s.groups, splits := s.splits } = s ∧ ∀ l, t.readM l = s.readM l

/-- A thread that no member of the issuing group is. -/
def Outside (s : State) (c : Cur) (k : Nat) : Prop := ∀ u ∈ (s.grp c.gid).members, c.key u ≠ k

/-- A pair that no active thread belongs to. -/
def NoPair (c : Cur) (act : List Nat) (n : Nat) : Prop := ∀ u ∈ act, pairOf (c.key u) ≠ n

/-- The only active thread of its pair. -/
def Alone (c : Cur) (act : List Nat) (u : Nat) : Prop := ∀ v ∈ act, pairOf (c.key v) = pairOf (c.key u) → v = u

/-- The threads of an instruction that act on the shared state take their steps in ascending lane (R89, R405): the state after the
last, if every step succeeds. -/
def inOrder (c : Cur) (f : State → Nat → Try State) : List Nat → State → Option State
  | [], s => some s
  | t :: ts, s => match f s (c.key t) with
    | .ok s1 => inOrder c f ts s1
    | _ => none

/-- The group stands after the instruction: at the next one of its block (R20). -/
def MovesOn (s t : State) (c : Cur) : Prop :=
  c.last = false → (kget s.groups c.gid).isSome → (t.grp c.gid).pc = c.next ∧ (t.grp c.gid).entering = false ∧
    (t.grp c.gid).members = (s.grp c.gid).members

/-- What an instruction needs and does whose threads act each on its own registers and queues: `ok` is what its operands must be,
`z` clears the destinations of a thread that is not active under `.z`, `f` is a thread's attempt. -/
structure LaneRow where
  need : SideReq
  priv : Bool
  p : Pfx
  ok : State → Cur → Bool
  z : Side → Thread → Thread
  f : State → Cur → Nat → Try Lane

/-- An instruction completes as its row says, for every active thread; the rest of the machine stands as before (R39, R188). -/
def LaneRow.Holds (i : Instr) (r : LaneRow) : Prop :=
  ∀ (s : State) (c : Cur) (act : List Nat), Issues s c act r.need r.priv r.p → Falls s c → r.ok s c = true →
    (∀ u ∈ act, ∃ l, r.f s c (c.key u) = .ok l) →
    ∃ t, exec i s = .next t ∧ Frame s t ∧ MovesOn s t c ∧
      (∀ u ∈ act, ∀ l, r.f s c (c.key u) = .ok l →
        t.thr (c.key u) = doneThread (s.grp c.gid).priv l.th ∧ (Alone c act u → t.pair (pairOf (c.key u)) = l.p)) ∧
      (∀ u ∈ (s.grp c.gid).members, u ∉ act →
        t.thr (c.key u) = doneThread (s.grp c.gid).priv (if r.p.zeroes then r.z c.side (s.thr (c.key u)) else s.thr (c.key u))) ∧
      (∀ k, Outside s c k → t.thr k = s.thr k) ∧ (∀ n, NoPair c act n → t.pair n = s.pair n)

/-- A row of an instruction that reads source operands and then changes its thread: `eff` is the thread after it, from the values
read; none where it meets a cause. -/
def valueRow (need : SideReq) (p : Pfx) (srcs : Side → List (OTy × Src)) (ok : State → Cur → Bool) (z : Side → Thread → Thread)
    (eff : State → Nat → List DWord → Thread → Option Thread) : LaneRow :=
  { need := need, priv := false, p := p, ok := fun s c => srcsOk s c (srcs c.side) && ok s c, z := z,
    f := fun s c k => tryThen (s.readSrcs k (srcs c.side) (s.rd k)) fun (vs, rd) =>
      match eff s k vs { s.thr k with clk := rd.clk } with
      | some th => .ok { th := th, p := rd.p }
      | none => .trap .none 0 }

/-- Some registers of a thread hold sound words (R131). -/
def sound (t : Thread) (l : List Nat) : Bool := l.all (fun n => !t.bad.contains n)

/-- The numbers of n registers from r on. -/
def numbers (r n : Nat) : List Nat := (List.range n).map (r + ·)

/-- A function of up to three operands at one width. -/
abbrev IntFun := (w : Nat) → BitVec w → BitVec w → BitVec w → BitVec w

/-- It applied to the operands of a thread at the width of its side: 32 bits on the execute side, 64 on the access side (R322). -/
def intValue (f : IntFun) (k : Nat) (vs : List DWord) : DWord :=
  match keySide k with
  | .e => (f 32 ((arg vs 0).setWidth 32) ((arg vs 1).setWidth 32) ((arg vs 2).setWidth 32)).setWidth 64
  | .a => f 64 (arg vs 0) (arg vs 1) (arg vs 2)

/-- A row of an integer instruction that writes f of its operands into D (R322). -/
def intOf3 (p : Pfx) (d : BitVec 7) (l : List Src) (useC : Bool) (f : IntFun) : LaneRow :=
  valueRow .both p (fun sd => l.map (fun x => (intOf sd, x)) ++ (if useC then cList p (intOf sd) else []))
    (fun _ c => dstOk c.side false d && (!useC || p.cOk)) (fun sd => setD sd false d 0)
    (fun _ k vs t => some (setD (keySide k) false d (intValue f k vs) t))

/-- The integer arithmetic instructions but the divisions (R322, R323, Table 20-1). -/
def arithRow : Instr → Option LaneRow
  | .add p d a b => some (intOf3 p d [a, b] false (fun _ x y _ => x + y))
  | .sub p d a b => some (intOf3 p d [a, b] false (fun _ x y _ => x - y))
  | .mul p d a b => some (intOf3 p d [a, b] false (fun _ x y _ => x * y))
  | .mulh p d a b => some (intOf3 p d [a, b] false (fun w x y _ => BitVec.ofInt w (x.toInt * y.toInt / (2 ^ w : Nat))))
  | .mulhN p d a b => some (intOf3 p d [a, b] false (fun w x y _ => BitVec.ofNat w (x.toNat * y.toNat / 2 ^ w)))
  | .min p d a b => some (intOf3 p d [a, b] false (fun _ x y _ => if x.toInt ≤ y.toInt then x else y))
  | .max p d a b => some (intOf3 p d [a, b] false (fun _ x y _ => if y.toInt ≤ x.toInt then x else y))
  | .minN p d a b => some (intOf3 p d [a, b] false (fun _ x y _ => if x.toNat ≤ y.toNat then x else y))
  | .maxN p d a b => some (intOf3 p d [a, b] false (fun _ x y _ => if y.toNat ≤ x.toNat then x else y))
  | .abs p d a => some (intOf3 p d [a] false (fun _ x _ _ => if x.toInt < 0 then -x else x))
  | .neg p d a => some (intOf3 p d [a] false (fun _ x _ _ => -x))
  | .mad p d a b => some (intOf3 p d [a, b] true (fun _ x y z => x * y + z))
  | _ => none

/-- The bitwise instructions, shifts and counts (R325, R335, Tables 20-3 and 20-8). -/
def bitRow : Instr → Option LaneRow
  | .and p d a b => some (intOf3 p d [a, b] false (fun _ x y _ => x &&& y))
  | .or p d a b => some (intOf3 p d [a, b] false (fun _ x y _ => x ||| y))
  | .xor p d a b => some (intOf3 p d [a, b] false (fun _ x y _ => x ^^^ y))
  | .andn p d a b => some (intOf3 p d [a, b] false (fun _ x y _ => x &&& ~~~y))
  | .not p d a => some (intOf3 p d [a] false (fun _ x _ _ => ~~~x))
  | .sel p d a b => some (intOf3 p d [a, b] true (fun _ x y z => if z ≠ 0 then x else y))
  | .mov p d a => some (intOf3 p d [a] false (fun _ x _ _ => x))
  | .shl p d a b => some (intOf3 p d [a, b] false (fun _ x y _ => x <<< y.toNat))
  | .shr p d a b => some (intOf3 p d [a, b] false (fun _ x y _ => x >>> y.toNat))
  | .sra p d a b => some (intOf3 p d [a, b] false (fun _ x y _ => x.sshiftRight y.toNat))
  | .popc p d a => some (intOf3 p d [a] false (fun w x _ _ => BitVec.ofNat w ((List.range w).countP (fun i => x.getLsbD i))))
  | .clz p d a => some (intOf3 p d [a] false (fun w x _ _ => if x = 0 then BitVec.ofNat w w else BitVec.ofNat w (w - 1 - x.toNat.log2)))
  | .brev p d a => some (intOf3 p d [a] false (fun _ x _ _ => x.reverse))
  | _ => none

/-- Position of a bit field in value(B) (R332). -/
def fieldPos {w : Nat} (b : BitVec w) : Nat := b.toNat % 256
/-- Its length (R332). -/
def fieldLen {w : Nat} (b : BitVec w) : Nat := if w ≤ fieldPos b then 0 else min (b.toNat / 256 % 256) (w - fieldPos b)
/-- The bits of a field (R332). -/
def fieldBits {w : Nat} (a b : BitVec w) : Nat := a.toNat / 2 ^ fieldPos b % 2 ^ fieldLen b
/-- A word with ones at the bits of a field. -/
def fieldMask {w : Nat} (b : BitVec w) : BitVec w := BitVec.ofNat w ((2 ^ fieldLen b - 1) * 2 ^ fieldPos b)

/-- The bit-field instructions and `perm` (R332, R377); `bfi` reads D too. -/
def fieldRow : Instr → Option LaneRow
  | .bfe p d a b => some (intOf3 p d [a, b] false (fun w x y _ =>
      if fieldLen y ≠ 0 ∧ 2 ^ (fieldLen y - 1) ≤ fieldBits x y then BitVec.ofInt w ((fieldBits x y : Int) - 2 ^ fieldLen y)
      else BitVec.ofNat w (fieldBits x y)))
  | .bfeN p d a b => some (intOf3 p d [a, b] false (fun w x y _ => BitVec.ofNat w (fieldBits x y)))
  | .bfi p d a b => some (valueRow .both p (fun sd => [(intOf sd, a), (intOf sd, b)]) (fun _ c => dstOk c.side false d)
      (fun sd => setD sd false d 0)
      (fun _ k vs t => if sound t [d.toNat] then some (setD (keySide k) false d
        (intValue (fun _ x y old => (old &&& ~~~fieldMask y) ||| ((x <<< fieldPos y) &&& fieldMask y)) k
          [arg vs 0, arg vs 1, getD (keySide k) false d t]) t) else none))
  | .perm p d a b => some (intOf3 p d [a, b] true permW)
  | _ => none

/-- A row of a division: none where the divisor is 0 (R324). -/
def divRowOf (p : Pfx) (d : BitVec 7) (a b : Src) (f : IntFun) : LaneRow :=
  valueRow .both p (fun sd => [(intOf sd, a), (intOf sd, b)]) (fun _ c => dstOk c.side false d) (fun sd => setD sd false d 0)
    (fun _ k vs t => if intValue (fun _ _ y _ => y) k vs = 0 then none else some (setD (keySide k) false d (intValue f k vs) t))

/-- The divisions (R323, R324, Table 20-1). -/
def divRow : Instr → Option LaneRow
  | .div p d a b => some (divRowOf p d a b (fun w x y _ => BitVec.ofInt w (x.toInt.tdiv y.toInt)))
  | .divN p d a b => some (divRowOf p d a b (fun w x y _ => BitVec.ofNat w (x.toNat / y.toNat)))
  | .rem p d a b => some (divRowOf p d a b (fun w x y _ => BitVec.ofInt w (x.toInt.tmod y.toInt)))
  | .remN p d a b => some (divRowOf p d a b (fun w x y _ => BitVec.ofNat w (x.toNat % y.toNat)))
  | _ => none

/-- A row of an integer comparison (R336). -/
def cmpRowOf (p : Pfx) (d : BitVec 7) (a b : Src) (f : (w : Nat) → BitVec w → BitVec w → Bool) : LaneRow :=
  valueRow .both p (fun sd => [(intOf sd, a), (intOf sd, b)]) (fun _ _ => true) (fun _ t => t.setPred d.toNat false)
    (fun _ k vs t => some (t.setPred d.toNat (match keySide k with
      | .e => f 32 ((arg vs 0).setWidth 32) ((arg vs 1).setWidth 32)
      | .a => f 64 (arg vs 0) (arg vs 1))))

/-- The integer comparisons (R336, Table 20-9). -/
def cmpRow : Instr → Option LaneRow
  | .cmpEq p d a b => some (cmpRowOf p d a b (fun _ x y => decide (x = y)))
  | .cmpNe p d a b => some (cmpRowOf p d a b (fun _ x y => decide (x ≠ y)))
  | .cmpLt p d a b => some (cmpRowOf p d a b (fun _ x y => decide (x.toInt < y.toInt)))
  | .cmpLe p d a b => some (cmpRowOf p d a b (fun _ x y => decide (x.toInt ≤ y.toInt)))
  | .cmpGt p d a b => some (cmpRowOf p d a b (fun _ x y => decide (y.toInt < x.toInt)))
  | .cmpGe p d a b => some (cmpRowOf p d a b (fun _ x y => decide (y.toInt ≤ x.toInt)))
  | .cmpLtn p d a b => some (cmpRowOf p d a b (fun _ x y => decide (x.toNat < y.toNat)))
  | .cmpGen p d a b => some (cmpRowOf p d a b (fun _ x y => decide (y.toNat ≤ x.toNat)))
  | _ => none

/-- A row of a 64-bit instruction of the execute side (R372). -/
def longRowOf (p : Pfx) (d : BitVec 7) (l : List Src) (f : DWord → DWord → DWord) : LaneRow :=
  valueRow .eOnly p (fun _ => l.map (fun x => (.int64, x)))
    (fun s c => dstOk c.side true d && decide (d.toNat + 1 < (s.team c.tm).lim.vregs) && l.all (pairBelow (s.team c.tm).lim.vregs))
    (fun sd => setD sd true d 0) (fun _ _ vs t => some (setD .e true d (f (arg vs 0) (arg vs 1)) t))

/-- The 64-bit execute family (R372). -/
def longRow : Instr → Option LaneRow
  | .addI64 p d a b => some (longRowOf p d [a, b] (fun x y => x + y))
  | .subI64 p d a b => some (longRowOf p d [a, b] (fun x y => x - y))
  | .mulI64 p d a b => some (longRowOf p d [a, b] (fun x y => x * y))
  | .shlI64 p d a b => some (longRowOf p d [a, b] (fun x y => x <<< y.toNat))
  | .shrI64 p d a b => some (longRowOf p d [a, b] (fun x y => x >>> y.toNat))
  | .movI64 p d a => some (longRowOf p d [a] (fun x _ => x))
  | _ => none

/-- A row of a floating instruction of the family of R344: an element operation on each element, with the flags and draws of the
elements in ascending order; a missing c reads −0. -/
def floatRowOf (pk : Bool) (f : Fm) (p : Pfx) (d : BitVec 7) (l : List Src) (useC : Bool) (op : FOp) : LaneRow :=
  valueRow .eOnly p (fun _ => l.map (fun x => (floatTy pk f, x)) ++ (if useC then cList p (floatTy pk f) else []))
    (fun _ c => dstOk c.side (floatTy pk f).wide d && (!useC || p.cOk)) (fun sd => setD sd (floatTy pk f).wide d 0)
    (fun _ _ vs t =>
      let z := if useC && p.cSrc.isSome then (arg vs 2).toNat else 2 ^ (f.width - 1) * (if pk then 65537 else 1)
      let x := applyF pk f op (t.env p.rc) (arg vs 0).toNat (arg vs 1).toNat z
      some (setD .e (floatTy pk f).wide d (BitVec.ofNat 64 x.1) (t.putEnv x.2)))

/-- The floating-point family (R344, R345, Table 20-14). -/
def floatRow : Instr → Option LaneRow
  | .fadd p d a b => some (floatRowOf false .f32 p d [a, b] false opAdd)
  | .fsub p d a b => some (floatRowOf false .f32 p d [a, b] false opSub)
  | .fmul p d a b => some (floatRowOf false .f32 p d [a, b] false opMul)
  | .ffma p d a b => some (floatRowOf false .f32 p d [a, b] true opFma)
  | .fmin p d a b => some (floatRowOf false .f32 p d [a, b] false (opMinMax false))
  | .fmax p d a b => some (floatRowOf false .f32 p d [a, b] false (opMinMax true))
  | .fabs p d a => some (floatRowOf false .f32 p d [a] false (opSign true))
  | .fneg p d a => some (floatRowOf false .f32 p d [a] false (opSign false))
  | .faddF16x2 p d a b => some (floatRowOf true .f16 p d [a, b] false opAdd)
  | .fsubF16x2 p d a b => some (floatRowOf true .f16 p d [a, b] false opSub)
  | .fmulF16x2 p d a b => some (floatRowOf true .f16 p d [a, b] false opMul)
  | .ffmaF16x2 p d a b => some (floatRowOf true .f16 p d [a, b] true opFma)
  | .fminF16x2 p d a b => some (floatRowOf true .f16 p d [a, b] false (opMinMax false))
  | .fmaxF16x2 p d a b => some (floatRowOf true .f16 p d [a, b] false (opMinMax true))
  | .fabsF16x2 p d a => some (floatRowOf true .f16 p d [a] false (opSign true))
  | .fnegF16x2 p d a => some (floatRowOf true .f16 p d [a] false (opSign false))
  | .faddBf16x2 p d a b => some (floatRowOf true .bf16 p d [a, b] false opAdd)
  | .fsubBf16x2 p d a b => some (floatRowOf true .bf16 p d [a, b] false opSub)
  | .fmulBf16x2 p d a b => some (floatRowOf true .bf16 p d [a, b] false opMul)
  | .ffmaBf16x2 p d a b => some (floatRowOf true .bf16 p d [a, b] true opFma)
  | .fminBf16x2 p d a b => some (floatRowOf true .bf16 p d [a, b] false (opMinMax false))
  | .fmaxBf16x2 p d a b => some (floatRowOf true .bf16 p d [a, b] false (opMinMax true))
  | .fabsBf16x2 p d a => some (floatRowOf true .bf16 p d [a] false (opSign true))
  | .fnegBf16x2 p d a => some (floatRowOf true .bf16 p d [a] false (opSign false))
  | .faddF64 p d a b => some (floatRowOf false .f64 p d [a, b] false opAdd)
  | .fsubF64 p d a b => some (floatRowOf false .f64 p d [a, b] false opSub)
  | .fmulF64 p d a b => some (floatRowOf false .f64 p d [a, b] false opMul)
  | .ffmaF64 p d a b => some (floatRowOf false .f64 p d [a, b] true opFma)
  | .fminF64 p d a b => some (floatRowOf false .f64 p d [a, b] false (opMinMax false))
  | .fmaxF64 p d a b => some (floatRowOf false .f64 p d [a, b] false (opMinMax true))
  | .fabsF64 p d a => some (floatRowOf false .f64 p d [a] false (opSign true))
  | .fnegF64 p d a => some (floatRowOf false .f64 p d [a] false (opSign false))
  | _ => none

/-- A row of a floating comparison (R352): NV is set by a signalling NaN, and under `any` by every NaN. -/
def fcmpRowOf (f : Fm) (any : Bool) (p : Pfx) (d : BitVec 7) (a b : Src) (rel : FVal → FVal → Bool) : LaneRow :=
  valueRow .eOnly p (fun _ => [(.flt f, a), (.flt f, b)]) (fun _ _ => true) (fun _ t => t.setPred d.toNat false)
    (fun _ _ vs t =>
      let x := f.input t.mode (arg vs 0).toNat
      let y := f.input t.mode (arg vs 1).toNat
      let nv := x.isSig || y.isSig || (any && (x.isNan || y.isNan))
      some ((t.orFlags (if nv then flNV else 0)).setPred d.toNat (rel x y)))

/-- The floating comparisons (R352, Table 20-19): with a NaN only `ne` and `un` hold. -/
def fcmpRow : Instr → Option LaneRow
  | .fcmpF32Eq p d a b => some (fcmpRowOf .f32 false p d a b (fun x y => fEq x y))
  | .fcmpF32Ne p d a b => some (fcmpRowOf .f32 false p d a b (fun x y => !fEq x y))
  | .fcmpF32Lt p d a b => some (fcmpRowOf .f32 true p d a b (fun x y => ordered x y && vLt false x y))
  | .fcmpF32Le p d a b => some (fcmpRowOf .f32 true p d a b (fun x y => ordered x y && !vLt false y x))
  | .fcmpF32Gt p d a b => some (fcmpRowOf .f32 true p d a b (fun x y => ordered x y && vLt false y x))
  | .fcmpF32Ge p d a b => some (fcmpRowOf .f32 true p d a b (fun x y => ordered x y && !vLt false x y))
  | .fcmpF32Un p d a b => some (fcmpRowOf .f32 false p d a b (fun x y => x.isNan || y.isNan))
  | .fcmpF32Or p d a b => some (fcmpRowOf .f32 false p d a b (fun x y => !x.isNan && !y.isNan))
  | .fcmpF64Eq p d a b => some (fcmpRowOf .f64 false p d a b (fun x y => fEq x y))
  | .fcmpF64Ne p d a b => some (fcmpRowOf .f64 false p d a b (fun x y => !fEq x y))
  | .fcmpF64Lt p d a b => some (fcmpRowOf .f64 true p d a b (fun x y => ordered x y && vLt false x y))
  | .fcmpF64Le p d a b => some (fcmpRowOf .f64 true p d a b (fun x y => ordered x y && !vLt false y x))
  | .fcmpF64Gt p d a b => some (fcmpRowOf .f64 true p d a b (fun x y => ordered x y && vLt false y x))
  | .fcmpF64Ge p d a b => some (fcmpRowOf .f64 true p d a b (fun x y => ordered x y && !vLt false x y))
  | .fcmpF64Un p d a b => some (fcmpRowOf .f64 false p d a b (fun x y => x.isNan || y.isNan))
  | .fcmpF64Or p d a b => some (fcmpRowOf .f64 false p d a b (fun x y => !x.isNan && !y.isNan))
  | _ => none

/-- A row of an instruction on one f32 source whose element function is given. -/
def f32RowOf (p : Pfx) (d : BitVec 7) (a : Src) (f : Env → Nat → Nat × Env) : LaneRow :=
  valueRow .eOnly p (fun _ => [(.flt .f32, a)]) (fun _ c => dstOk c.side false d) (fun sd => setD sd false d 0)
    (fun _ _ vs t => let x := f (t.env p.rc) (arg vs 0).toNat
      some (setD .e false d (BitVec.ofNat 64 x.1) (t.putEnv x.2)))

/-- The special functions and the other instructions of M 17 and M 18 (R351, R353 to R356, R358, R360, R361). -/
def specialRow : Instr → Option LaneRow
  | .frcp p d a => some (f32RowOf p d a frcpF)
  | .frsq p d a => some (f32RowOf p d a frsqF)
  | .fsqrt p d a => some (f32RowOf p d a fsqrtF)
  | .fexp2 p d a => some (f32RowOf p d a fexp2F)
  | .flog2 p d a => some (f32RowOf p d a flog2F)
  | .fdiv p d a b => some (floatRowOf false .f32 p d [a, b] false (fun _ e x y _ => fdivF e x y))
  | .frnd p d a => some (f32RowOf p d a frndF)
  | .fclass p d a b => some (valueRow .eOnly p (fun _ => [(.flt .f32, a), (.int32, b)]) (fun _ _ => true)
      (fun _ t => t.setPred d.toNat false)
      (fun _ _ vs t => some (t.setPred d.toNat ((arg vs 1).getLsbD (classOf (arg vs 0).toNat)))))
  | .fflag p d b => some (valueRow .eOnly p (fun _ => [(.int32, b)]) (fun _ c => dstOk c.side false d) (fun sd => setD sd false d 0)
      (fun _ _ vs t => some { setD .e false d (t.flags.setWidth 64) t with flags := t.flags &&& ~~~((arg vs 0).setWidth 5) }))
  | .fscl p d a b => some (valueRow .eOnly p (fun _ => [(.flt .f32, a), (.int32, b)]) (fun _ c => dstOk c.side false d)
      (fun sd => setD sd false d 0)
      (fun _ _ vs t => let x := fsclF (t.env p.rc) (arg vs 0).toNat ((arg vs 1).setWidth 32)
        some (setD .e false d (BitVec.ofNat 64 x.1) (t.putEnv x.2))))
  | .fdot2 p d a b => some (fdotRow 2 p d a b)
  | .fdot4 p d a b => some (fdotRow 4 p d a b)
  | .fdot8 p d a b => some (fdotRow 8 p d a b)
  | _ => none
where
  fdotRow (n : Nat) (p : Pfx) (d : BitVec 7) (a b : Src) : LaneRow :=
    valueRow .eOnly p (fun _ => [(.int32, a), (.int32, b)]) (fun _ _ => p.vx.isSome && fdotCode n p.cByte) (fun sd => setD sd false d 0)
      (fun _ _ vs t =>
        let x := fdotF n ((narrowFm p.cByte).getD .f16) (t.env p.rc) (arg vs 0).toNat (arg vs 1).toNat (t.getV d.toNat).toNat
        if sound t [d.toNat] then some (setD .e false d (BitVec.ofNat 64 x.1) (t.putEnv x.2)) else none)

/-- A register range of n registers from the v register that A names lies in the file and below `.vregs` (R341, R374). -/
def rangeFrom (v : Nat) (a : Src) (n : Nat) : Bool := match vOf a with | some r => rangeOk v r n | none => false

/-- The v registers from the one that A names, if they hold sound words. -/
def regsFrom (t : Thread) (a : Src) (n : Nat) : Option (List Nat) :=
  if sound t (numbers ((vOf a).getD 0) n) then some (getVs t ((vOf a).getD 0) n) else none

/-- The conversions (R339 to R342, R374, R375): none where the policy of an element is a fault. -/
def convRow : Instr → Option LaneRow
  | .cvt p rc d a ty =>
    let dst := (ty.extractLsb' 4 4).toNat
    let src := (ty.extractLsb' 0 4).toNat
    some (valueRow .both p (fun sd => [(cvtTy sd src, a)]) (fun _ c => cvtOk c.side dst src && dstOk c.side (cvtWide dst) d)
      (fun sd => setD sd (cvtWide dst) d 0)
      (fun _ k vs t => (cvtVal dst src p.cByte (t.env rc.toNat) (arg vs 0).toNat).map
        (fun x => setD (keySide k) (cvtWide dst) d (extendInt dst x.1) (t.putEnv x.2))))
  | .cvtnPk p d a fmt => some (valueRow .eOnly p (fun _ => [])
      (fun s c => pkCode fmt && rangeFrom (s.team c.tm).lim.vregs a (32 / codeWidth fmt) && rangeOk (s.team c.tm).lim.vregs d.toNat 1)
      (fun _ t => setVs t d.toNat [0])
      (fun _ _ _ t => ((regsFrom t a (32 / codeWidth fmt)).bind (packAll fmt p.cByte (t.env p.rc))).map
        (fun x => setVs (t.putEnv x.2) d.toNat [joinElems (codeWidth fmt) x.1])))
  | .cvtnUp p d a fmt => some (valueRow .eOnly p (fun _ => [(.int32, a)])
      (fun s c => pkCode fmt && rangeOk (s.team c.tm).lim.vregs d.toNat (32 / codeWidth fmt))
      (fun _ t => setVs t d.toNat (List.replicate (32 / codeWidth fmt) 0))
      (fun _ _ vs t =>
        let x := unpackAll fmt (t.env 0) ((List.range (32 / codeWidth fmt)).map (fun i => elemOf (codeWidth fmt) i (arg vs 0).toNat))
        some (setVs (t.putEnv x.2) d.toNat x.1)))
  | .cvtnPk6 p d a fmt => some (valueRow .eOnly p (fun _ => [])
      (fun s c => sixCode fmt && rangeFrom (s.team c.tm).lim.vregs a 16 && rangeOk (s.team c.tm).lim.vregs d.toNat 3)
      (fun _ t => setVs t d.toNat [0, 0, 0])
      (fun _ _ _ t => ((regsFrom t a 16).bind (packAll fmt p.cByte (t.env p.rc))).map
        (fun x => setVs (t.putEnv x.2) d.toNat
          [joinElems 4 ((x.1.take 8).map (· / 4)), joinElems 4 ((x.1.drop 8).map (· / 4)), joinElems 2 (x.1.map (· % 4))])))
  | .cvtnUp6 p d a fmt => some (valueRow .eOnly p (fun _ => [])
      (fun s c => sixCode fmt && rangeFrom (s.team c.tm).lim.vregs a 3 && rangeOk (s.team c.tm).lim.vregs d.toNat 16)
      (fun _ t => setVs t d.toNat (List.replicate 16 0))
      (fun _ _ _ t => (regsFrom t a 3).map (fun ws =>
        let x := unpackAll fmt (t.env 0)
          ((List.range 16).map (fun i => elemOf 4 (i % 8) (ws.getD (i / 8) 0) * 4 + elemOf 2 i (ws.getD 2 0)))
        setVs (t.putEnv x.2) d.toNat x.1)))
  | .mxscale p d a fmt => some (valueRow .eOnly p (fun _ => [])
      (fun s c => decide (0x20 ≤ fmt.toNat) && decide (fmt.toNat ≤ 0x24) && d.toNat % 2 == 0 && rangeOk (s.team c.tm).lim.vregs d.toNat 2 &&
        rangeFrom (s.team c.tm).lim.vregs a 32)
      (fun _ t => setVs t d.toNat [0, 0])
      (fun _ _ _ t => (regsFrom t a 32).bind fun rs =>
        let ys := rs.map (Fm.f32.input t.mode)
        let zs := ys.map (blockVal p.cByte)
        if zs.contains none then none
        else if zs.contains (some none) then some (setVs (t.orFlags (blockFlags ys)) d.toNat [0xFF, Fm.f32.nan])
        else
          let x := scaleOf fmt (zs.map (fun z => (z.getD none).getD (.fin false 0 0)))
          some (setVs (t.orFlags (blockFlags ys)) d.toNat [(x + 127).toNat, (Fm.f32.round 0 false 1 (-x) 0).code])))
  | _ => none

/-- A row of a logical instruction on predicates (R378). -/
def plogRowOf (p : Pfx) (d : BitVec 7) (f : Thread → Bool) : LaneRow :=
  valueRow .both p (fun _ => []) (fun _ _ => true) (fun _ t => t.setPred d.toNat false) (fun _ _ _ t => some (t.setPred d.toNat (f t)))

/-- The predicate instructions but `ballot` (R378, Table 22-9), and `tstamp` (R402). -/
def predRow : Instr → Option LaneRow
  | .plogAnd p d a b => some (plogRowOf p d (fun t => rawPred t a && rawPred t b))
  | .plogOr p d a b => some (plogRowOf p d (fun t => rawPred t a || rawPred t b))
  | .plogXor p d a b => some (plogRowOf p d (fun t => rawPred t a != rawPred t b))
  | .plogAndn p d a b => some (plogRowOf p d (fun t => rawPred t a && !rawPred t b))
  | .pmov p d a => some (plogRowOf p d (fun t => rawPred t a))
  | .pset p d b => some (valueRow .both p (fun sd => [(intOf sd, b)]) (fun _ _ => d.toNat % 8 == 0) (fun _ t => setPreds t d.toNat 8 0)
      (fun _ _ vs t => some (setPreds t d.toNat 8 (arg vs 0))))
  | .tstamp p d => some (valueRow .both p (fun _ => []) (fun _ c => dstOk c.side true d) (fun sd => setD sd true d 0)
      (fun s k _ t => some (setD (keySide k) true d s.gtc t)))
  | _ => none

/-- A row of a push from the execute side (R390). -/
def sendRowOf (p : Pfx) (d : BitVec 7) (a : Src) (push : Pair → Word → Bool → Clock → Try Pair) : LaneRow :=
  { need := .eOnly, priv := false, p := p, ok := fun s c => srcsOk s c [(.int32, a)] && decide (d.toNat < 4), z := fun _ => id,
    f := fun s _ k => sendTry a push s k }

/-- A row of a status word (R109, R380). -/
def qstatRowOf (need : SideReq) (p : Pfx) (d : BitVec 7) (q : BitVec 4) : LaneRow :=
  { need := need, priv := false, p := p, ok := fun s c => queueOk s c q && dstOk c.side false d, z := fun sd => setD sd false d 0,
    f := fun s c k =>
      let w := ((s.pair (pairOf k)).queue q.toNat).status (s.team c.tm).lim.depth (s.partnerGone k)
      .ok { th := setD c.side false d (ofWord w) (s.thr k), p := s.pair (pairOf k) } }

/-- The queue and stream instructions that act on one thread's queues (R102, R103, R109, R348, R349, R357, R390, R397). -/
def queueRow : Instr → Option LaneRow
  | .sdq p d a => some (sendRowOf p d a (fun q w g c => q.pushStore d.toNat w g c))
  | .sendx p d a => some (sendRowOf p d a (fun q w g c => q.pushRet d.toNat w g c))
  | .qstatE p d q => some (qstatRowOf .eOnly p d q)
  | .qstatA p d q => some (qstatRowOf .aOnly p d q)
  | .qend p d q => some
      { need := .eOnly, priv := false, p := p, ok := fun s c => queueOk s c q, z := fun _ t => t.setPred d.toNat false,
        f := fun s _ k => .ok { th := (s.thr k).setPred d.toNat ((s.pair (pairOf k)).queue q.toNat).endSeen, p := s.pair (pairOf k) } }
  | .feed p d a => some (feedRowOf false p d a)
  | .feedEnd p d a => some (feedRowOf true p d a)
  | .recvx p d q => some
      { need := .aOnly, priv := false, p := p, ok := fun _ c => dstOk c.side false d, z := fun _ => setD .a false d 0,
        f := fun s _ k => recvxTry d q s k }
  | .fadv p d q b => some
      { need := .aOnly, priv := false, p := p,
        ok := fun s c => srcsOk s c [(.int64, b)] && dstOk c.side false d && queueOk s c q, z := fun _ => id,
        f := fun s _ k => fadvTry d q b s k }
  | .fend p q => some
      { need := .aOnly, priv := false, p := p, ok := fun s c => queueOk s c q, z := fun _ => id,
        f := fun s _ k =>
          let x := s.pair (pairOf k)
          .ok { th := s.thr k, p := x.setQ q.toNat { x.queue q.toNat with stream := (x.queue q.toNat).stream.map (fun y => { y with rem := 0 }) } } }
  | .fclose p q => some
      { need := .aOnly, priv := false, p := p, ok := fun s c => queueOk s c q, z := fun _ => id,
        f := fun s _ k => tryThen (s.closeTry k q.toNat) fun _ =>
          let x := s.pair (pairOf k)
          .ok { th := s.thr k, p := x.setQ q.toNat { x.queue q.toNat with stream := none } } }
  | _ => none
where
  feedRowOf (tag : Bool) (p : Pfx) (d : BitVec 7) (a : Src) : LaneRow :=
    { need := .aOnly, priv := false, p := p,
      ok := fun s c => srcsOk s c [(.int64, a)] && decide (d.toNat < 16) && decide (d.toNat < s.nq c.tm), z := fun _ => id,
      f := fun s _ k => feedTry tag d a s k }

/-- Fences, `tchk` and `rdsr` of a register that the thread may read (R139, R287, R382 to R385, R399). -/
def plainRow : Instr → Option LaneRow
  | .fence p => some
      { need := .aOnly, priv := false, p := p, ok := fun _ _ => true, z := fun _ => id,
        f := fun s _ k => tryThen ((s.thr k).fenceTry (match p.mxa with | some m => m.order | none => ordSc)
          (match p.mxa with | some m => m.obs | none => allClasses)) fun _ => .ok (s.lane k) }
  | .nfence p => some { need := .aOnly, priv := false, p := p, ok := fun _ _ => true, z := fun _ => id, f := fun s _ k => nfenceTry s k }
  | .tchk p d t => some
      { need := .aOnly, priv := false, p := p, ok := fun s c => tileOk s c t, z := fun _ th => th.setPred d.toNat false,
        f := fun s c k =>
          let own := !(s.team c.tm).owner.getLsbD t.toNat
          let clk := if own then clkJoin (s.thr k).clk (kgetD (s.team c.tm).flips t.toNat []) else (s.thr k).clk
          .ok { th := { s.thr k with clk := clk }.setPred d.toNat own, p := s.pair (pairOf k) } }
  | .rdsr p d n =>
    if srReadEcide n.toNat then none
    else some
      { need := .both, priv := srReadPriv n.toNat, p := p,
        ok := fun s c => dstOk c.side true d && (s.readSr (tkey c.tm c.side 0) n.toNat).isSome, z := fun sd => setD sd true d 0,
        f := fun s c k => .ok { th := setD c.side true d ((s.readSr k n.toNat).getD 0) (s.thr k), p := s.pair (pairOf k) } }
  | _ => none

/-- What an instruction needs and does whose threads act on the shared state in ascending lane: `pre` is what each thread is checked
for before any of them acts, `f` is a thread's step. -/
structure SeqRow where
  need : SideReq
  priv : Bool
  p : Pfx
  ok : State → Cur → Bool
  z : Side → Thread → Thread
  pre : State → Nat → Try Unit
  f : Cur → State → Nat → Try State

/-- An instruction completes as its row says: where every thread passes the checks made before any step, and every step succeeds in
its turn, the state is the one after the last step, and then the group's threads have completed the instruction and moved on (R89,
R134, R188, R405). -/
def SeqRow.Holds (i : Instr) (r : SeqRow) : Prop :=
  ∀ (s : State) (c : Cur) (act : List Nat) (s' : State), Issues s c act r.need r.priv r.p → Falls s c → r.ok s c = true →
    (∀ u ∈ act, r.pre s (c.key u) = .ok ()) → inOrder c (r.f c) act s = some s' →
    ∃ t, exec i s = .next t ∧ FramePairs s' t ∧ MovesOn s' t c ∧
      (∀ u ∈ (s'.grp c.gid).members, t.thr (c.key u) = doneThread (s'.grp c.gid).priv
        (if r.p.zeroes = true ∧ u ∉ act then r.z c.side (s'.thr (c.key u)) else s'.thr (c.key u))) ∧
      (∀ k, Outside s' c k → t.thr k = s'.thr k)

/-- Nothing is checked before the steps. -/
def noPre (_ : State) (_ : Nat) : Try Unit := .ok ()

/-- A row of an instruction that reads sources and then acts on what its team shares. -/
def sharedRow (need : SideReq) (priv : Bool) (p : Pfx) (srcs : Side → List (OTy × Src)) (ok : State → Cur → Bool)
    (z : Side → Thread → Thread) (f : State → Nat → List DWord → Try State) : SeqRow :=
  { need := need, priv := priv, p := p, ok := fun s c => srcsOk s c (srcs c.side) && ok s c, z := z, pre := noPre,
    f := fun c s k => readThen (srcs c.side) f s k }

/-- A row of `tatom` (R396, R397). -/
def tatomRowOf (p : Pfx) (d : BitVec 7) (tr : BitVec 4) (b : Src) (useC : Bool) (f : DWord → DWord → DWord → DWord) : SeqRow :=
  sharedRow .both false p (fun sd => (intOf sd, b) :: (if useC then cList p (intOf sd) else []))
    (fun _ c => dstOk c.side false d && (!useC || p.cOk)) (fun sd => setD sd false d 0) (tatomStep d tr f)

/-- The instructions on registers that a team shares (R392, R396, R397). -/
def teamRow : Instr → Option SeqRow
  | .smov p d a => some (sharedRow .both false p (fun sd => [(intOf sd, a)]) (fun _ _ => sDst d) (fun _ => id) (smovStep d))
  | .smovHi p d a => some (sharedRow .both false p (fun _ => [(.int32, a)]) (fun _ c => sDst d && c.side == .e) (fun _ => id) (smovHiStep d))
  | .tatomWr p d tr b => some (tatomRowOf p d tr b false (fun _ x _ => x))
  | .tatomAdd p d tr b => some (tatomRowOf p d tr b false (fun o x _ => o + x))
  | .tatomMax p d tr b => some (tatomRowOf p d tr b false (fun o x _ => if x.toInt ≤ o.toInt then o else x))
  | .tatomCas p d tr b => some (tatomRowOf p d tr b true (fun o x y => if o = y then x else o))
  | _ => none

/-- A row of an access-side instruction without a step before. -/
def memRow (p : Pfx) (ok : State → Cur → Bool) (z : Thread → Thread) (f : State → Nat → Try State) : SeqRow :=
  { need := .aOnly, priv := false, p := p, ok := ok, z := fun _ => z, pre := noPre, f := fun _ => f }

/-- Loads into x registers: bytes and whether the value is sign-extended (R362, Table 21-4). -/
def loadRow : Instr → Option SeqRow
  | .ldI8 p d a b => some (row 1 true p d a b)
  | .ldN8 p d a b => some (row 1 false p d a b)
  | .ldI16 p d a b => some (row 2 true p d a b)
  | .ldN16 p d a b => some (row 2 false p d a b)
  | .ldI32 p d a b => some (row 4 true p d a b)
  | .ldN32 p d a b => some (row 4 false p d a b)
  | .ldB64 p d a b => some (row 8 false p d a b)
  | _ => none
where
  row (n : Nat) (sg : Bool) (p : Pfx) (d : BitVec 7) (a b : Src) : SeqRow :=
    memRow p (fun _ _ => addrOk a b && xOk d) (fun t => t.setX d.toNat 0) (loadTry n sg p d a b)

/-- Stores, and stores of data from a store-data queue: bytes (R393 to R395, Table 23-6). -/
def storeRow : Instr → Option SeqRow
  | .stB8 p d a b => some (st 1 p d a b)
  | .stB16 p d a b => some (st 2 p d a b)
  | .stB32 p d a b => some (st 4 p d a b)
  | .stB64 p d a b => some (st 8 p d a b)
  | .staB8 p d a b => some (sta 1 p d a b)
  | .staB16 p d a b => some (sta 2 p d a b)
  | .staB32 p d a b => some (sta 4 p d a b)
  | .staB64 p d a b => some (sta 8 p d a b)
  | _ => none
where
  st (n : Nat) (p : Pfx) (d : BitVec 7) (a b : Src) : SeqRow :=
    memRow p (fun _ _ => addrOk a b && xOk d) id (storeTry n p d a b)
  sta (n : Nat) (p : Pfx) (d : BitVec 7) (a b : Src) : SeqRow :=
    memRow p (fun _ _ => addrOk a b && decide (d.toNat < 4)) id (staTry n p d a b)

/-- A row of an atomic (R327 to R329, R405). -/
def atomRowOf (p : Pfx) (w : Bool) (d : BitVec 5) (a b : Src) (pair sg : Bool) (f : Thread → Nat → Nat) : SeqRow :=
  { need := .aOnly, priv := false, p := p, ok := fun _ _ => addrOk a b && (!pair || d.toNat % 2 == 0), z := fun _ t => t.setX d.toNat 0,
    pre := atomPre p w a b (d.toNat :: if pair then [d.toNat + 1] else []), f := fun _ => atomTry p w d a b sg f }

/-- The signed reading of the operand of an atomic. -/
def atomInt (w : Bool) (n : Nat) : Int := if w then (BitVec.ofNat 64 n).toInt else (BitVec.ofNat 32 n).toInt

/-- The atomics: the new value of memory from the old value m and x(D) (Table 20-5). -/
def atomRow : Instr → Option SeqRow
  | .atomAdd p w d a b => some (atomRowOf p w d a b false false (fun t m => (m + atomArg w d t) % 2 ^ (8 * atomBytes w)))
  | .atomMin p w d a b => some (atomRowOf p w d a b false true (fun t m => if atomInt w m < atomInt w (atomArg w d t) then m else atomArg w d t))
  | .atomMinN p w d a b => some (atomRowOf p w d a b false false (fun t m => if m < atomArg w d t then m else atomArg w d t))
  | .atomMax p w d a b => some (atomRowOf p w d a b false true (fun t m => if atomInt w m < atomInt w (atomArg w d t) then atomArg w d t else m))
  | .atomMaxN p w d a b => some (atomRowOf p w d a b false false (fun t m => if m < atomArg w d t then atomArg w d t else m))
  | .atomAnd p w d a b => some (atomRowOf p w d a b false false (fun t m => m &&& atomArg w d t))
  | .atomOr p w d a b => some (atomRowOf p w d a b false false (fun t m => m ||| atomArg w d t))
  | .atomXor p w d a b => some (atomRowOf p w d a b false false (fun t m => m ^^^ atomArg w d t))
  | .atomXchg p w d a b => some (atomRowOf p w d a b false false (fun t _ => atomArg w d t))
  | .cas p w d a b => some (atomRowOf p w d a b true false
      (fun t m => if m = atomArg w d t then (t.getX (d.toNat + 1)).toNat % 2 ^ (8 * atomBytes w) else m))
  | _ => none

/-- The commutative updates (R337, R338), `pref` (R379) and `fopen` (R346). -/
def updateRow : Instr → Option SeqRow
  | .credAddI32 p d a b => some (cred 0 p d a b)
  | .credAddF32 p d a b => some (cred 1 p d a b)
  | .credMinI32 p d a b => some (cred 2 p d a b)
  | .credMaxI32 p d a b => some (cred 3 p d a b)
  | .credOrB32 p d a b => some (cred 4 p d a b)
  | .credAddI64 p d a b => some (cred 5 p d a b)
  | .credMaxF32 p d a b => some (cred 6 p d a b)
  | .pref p a b => some (memRow p (fun _ _ => addrOk a b) id (prefTry p a b))
  | .fopen p d a b => some (memRow p (fun s c => addrOk a b && decide (d.toNat < 16) && decide (d.toNat < s.nq c.tm)) id (fopenTry p d a b))
  | _ => none
where
  cred (form : Nat) (p : Pfx) (d : BitVec 7) (a b : Src) : SeqRow :=
    memRow p (fun _ _ => addrOk a b && xOk d) id (credTry form p d a b)

/-- A row of an instruction that takes its steps at a home agent (R405). -/
def homeRow {α : Type} (p : Pfx) (srcs : List (OTy × Src)) (ok : State → Cur → Bool) (z : Thread → Thread)
    (check : State → Nat → List DWord → Try α) (f : State → Nat → List DWord → α → Try State) : SeqRow :=
  { need := .aOnly, priv := false, p := p, ok := fun s c => srcsOk s c srcs && ok s c, z := fun _ => z, pre := homePre srcs check,
    f := fun _ => homeTry srcs check f }

/-- A row of a ring instruction. -/
def ringRow (p : Pfx) (b : Src) (slot : Option Src) (ok : Bool) (z : Thread → Thread) (f : State → Nat → Nat → Ring → Nat → Try State) : SeqRow :=
  homeRow p [(.int64, b)] (fun _ _ => ok && (match slot with | some a => recOk a | none => true)) z (ringCheck p slot)
    (ringStep slot f)

/-- A row of a directory instruction. -/
def kvRow (p : Pfx) (d : BitVec 7) (srcs : List (OTy × Src)) (ok : Bool) (named : State → Nat → List DWord → Try Unit)
    (f : State → Nat → List DWord → Try (DWord × State)) : SeqRow :=
  homeRow p srcs (fun _ _ => xOk d && ok) (fun t => t.setX d.toNat 0) (kvCheck p named) (kvStep d f)

/-- A row of an mb instruction (R271, R368). -/
def mbRow (p : Pfx) (d : Option (BitVec 7)) (a b : Src) (write : Bool) (first : State → Nat → DWord → Try Unit)
    (pre : State → Nat → Try Unit) (f : State → Nat → Res → Try State) : SeqRow :=
  { need := .aOnly, priv := false, p := p, ok := fun _ _ => addrOk a b && d.all xOk, z := fun _ => id,
    pre := mbPre (d.toList.map BitVec.toNat) first a b write pre, f := fun _ => mbStepTry a b write f }

/-- Top-k records, rings, the key-value directory and `kvq`, mb objects and `xform` (chapters 13 to 18). -/
def unitRow : Instr → Option SeqRow
  | .kins p d a b => some (homeRow p [(.int64, b)] (fun _ _ => recOk a && d.toNat < 16 && 1 ≤ d.toNat % 16 && d.toNat % 16 ≤ 8) id
      (kinsCheck p a) (kinsStep p (d.toNat % 16)))
  | .kget p d a b => some (homeRow p [(.int64, b)] (fun _ _ => recOk a && xOk d) (fun t => t.setX d.toNat 0) (kgetCheck p a) (kgetStep p d))
  | .ringClaim p d b => some (ringRow p b none (xOk d) (fun t => t.setX d.toNat 0) (claimStep d))
  | .ringPost p a b => some (ringRow p b (some a) true id postStep)
  | .ringTake p d b => some (ringRow p b none (xOk d) (fun t => t.setX d.toNat 0) (takeStep d))
  | .ringFree p a b => some (ringRow p b (some a) true id freeStep)
  | .kvlk p d a => some (kvRow p d [] (keyOk a) (fun s k _ => keySound a s k) (kvlkFind p a))
  | .kvins p d a b => some (kvRow p d [(.int64, b)] (keyOk a && recOk b)
      (fun s k vs => tryThen (keySound a s k) fun _ => s.descPlace k (arg vs 0) false) (kvinsStep p a))
  | .kvdel p d a => some (kvRow p d [] (keyOk a) (fun s k _ => keySound a s k) (kvdelStep p a))
  | .kvref p d a b => some (kvRow p d [(.int64, b)] (keyOk a && addrOk (.reg 0) b) (fun s k _ => keySound a s k)
      (kvrefStep p a))
  | .kvpos p d a b => some (kvRow p d [(.int64, b)] (addrOk a b)
      (fun s k _ => tryThen (s.soundOps k [a]) fun _ => s.descPlace k (s.plainA k a) true) (kvposStep p a))
  | .kvq p d a b => some (memRow p (fun s c => recOk a && recOk b && decide (d.toNat < 64) && decide (d.toNat < (s.team c.tm).lim.tiles)) id
      (kvqStep d a b))
  | .mbinit p d a b => some (mbRow p (some d) a b true mbNone (mbinitPre d) (mbinitStep d))
  | .mbexp p d a b => some (mbRow p (some d) a b true mbNone mbFine (mbexpStep d))
  | .mbarr p a b => some (mbRow p none a b true mbNone mbFine mbarrStep)
  | .mbwait p d a b => some (mbRow p (some d) a b false mbwaitFirst mbFine (mbwaitStep d))
  | .xform p d a b => some (memRow p (fun _ _ => addrOk a b && xOk d) id (xformTry d a b))
  | _ => none

/-- `mcv`, `tenq`, `vabort`, `wrsr` of a register that privileged code may write, and `tlbi` (R222, R382 to R385, R400 to R403). -/
def systemRow : Instr → Option SeqRow
  | .mcv p d a => some
      { need := .eOnly, priv := false, p := p, ok := fun s c => srcsOk s c [(.int32, a)] && decide (d.toNat < 8),
        z := fun _ => id, pre := noPre, f := fun _ => mcvTry d a }
  | .tenq p a => some { need := .both, priv := false, p := p, ok := fun _ c => tcbSrc c.side a, z := fun _ => id, pre := noPre, f := fun _ => tenqTry a }
  | .vabort p d a => some
      { need := .both, priv := false, p := p, ok := fun _ c => (tcbSrc c.side a || a == .zero) && dstOk c.side false d,
        z := fun _ => id, pre := fun s k => s.abortPre a k, f := fun _ => abortTry d a }
  | .wrsr p n a =>
    if srWriteEcide n.toNat then none
    else some
      { need := .both, priv := true, p := p, ok := fun s c => srcsOk s c [(.int64, a)] && srWritable n.toNat, z := fun _ => id,
        pre := noPre, f := fun _ => wrsrTry n.toNat a }
  | .tlbi p a => some { need := .both, priv := true, p := p, ok := fun _ c => tcbSrc c.side a, z := fun _ => id, pre := noPre, f := fun _ => tlbiTry a }
  | .tlbiAll p => some { need := .both, priv := true, p := p, ok := fun _ _ => true, z := fun _ => id, pre := noPre, f := fun _ => tlbiAllTry }
  | _ => none

/-- Every byte of memory reads as before. -/
def SameMem (s t : State) : Prop := ∀ l, t.readM l = s.readM l

/-- A place that stands for one byte: an offset of a scratchpad lies within it. -/
def Proper (l : Loc) : Prop := ∀ tm off, l = .scratch tm off → off < 2 ^ 20

/-- The n bytes from a place on exist: those of a scratchpad lie within it, and its team is there. -/
def Whole (s : State) (l : Loc) (n : Nat) : Prop := ∀ tm off, l = .scratch tm off → (kget s.teams tm).isSome ∧ off + n ≤ 2 ^ 20

/-- The bytes from a place on have become `new`, and every other byte reads as before. -/
def Replaced (s t : State) (l : Loc) (new : List Byte) : Prop :=
  (∀ j, j < new.length → t.readM (l.plus j) = new.getD j 0) ∧
    ∀ m : Loc, Proper m → (∀ j, j < new.length → m.key ≠ (l.plus j).key) → t.readM m = s.readM m

/-- No update-only partial is owed to the page-table lines that a translation was read from (R126). -/
def WalkClear (s : State) (r : Res) : Prop :=
  ∀ e, r.ent = some e → s.owesMerge ((s.walkCells e.va walkPlan (s.root e.part)).flatMap (fun c => (Loc.hbm c).words 8)) = false

/-- An access of n bytes finds them as memory holds them: no partial is owed to their lines or to their translation's. -/
def Quiet (s : State) (r : Res) (n : Nat) : Prop := WalkClear s r ∧ s.owesMerge (r.loc.words n) = false

/-- Of the x registers of a thread only x(d) has changed, to v. -/
def GivesX (s t : State) (k : Nat) (d : BitVec 7) (v : DWord) : Prop :=
  (t.thr k).getX d.toNat = v ∧ ∀ m, m ≠ d.toNat → (t.thr k).getX m = (s.thr k).getX m

/-- What a form of `cred` makes of the partial of a word, if there is one, and an operand (Table 20-10): f32 sums are rounded to nearest
even into fx40. -/
def credValue (form : Nat) (old : Option DWord) (v : DWord) : DWord :=
  let w := v.setWidth 32
  match form, old with
  | 0, _ => (((old.getD 0).setWidth 32) + w).setWidth 64
  | 1, _ => let x := vAdd 0 (Fm.fx40.decode (old.getD 0x8000000000).toNat) (Fm.f32.decode w.toNat)
            BitVec.ofNat 64 (Fm.fx40.deliverV 0 0 x.1 x.2 0).1
  | 2, none => w.setWidth 64
  | 2, some o => (if w.toInt < (o.setWidth 32).toInt then w else o.setWidth 32).setWidth 64
  | 3, none => w.setWidth 64
  | 3, some o => (if (o.setWidth 32).toInt < w.toInt then w else o.setWidth 32).setWidth 64
  | 4, _ => old.getD 0 ||| w.setWidth 64
  | 5, _ => old.getD 0 + v
  | _, _ => let a := (old.getD 0x7FC0000000).toNat
            let b := f32ToFx w.toNat
            BitVec.ofNat 64 (Fm.fx40.minMax true a b (Fm.fx40.decode a) (Fm.fx40.decode b))

/-- What a `cred` outside the scratchpad leaves (R126, R337): the partial of its word on its core, combined as Table 20-10 says; every
other partial there and every byte of memory as before. A partial of a word form lies below 2^32. -/
def CredLeaves : Prop :=
  ∀ (form : Nat) (p : Pfx) (d : BitVec 7) (a b : Src) (s t : State) (k : Nat) (r : Res), form ≤ 6 →
    s.resolve (keyTm k) (s.addr k a b) = some r → (∀ tm off, r.loc ≠ .scratch tm off) → WalkClear s r →
    credTry form p d a b s k = .ok t →
    let core := s.coreOf (keyTm k)
    let old := kget (s.core core).upd r.loc.wkey
    (s.core core).otherForm r.loc.wkey form = [] → (form ≠ 5 → ∀ x, old = some x → x.val.toNat < 2 ^ 40) →
    (form ∈ [0, 2, 3, 4] → ∀ x, old = some x → x.val.toNat < 2 ^ 32) →
    ∃ q, kget (t.core core).upd r.loc.wkey = some q ∧ q.form = form ∧
      q.val = credValue form (old.map (·.val)) ((s.thr k).getX d.toNat) ∧ s.taskOf k ∈ q.tasks ∧
      (∀ n, n ≠ r.loc.wkey → kget (t.core core).upd n = kget (s.core core).upd n) ∧ SameMem s t

/-- What `fopen` leaves (R346, Table 20-17): its queue has the stream that the record's two dwords describe, and every other queue is as
before. -/
def FopenLeaves : Prop :=
  ∀ (p : Pfx) (d : BitVec 7) (a b : Src) (s t : State) (k : Nat) (r : Res), s.resolve (keyTm k) (s.addr k a b) = some r → Quiet s r 16 →
    fopenTry p d a b s k = .ok t →
    let bs := s.loadBytes k r.loc 16
    let w0 := BitVec.ofNat 64 (leNat (bs.take 8))
    let w1 := BitVec.ofNat 64 (leNat (bs.drop 8))
    let o := s.pair (pairOf k)
    t.pair (pairOf k) = o.setQ d.toNat { o.queue d.toNat with
      stream := some { addr := w0, stride := (w1.extractLsb' 32 16).signExtend 64, esz := w1.extractLsb' 48 2,
                       rem := (w1.extractLsb' 0 32).toNat, tail := w1.getLsbD 50, order := p.order, mask := p.obs, stopped := false } } ∧
      w1.extractLsb' 0 32 ≠ 0 ∧ w1.extractLsb' 51 13 = 0 ∧ ∀ n, n ≠ pairOf k → t.pair n = s.pair n

/-- What `pref` leaves (R379): it raises nothing, whatever its address, and changes no thread, queue, group or team and no byte of memory. -/
def PrefLeaves : Prop :=
  ∀ (p : Pfx) (a b : Src) (s : State) (k : Nat),
    (∀ c v, prefTry p a b s k ≠ .trap c v) ∧ (∀ v e w, prefTry p a b s k ≠ .raced v e w) ∧
      (p.order ≠ ordSc → ∃ t, prefTry p a b s k = .ok t) ∧
      ∀ t, prefTry p a b s k = .ok t → (∀ r, s.resolve (keyTm k) (s.addr k a b) = some r → WalkClear s r) →
        t.threads = s.threads ∧ t.pairs = s.pairs ∧ t.groups = s.groups ∧ t.teams = s.teams ∧ SameMem s t

/-- A pair of a record that is not empty and whose score is no NaN (R299, R301). -/
def InRecord (bs : List Byte) (x : Scored) : Prop :=
  ∃ e, e < 8 ∧ leNat ((bs.drop (8 * e)).take 4) = x.2 ∧ leNat ((bs.drop (8 * e + 4)).take 4) = x.1 ∧ x.2 ≠ 0xFFFFFFFF ∧ isNan32 x.1 = false

/-- A member of the set S of R301 once the pair (sc, ix) has been taken into it: the greater score stays with the index. -/
def Candidate (bs : List Byte) (sc ix : Nat) (x : Scored) : Prop :=
  (x.2 ≠ ix ∧ InRecord bs x) ∨
    (x.2 = ix ∧ ((∃ old, InRecord bs (old, ix) ∧ x.1 = if scoreKey old < scoreKey sc then sc else old) ∨
      ((∀ old, ¬ InRecord bs (old, ix)) ∧ x.1 = sc)))

/-- What `kins` leaves in its record (R301): the k first pairs of S, by score descending and on equal scores by index ascending, with −0
taken as +0, and every other entry empty. -/
def KinsLeaves : Prop :=
  ∀ (p : Pfx) (k : Nat) (s : State) (u : Nat) (vs : List DWord) (r : Res), 1 ≤ k → k ≤ 8 → Quiet s r 64 → Whole s r.loc 64 →
    let v := arg vs 0
    let sc := if v.extractLsb' 32 32 = 0x80000000#32 then 0 else (v.extractLsb' 32 32).toNat
    let ix := (v.extractLsb' 0 32).toNat
    let bs := s.readMs r.loc 64
    ∃ t l, kinsStep p k s u vs r = .ok t ∧ Replaced s t r.loc (scoreBytes l) ∧ l.length ≤ k ∧ l.Nodup ∧ (∀ x ∈ l, Candidate bs sc ix x) ∧
      l.Pairwise (fun x y => scoredBefore y x = false) ∧
      ∀ y, Candidate bs sc ix y → y ∉ l → l.length = k ∧ ∀ x ∈ l, scoredBefore y x = false

/-- What `kget` gives (R301): the entry of its number. -/
def KgetGives : Prop :=
  ∀ (p : Pfx) (d : BitVec 7) (s : State) (u : Nat) (vs : List DWord) (r : Res), Quiet s r 64 → (arg vs 0).toNat ≤ 7 →
    ∃ t, kgetStep p d s u vs r = .ok t ∧ SameMem s t ∧
      GivesX s t u d (BitVec.ofNat 64 (leNat (((s.readMs r.loc 64).drop (8 * (arg vs 0).toNat)).take 8)))

/-- The address of the slot of a ring that a counter stands for (R302). -/
def slotOf (r : Ring) (n : Word) : DWord := r.cfg.base + BitVec.ofNat 64 (128 * r.cfg.ssize * (n.toNat % 2 ^ r.cfg.logn))

/-- What `ring.claim` and `ring.take` do (R302, Table 18-4): they park while no slot is free or none is published; else x(D) receives the
address of slot TAIL or HEAD, and that counter goes up by one. -/
def RingTakes : Prop :=
  ∀ (d : BitVec 7) (s : State) (u : Nat) (vs : List DWord) (r : Ring),
    let id := (arg vs 0).toNat
    kget s.rings id = some r →
    ((2 ^ r.cfg.logn ≤ (r.tail - r.rel).toNat → ringStep none (claimStep d) s u vs () = .park (.ringFull id)) ∧
      ((r.tail - r.rel).toNat < 2 ^ r.cfg.logn → ∃ t, ringStep none (claimStep d) s u vs () = .ok t ∧ GivesX s t u d (slotOf r r.tail) ∧
        t.rings = kput s.rings id { r with tail := r.tail + 1 } ∧ SameMem s t)) ∧
    ((r.head = r.pub → ringStep none (takeStep d) s u vs () = .park (.ringEmpty id)) ∧
      (r.head ≠ r.pub → ∃ t, ringStep none (takeStep d) s u vs () = .ok t ∧ GivesX s t u d (slotOf r r.head) ∧
        t.rings = kput s.rings id { r with head := r.head + 1 } ∧ SameMem s t))

/-- A counter of a ring moves from c over j marked slots, whose marks are cleared; the next slot is not marked. -/
def Moves (c c' : Word) (marks marks' : List Word) (j : Nat) : Prop :=
  c' = c + BitVec.ofNat 32 j ∧ (∀ i, i < j → c + BitVec.ofNat 32 i ∈ marks) ∧ c' ∉ marks ∧ ∀ m, m ∈ marks' ↔ m ∈ marks ∧ j ≤ (m - c).toNat

/-- What `ring.post` and `ring.free` do (Table 18-4): a slot that is not claimed or not taken, or that is marked already, and an address that
is no slot start, are refused; else the slot is marked, and PUB or REL moves over the marked slots. -/
def RingMarks : Prop :=
  ∀ (s : State) (u : Nat) (vs : List DWord) (r : Ring) (a : Src),
    let id := (arg vs 0).toNat
    kget s.rings id = some r → 1 ≤ r.cfg.ssize → r.cfg.ssize ≤ 255 → r.cfg.logn ≤ 16 →
    ((∀ n, s.plainA u a ≠ slotOf r n) → ringStep (some a) postStep s u vs () = .trap .badOperand 0 ∧
      ringStep (some a) freeStep s u vs () = .trap .badOperand 0) ∧
    (∀ n : Word, s.plainA u a = slotOf r n → (r.tail - r.pub).toNat ≤ 2 ^ r.cfg.logn →
      ((∀ m, slotOf r m = slotOf r n → (r.tail - r.pub).toNat ≤ (m - r.pub).toNat) → ringStep (some a) postStep s u vs () = .trap .badOperand 0) ∧
      ((n - r.pub).toNat < (r.tail - r.pub).toNat → n ∈ r.posted → ringStep (some a) postStep s u vs () = .trap .badOperand 0) ∧
      ((n - r.pub).toNat < (r.tail - r.pub).toNat → n ∉ r.posted → (∀ m ∈ r.posted, (m - r.pub).toNat < (r.tail - r.pub).toNat) →
        ∃ t q j, ringStep (some a) postStep s u vs () = .ok t ∧ t.rings = kput s.rings id q ∧
          { q with pub := r.pub, posted := r.posted, postClk := r.postClk } = r ∧ Moves r.pub q.pub (n :: r.posted) q.posted j ∧
          t.threads = s.threads ∧ SameMem s t)) ∧
    (∀ n : Word, s.plainA u a = slotOf r n → (r.head - r.rel).toNat ≤ 2 ^ r.cfg.logn →
      ((∀ m, slotOf r m = slotOf r n → (r.head - r.rel).toNat ≤ (m - r.rel).toNat) → ringStep (some a) freeStep s u vs () = .trap .badOperand 0) ∧
      ((n - r.rel).toNat < (r.head - r.rel).toNat → n ∈ r.freed → ringStep (some a) freeStep s u vs () = .trap .badOperand 0) ∧
      ((n - r.rel).toNat < (r.head - r.rel).toNat → n ∉ r.freed → (∀ m ∈ r.freed, (m - r.rel).toNat < (r.head - r.rel).toNat) →
        ∃ t q j, ringStep (some a) freeStep s u vs () = .ok t ∧ t.rings = kput s.rings id q ∧
          { q with rel := r.rel, freed := r.freed, freeClk := r.freeClk } = r ∧ Moves r.rel q.rel (n :: r.freed) q.freed j ∧
          t.threads = s.threads ∧ SameMem s t))

/-- A strong read or write of a directory step: a read gives the bytes that stand there, and changes none; a write replaces exactly its own
(R254, Table 6-2). -/
def StrongAccess : Prop :=
  ∀ (s t : State) (k : Nat) (va : DWord) (o : BitVec 3) (mask : BitVec 5) (r : Res), s.resolve (keyTm k) va = some r →
    (∀ n bs, Quiet s r n → s.dirGet k va n o mask = .ok (bs, t) → bs = s.readMs r.loc n ∧ SameMem s t) ∧
    ∀ bs : List Byte, Quiet s r bs.length → Whole s r.loc bs.length → s.dirPut k va bs o mask = .ok t → Replaced s t r.loc bs

/-- Word i of an entry of a bucket (R253). -/
def entryWord (bs : List Byte) (i : Nat) : DWord := BitVec.ofNat 64 (leNat ((bs.drop (8 * i)).take 8))

/-- A search of a chain for the key (lo, hi) of R253 from entry i of bucket b on, over n entries: entries 0 to 6 hold keys, entry 7 is free or
links to the next bucket; `free` is the first free entry met. -/
inductive Searches (k : Nat) (lo hi : DWord) (o : BitVec 3) (mask : BitVec 5) :
    Nat → State → DWord → Nat → Option DWord → Found → State → Prop
  | link (n : Nat) (s s1 s2 : State) (b : DWord) (bs : List Byte) (free : Option DWord) (x : Found) :
      s.dirGet k (b + 224) 32 o mask = .ok (bs, s1) → (entryWord bs 3).extractLsb' 0 2 = 2 →
      Searches k lo hi o mask n s1 (entryWord bs 2) 0 free x s2 → Searches k lo hi o mask (n + 1) s b 7 free x s2
  | last (n : Nat) (s s1 : State) (b : DWord) (bs : List Byte) (free : Option DWord) :
      s.dirGet k (b + 224) 32 o mask = .ok (bs, s1) → (entryWord bs 3).extractLsb' 0 2 ≠ 2 →
      Searches k lo hi o mask (n + 1) s b 7 free { entry := none, free := free, last := b } s1
  | hit (n i : Nat) (s s1 : State) (b : DWord) (bs : List Byte) (free : Option DWord) :
      i < 7 → s.dirGet k (b + BitVec.ofNat 64 (32 * i)) 32 o mask = .ok (bs, s1) → (entryWord bs 3).extractLsb' 0 2 = 1 →
      entryWord bs 0 = lo → entryWord bs 1 = hi →
      Searches k lo hi o mask (n + 1) s b i free { entry := some (b + BitVec.ofNat 64 (32 * i), entryWord bs 2), free := free, last := b } s1
  | skip (n i : Nat) (s s1 s2 : State) (b : DWord) (bs : List Byte) (free : Option DWord) (x : Found) :
      i < 7 → s.dirGet k (b + BitVec.ofNat 64 (32 * i)) 32 o mask = .ok (bs, s1) →
      ¬ ((entryWord bs 3).extractLsb' 0 2 = 1 ∧ entryWord bs 0 = lo ∧ entryWord bs 1 = hi) →
      Searches k lo hi o mask n s1 b (i + 1)
        (if (entryWord bs 3).extractLsb' 0 2 = 0 ∧ free = none then some (b + BitVec.ofNat 64 (32 * i)) else free) x s2 →
      Searches k lo hi o mask (n + 1) s b i free x s2

/-- The search of a key's chain comes to x (R253): it starts at the primary bucket of the key and reads at most every bucket once. -/
def Finds (p : Pfx) (s : State) (k : Nat) (lo hi : DWord) (x : Found) (t : State) : Prop :=
  let q := s.partAt k
  ∃ n, n ≤ 8 * (2 ^ q.ns + 1) ∧
    Searches k lo hi p.order p.obs n s (q.dirBase + 256 + BitVec.ofNat 64 (256 * ((lo ^^^ hi).toNat % 2 ^ q.nb))) 0 none x t

/-- What `kvlk` and `kvdel` do (R248, R255): without a directory, or where the chain has no entry of the key, x(D) ← 0; else `kvlk` gives the
descriptor unless it is quarantined, and `kvdel` gives it and makes the entry's STATE 0. -/
def KeyLooks : Prop :=
  ∀ (p : Pfx) (a : Src) (s : State) (k : Nat) (vs : List DWord),
    let nb := ((s.partAt k).kvdir.extractLsb' 0 6).toNat
    (nb = 0 → kvlkFind p a s k vs = .ok (0, s) ∧ kvdelStep p a s k vs = .ok (0, s)) ∧
    (nb ≠ 0 → ∀ lo hi x s1, s.keyAt k a = (lo, hi) → Finds p s k lo hi x s1 →
      (x.entry = none → kvlkFind p a s k vs = .ok (0, s1) ∧ kvdelStep p a s k vs = .ok (0, s1)) ∧
      (∀ e va, x.entry = some (e, va) →
        (∀ q s2, s1.descGet k va p.order p.obs = .ok (q, s2) → kvlkFind p a s k vs = .ok (if q.quar then 0 else va, s2)) ∧
        (∀ t, s1.dirPut k (e + 24) (leBytes 8 0) p.order p.obs = .ok t → kvdelStep p a s k vs = .ok (va, t))))

/-- What `kvins` does (R255): a key that is there stays, and x(D) receives its descriptor; a descriptor without reference is refused, and a
quarantined one; else the key is placed in the first free entry, or in the next spill bucket, zeroed, linked from entry 7 of the last one and
counted; where none is left, KV_DIRECTORY_FULL. -/
def KeyInserts : Prop :=
  ∀ (p : Pfx) (a : Src) (s : State) (k : Nat) (vs : List DWord),
    let q := s.partAt k
    let va := arg vs 0
    let entry := fun (lo hi w : DWord) (st : Nat) => leBytes 8 lo.toNat ++ leBytes 8 hi.toNat ++ leBytes 8 w.toNat ++ leBytes 8 st
    (q.nb = 0 → kvinsStep p a s k vs = .trap .kvDirectoryFull 0) ∧
    (q.nb ≠ 0 → ∀ lo hi x s1, s.keyAt k a = (lo, hi) → Finds p s k lo hi x s1 →
      (∀ e w, x.entry = some (e, w) → kvinsStep p a s k vs = .ok (w, s1)) ∧
      (x.entry = none → ∀ d s2, s1.descGet k va p.order p.obs = .ok (d, s2) →
        (d.refs = 0 → kvinsStep p a s k vs = .trap .badOperand va) ∧
        (d.refs ≠ 0 → d.quar = true → kvinsStep p a s k vs = .trap .kvPageQuarantined va) ∧
        (d.refs ≠ 0 → d.quar = false →
          (∀ f t, x.free = some f → s2.dirPut k f (entry lo hi va 1) p.order p.obs = .ok t → kvinsStep p a s k vs = .ok (va, t)) ∧
          (x.free = none → ∀ bs s3, s2.dirGet k (s2.partAt k).dirBase 8 p.order p.obs = .ok (bs, s3) →
            let n := leNat bs
            let base := (s2.partAt k).dirBase
            (2 ^ (s2.partAt k).ns ≤ n → kvinsStep p a s k vs = .trap .kvDirectoryFull 0) ∧
            (n < 2 ^ (s2.partAt k).ns → ∀ t,
              let b := base + 256 + BitVec.ofNat 64 (256 * (2 ^ (s2.partAt k).nb + n))
              s3.dirPuts k [(b, entry lo hi va 1 ++ List.replicate 224 0), (x.last + 224, entry 0 0 b 2), (base, leBytes 8 (n + 1))]
                p.order p.obs = .ok t → kvinsStep p a s k vs = .ok (va, t))))))

/-- What `kvref` and `kvpos` do (R248, R255, R256): `kvref` adds a signed delta to REF, gives the sum, and refuses one outside 0 to 2^32 − 1; a
REF of 0 frees the entry, and with PIN 0 the descriptor; `kvpos` gives the old POS and sets the new one. -/
def KeyCounts : Prop :=
  ∀ (p : Pfx) (a : Src) (s : State) (k : Nat) (vs : List DWord),
    let v := (arg vs 0).setWidth 32
    ((s.partAt k).nb = 0 → kvrefStep p a s k vs = .ok (0xFFFFFFFFFFFFFFFF, s)) ∧
    ((s.partAt k).nb ≠ 0 → ∀ lo hi x s1, s.keyAt k a = (lo, hi) → Finds p s k lo hi x s1 →
      (x.entry = none → kvrefStep p a s k vs = .ok (0xFFFFFFFFFFFFFFFF, s1)) ∧
      (∀ e va d s2, x.entry = some (e, va) → s1.descGet k va p.order p.obs = .ok (d, s2) →
        let n : Int := (d.refs.toNat : Int) + v.toInt
        (n < 0 ∨ 2 ^ 32 ≤ n → kvrefStep p a s k vs = .trap .badOperand 0) ∧
        (0 < n → n < 2 ^ 32 → ∀ t, s2.dirPuts k (if v = 0 then [] else [(va + 16, leBytes 4 n.toNat)]) p.order p.obs = .ok t →
          kvrefStep p a s k vs = .ok (BitVec.ofInt 64 n, t)) ∧
        (n = 0 → ∀ t,
          s2.dirPuts k ((if d.pin = 0 ∧ d.freed = false then [(va + 12, leBytes 4 (d.hi + 2 ^ 21))] else []) ++
            (if v = 0 then [] else [(va + 16, leBytes 4 0)]) ++ [(e + 24, leBytes 8 0)]) p.order p.obs = .ok t →
          kvrefStep p a s k vs = .ok (0, t)))) ∧
    (∀ d s1 t, s.descGet k (s.plainA k a) p.order p.obs = .ok (d, s1) →
      s1.dirPuts k ((s.plainA k a + 8, leBytes 4 v.toNat) ::
        (if d.refs = 0 ∧ d.pin = 0 ∧ d.freed = false then [(s.plainA k a + 12, leBytes 4 (d.hi + 2 ^ 21))] else [])) p.order p.obs = .ok t →
      kvposStep p a s k vs = .ok (d.pos.setWidth 64, t))

/-- What `kvq` leaves (R257): one request more, naming its thread, tile, record and list; one that did not fail at acceptance has pinned every
descriptor that its list names, in list order and key before value. A pin adds one to the PIN word of a sound descriptor. -/
def RequestLeaves : Prop :=
  (∀ (d : BitVec 7) (a b : Src) (s t : State) (k : Nat), kvqStep d a b s k = .ok t →
    ∃ q, t.kvqs = s.kvqs ++ [q] ∧ q.id = s.nextId ∧ q.tm = keyTm k ∧ q.thread = k ∧ q.tile = d.toNat ∧ q.qrec = s.plainA k a ∧
      q.list = s.plainA k b ∧ (s.team (keyTm k)).owner.getLsbD d.toNat = true ∧
      (q.failed = none → ∃ l : List KvPair, q.pins = l.flatMap (fun x => [x.key, x.val]) ∧ 1 ≤ l.length ∧ l.length ≤ 4096)) ∧
  (∀ (s s1 t : State) (w : Who) (va : DWord) (kind : Nat) (rest : List (DWord × Nat)) (d : Desc), s.kvqDesc w va kind = .ok (d, s1) →
    (d.freed = true → s.pinAll w ((va, kind) :: rest) = ([], some (kvqAt .badOperand va), s)) ∧
    (d.freed = false → s1.unitStore w (va + 20) (leBytes 4 (d.pin + 1).toNat) true = .ok t →
      s.pinAll w ((va, kind) :: rest) = (va :: (t.pinAll w rest).1, (t.pinAll w rest).2)))

/-- `evaluate` of R271. -/
def evaluated (m : Mb) : Mb := if m.rem = 0 ∧ m.tarr = m.tcount then { m with phase := m.phase + 1, exp := 0, tarr := 0 } else m

/-- What the mb instructions do to their object (R271, R368): `mbinit` a fresh one, `mbexp` bytes more, `mbarr` an arrival more, which is
refused where every arrival is in; `mbwait` parks at the phase it names, and gives any other. -/
def MbLeaves : Prop :=
  ∀ (d : BitVec 7) (s : State) (k : Nat) (r : Res), Quiet s r 16 → Whole s r.loc 16 →
    let m := mbOf (s.readMs r.loc 16)
    let v := (s.thr k).getX d.toNat
    (v.toNat = 0 ∨ 65535 < v.toNat → mbinitPre d s k = .trap .badOperand 0) ∧
    (1 ≤ v.toNat → v.toNat ≤ 65535 → mbinitPre d s k = .ok () ∧ ∃ t, mbinitStep d s k r = .ok t ∧
      Replaced s t r.loc ({ exp := 0, rem := 0, phase := 0, tarr := 0, tcount := v.toNat } : Mb).bytes) ∧
    (∃ t, mbexpStep d s k r = .ok t ∧
      Replaced s t r.loc (evaluated { m with exp := m.exp + v.setWidth 32, rem := m.rem + v.setWidth 32 }).bytes) ∧
    (m.tarr = m.tcount → mbarrStep s k r = .trap .badOperand 0) ∧
    (m.tarr ≠ m.tcount → ∃ t, mbarrStep s k r = .ok t ∧ Replaced s t r.loc (evaluated { m with tarr := m.tarr + 1 }).bytes) ∧
    (m.phase = v.setWidth 32 → mbwaitStep d s k r = .park (.mb r.loc m.phase)) ∧
    (m.phase ≠ v.setWidth 32 → ∃ t, mbwaitStep d s k r = .ok t ∧ GivesX s t k d (m.phase.setWidth 64) ∧ SameMem s t)

/-- What `xform` does (R274): the bytes that its card makes of the source line replace those at the destination line, the flags of the
conversion are added, and x(D) receives their checksum under CRC. A copy gives the line, a transpose its transpose, and a join what was split. -/
def CardLeaves : Prop :=
  (∀ (d : BitVec 7) (a b : Src) (s : State) (k : Nat) (r q : Res) (out : List Byte) (fl : BitVec 5),
    let c := cardOf ((s.thr k).getX d.toNat).toNat
    sound (s.thr k) (regsOf [a, b, .reg d]) = true → s.cardTry k (s.addr k a b) c = .ok (r, q) → Whole s q.loc out.length →
    c.apply (s.thr k).mode (s.readMs r.loc 128) = some (out, fl) →
    ∃ t, xformTry d a b s k = .ok t ∧ Replaced s t q.loc out ∧ (t.thr k).flags = (s.thr k).flags ||| fl ∧
      (c.crc = true → GivesX s t k d ((crc32c out).setWidth 64)) ∧ (c.crc = false → ∀ m, (t.thr k).getX m = (s.thr k).getX m)) ∧
  (∀ (c : Card) (mode : DWord) (bs : List Byte), bs.length = 128 →
    (c.op = 0 → c.apply mode bs = some (bs, 0)) ∧
    (c.op = 1 → c.esz ≤ 3 → ∃ out, c.apply mode bs = some (out, 0) ∧ out.length = 128 ∧ ∀ row col byte, row < 8 → col < 16 / 2 ^ c.esz →
      byte < 2 ^ c.esz → out.getD ((8 * col + row) * 2 ^ c.esz + byte) 0 = bs.getD ((16 / 2 ^ c.esz * row + col) * 2 ^ c.esz + byte) 0) ∧
    (c.op = 3 → ∀ (e : Card) (junk : List Byte), e.op = 4 → junk.length = 32 → ∃ out, c.apply mode bs = some (out, 0) ∧ out.length = 96 ∧
      e.apply mode (out ++ junk) = some (bs.map (fun x => x &&& 0x3F), 0)))

/-- What a system register reads (Table 23-3, Table 9-2), and which values a write of it takes (R384): the others are refused. -/
def SrLayouts : Prop :=
  ∀ (s : State) (k : Nat),
    let t := s.thr k
    let q := s.part (s.partOf (keyTm k))
    (s.readSr k 0x01 = some t.mode ∧ s.readSr k 0x02 = some (t.flags.setWidth 64) ∧ s.readSr k 0x03 = some q.seed ∧
      s.readSr k 0x04 = some s.gtc ∧ s.readSr k 0x09 = some t.h.fpc ∧ s.readSr k 0x0A = some t.h.fhdr ∧ s.readSr k 0x0B = some t.h.faddr ∧
      s.readSr k 0x0C = some t.h.fgtc ∧ s.readSr k 0x0D = some t.h.other ∧ s.readSr k 0x0E = some t.h.otask ∧
      s.readSr k 0x0F = some (BitVec.ofNat 64 t.h.fcount) ∧ s.readSr k 0x10 = some t.h.hscr ∧
      s.readSr k 0x08 = some (BitVec.ofNat 64 (t.h.done.toNat * 256 + t.h.defer.toNat * 128 + t.h.cause.code)) ∧
      s.readSr k 0x18 = some (s.core (s.coreOf (keyTm k))).age ∧ s.readSr k 0x19 = some q.minres ∧ s.readSr k 0x1A = some q.eddl ∧
      s.readSr k 0x1B = some q.bchk ∧ s.readSr k 0x1D = some q.ptroot ∧ s.readSr k 0x20 = some q.kvfreq ∧ s.readSr k 0x21 = some q.kvsalt ∧
      s.readSr k 0x22 = some q.kvdir) ∧
    (∀ v : DWord, (srTakes 0x01 v = true ↔ v.extractLsb' 11 53 = 0 ∧ v.extractLsb' 0 3 ≠ 7) ∧ (srTakes 0x02 v = true ↔ v.extractLsb' 5 59 = 0) ∧
      (srTakes 0x18 v = true ↔ v.extractLsb' 16 48 = 0) ∧ (srTakes 0x19 v = true ↔ v.extractLsb' 32 32 = 0 ∧ 1000 ≤ v.toNat) ∧
      (srTakes 0x1A v = true ↔ v.extractLsb' 32 32 = 0) ∧ (srTakes 0x20 v = true ↔ v.extractLsb' 0 8 = 0) ∧
      (∀ n, n < 8 → (srTakes (0x28 + n) v = true ↔ v.extractLsb' 56 5 = 0 ∧ v.extractLsb' 0 2 = 0)))

/-- A register that privileged code may write reads, after a write of a value that its layout takes, that value (R383 to R385). -/
def SrReadsBack : Prop :=
  ∀ (s : State) (k n : Nat) (v : DWord), srWritable n = true → srTakes n v = true → (kget s.parts (s.partOf (keyTm k))).isSome →
    (s.writeSr k n v).readSr k n = some v

/-- What `rdsr` and `wrsr` refuse with BAD_OPERAND (R384): an unassigned number, a write of a read-only register, and a value that the
layout refuses, which leaves the register as it was for every thread. -/
def SrRefuses : Prop :=
  ∀ (s : State) (c : Cur) (p : Pfx) (act : List Nat),
    (∀ d n : BitVec 7, (n.toNat ∈ [0x05, 0x06, 0x07, 0x12, 0x13, 0x1E, 0x1F, 0x23, 0x24, 0x25, 0x26, 0x27] ∨ 0x30 ≤ n.toNat) →
      Issues s c act .both false p → exec (.rdsr p d n) s = .next (s.raise c.gid c.pc c.hdr act (fun _ => s.hit .badOperand 0))) ∧
    (∀ (n : BitVec 7) (a : Src), Issues s c act .both true p →
      (n.toNat ∈ [0x00, 0x04, 0x05, 0x06, 0x07, 0x08, 0x0B, 0x0C, 0x0D, 0x0E, 0x0F, 0x12, 0x13, 0x14, 0x15, 0x16, 0x17, 0x1E, 0x1F, 0x23,
          0x24, 0x25, 0x26, 0x27] ∨ 0x30 ≤ n.toNat →
        exec (.wrsr p n a) s = .next (s.raise c.gid c.pc c.hdr act (fun _ => s.hit .badOperand 0))) ∧
      (∀ (l : List Nat) (u : Nat) (s1 : State) (v : DWord) (rd : Rd), srWritable n.toNat = true → Falls s c → srcsOk s c [(.int64, a)] = true →
        act = l ++ [u] → u ∉ l → inOrder c (wrsrTry n.toNat a) l s = some s1 →
        s1.readSrcs (c.key u) [(.int64, a)] (s1.rd (c.key u)) = .ok ([v], rd) → srTakes n.toNat v = false →
        ∃ x, exec (.wrsr p n a) s = .next (s.raise c.gid c.pc c.hdr act x) ∧ x u = s.hit .badOperand 0 ∧ ∀ w ∈ l, x w = s.noHit))

/-- A row of an instruction across the lanes of its group: `val` computes a thread's result from what all active threads offer, its own
lane and its own operands (R387, R388). -/
def crossRowOf (p : Pfx) (d : BitVec 7) (l : List (OTy × Src)) (ok : Bool) (val : Offers → Nat → List DWord → Thread → Thread) : LaneRow :=
  { need := .eOnly, priv := false, p := p, ok := fun s c => srcsOk s c l && ok, z := fun _ => setD .e false d 0,
    f := fun s c k => tryThen (s.readSrcs k l (s.rd k)) fun (vs, rd) =>
      .ok { th := val (s.offers c (s.activeOf c p) l) (s.thr k).lane vs { s.thr k with clk := rd.clk }, p := rd.p } }

/-- A shuffle: value(A) of the source lane if a thread is active there, the thread's own otherwise (R387). -/
def shuffleRow (p : Pfx) (d : BitVec 7) (a b : Src) (src : Nat → Word → Int) : LaneRow :=
  crossRowOf p d [(.int32, a), (.int32, b)] true (fun o l vs t =>
    let j := src l ((arg vs 1).setWidth 32)
    setD .e false d (match o.find? (fun e => decide (0 ≤ j ∧ j ≤ 31 ∧ (e.1 : Int) = j)) with
      | some e => arg e.2 0
      | none => arg vs 0) t)

/-- A reduction or scan over the lanes that `within` gives a lane, in ascending lane order: 32-bit integers by `f` from `e`, f32 by the
operation `op` (R388). -/
def foldRow (p : Pfx) (d : BitVec 7) (a : Src) (ty : BitVec 2) (op : RedOp) (f : Bool → Word → Word → Word) (e : Bool → Word)
    (within : Nat → Nat → Bool) : LaneRow :=
  crossRowOf p d [(if ty.toNat = 2 then .flt .f32 else .int32, a)] (decide (ty.toNat < 3)) (fun o l _ t =>
    let xs := (sortBy (fun x y => decide (x.1 < y.1)) (o.filter (fun e => within e.1 l))).map (fun e => arg e.2 0)
    if ty.toNat = 2 then
      let x := redFloat op (t.env 0) (xs.map BitVec.toNat)
      setD .e false d (BitVec.ofNat 64 x.1) (t.putEnv x.2)
    else
      let sg := decide (ty.toNat = 0)
      setD .e false d (ofWord ((xs.map (fun x => x.setWidth 32)).foldl (f sg) (e sg))) t)

/-- The smaller and the larger of two words by one of the orders. -/
def lesser (sg : Bool) (x y : Word) : Word := if (if sg then decide (y.toInt < x.toInt) else decide (y.toNat < x.toNat)) then y else x
/-- The larger of two words by one of the orders. -/
def greater (sg : Bool) (x y : Word) : Word := if (if sg then decide (x.toInt < y.toInt) else decide (x.toNat < y.toNat)) then y else x

/-- The instructions across lanes but `bcast` (R387, R388). -/
def crossRow : Instr → Option LaneRow
  | .shflI p d a b => some (shuffleRow p d a b (fun _ n => (n.toNat % 32 : Nat)))
  | .shflX p d a b => some (shuffleRow p d a b (fun l n => (l ^^^ (n.toNat % 32) : Nat)))
  | .shflD p d a b => some (shuffleRow p d a b (fun l n => (l : Int) + n.toInt))
  | .redAdd p d a ty => some (foldRow p d a ty .add (fun _ x y => x + y) (fun _ => 0) (fun _ _ => true))
  | .redMin p d a ty => some (foldRow p d a ty .min lesser (fun sg => if sg then 0x7FFFFFFF else 0xFFFFFFFF) (fun _ _ => true))
  | .redMax p d a ty => some (foldRow p d a ty .max greater (fun sg => if sg then 0x80000000 else 0) (fun _ _ => true))
  | .scanAdd p d a x ty => some (foldRow p d a ty .add (fun _ x y => x + y) (fun _ => 0) (scanned x))
  | .scanMin p d a x ty => some (foldRow p d a ty .min lesser (fun sg => if sg then 0x7FFFFFFF else 0xFFFFFFFF) (scanned x))
  | .scanMax p d a x ty => some (foldRow p d a ty .max greater (fun sg => if sg then 0x80000000 else 0) (scanned x))
  | _ => none

/-- The row of an instruction whose threads act each on its own registers and queues. -/
def laneRow (i : Instr) : Option LaneRow :=
  [arithRow, bitRow, fieldRow, divRow, cmpRow, longRow, floatRow, fcmpRow, specialRow, convRow, predRow, crossRow, queueRow, plainRow].findSome? (fun f => f i)

/-- An instruction has completed at a state that its effect has led to: the group's threads have, and the group moves on; nothing else
differs (R20, R39, R188). -/
def Completes (s t : State) (c : Cur) : Prop :=
  FramePairs s t ∧ MovesOn s t c ∧
    (∀ u ∈ (s.grp c.gid).members, t.thr (c.key u) = doneThread (s.grp c.gid).priv (s.thr (c.key u))) ∧
    (∀ k, Outside s c k → t.thr k = s.thr k)

/-- What the hardware does to a thread that enters the handler (R188, Table 9-1). -/
def Entered (a b : Thread) (pc hdr : DWord) (x : Hit) : Prop :=
  b = { a with h := enterRegs a.h pc hdr x, park := .none, since := none }

/-- The exception entry of a whole group can be taken (R189, R190, R193): the group exists, is outside handler code, no member enters for
the 64th time in a row at the instruction, and the handler table's entry for the cause is a good header at `a`. -/
def CanEnter (s : State) (gid : Nat) (pc hdr : DWord) (x : Hit) (a : DWord) : Prop :=
  let g := s.grp gid
  let s1 := s.setRegs g.tm g.side g.members pc hdr (fun _ => x)
  (kget s.groups gid).isSome ∧ g.members ≠ [] ∧ g.members.Nodup ∧ g.priv = false ∧ (∀ u ∈ g.members, entryCount (s.thr (g.key u)).h pc < 64) ∧
    s1.vector g.tm g.side x.cause = (some a, false) ∧ a ≠ 0 ∧ s1.entryFault g.tm a = none

/-- The next act of a step is the issue of a group, chosen outside or chosen for this cycle; the state that the issue starts from. -/
def NextIssue (s s1 : State) (gid : Nat) : Prop :=
  (∃ rest, s.agenda = .issue gid :: rest ∧ s1 = { s with agenda := rest }) ∨
    ((∀ g rest, s.agenda ≠ .issue g :: rest) ∧ s.power = true ∧ ∃ rest, s.due = gid :: rest ∧ s1 = { s with due := rest })

/-- A group stands at an instruction, having entered its block first if it stood before it (R20, R21, R69). -/
def AtInstr (s1 s2 : State) (gid : Nat) (g : Group) : Prop :=
  kget s1.groups gid = some g ∧ s1.mayIssue gid = true ∧
    (if g.entering then (s1.noteIssue gid).enter gid = .ok s2 else s2 = s1.noteIssue gid) ∧ s2.matches gid = false

/-- Only one team differs, and it has become `x`. -/
def TeamBecomes (s t : State) (tm : Nat) (x : Team) : Prop :=
  { t with teams := s.teams } = s ∧ (∀ n, n ≠ tm → t.team n = s.team n) ∧ t.team tm = x

/-- Where a thread goes at a transfer of control (R333, R334, R389): to a header, or on in its own block. -/
def wants (i : Instr) (s : State) (c : Cur) (u : Nat) : Option (Option DWord) :=
  match i with
  | .br off => some (some (hdrPlus c.hdr off))
  | .brp p off => some (if (s.thr (c.key u)).pred p.toNat then some (hdrPlus c.hdr off) else none)
  | .brpNot p off => some (if (s.thr (c.key u)).pred p.toNat then none else some (hdrPlus c.hdr off))
  | .call off => some (some (hdrPlus c.hdr off))
  | .ret => some (s.thr (c.key u)).rstack.head?
  | .brx a => match s.readSrc (c.key u) .int64 a (s.rd (c.key u)) with
    | .ok (v, _) => some (some v)
    | _ => none
  | _ => none

/-- What a transfer needs of a thread besides its target: room on the return stack, an entry on it, or an operand of the right kind. -/
def mayGo (i : Instr) (s : State) (c : Cur) (u : Nat) : Bool :=
  match i with
  | .call _ => decide ((s.thr (c.key u)).rstack.length < 16)
  | .ret => !(s.thr (c.key u)).rstack.isEmpty
  | .brx a => brxOk c.side a
  | _ => true

/-- The return stack after a transfer (R333, R389). -/
def stackAfter (i : Instr) (c : Cur) (l : List DWord) : List DWord :=
  match i with
  | .call _ => blockEnd c.hdr c.len :: l
  | .ret => l.drop 1
  | _ => l

/-- Every thread of a group may make the transfer: it is ready, and its target or the header it falls into may be entered (R25, R26). -/
def CanGo (i : Instr) (s : State) (c : Cur) (act : List Nat) : Prop :=
  Issues s c act .both false noPfx ∧ act.Nodup ∧ s.badRcv c.tm c.hdr = false ∧
    ∀ u ∈ act, mayGo i s c u = true ∧ ((∃ a, wants i s c u = some (some a) ∧ s.targetFault c.tm a = none) ∨ (wants i s c u = some none ∧ Falls s c))

/-- Where a thread stands after a transfer. -/
def goesTo (i : Instr) (s : State) (c : Cur) (u : Nat) : Dest :=
  match wants i s c u with
  | some (some a) => toHeader a (s.grp c.gid).priv
  | _ => c.after (s.grp c.gid).priv

/-- A group that the debugger lets go on past a `brk` may stand there: in its block, or before a header that it may fall into (R25). -/
def PastBrk (s : State) (gid : Nat) : Prop :=
  let g := s.grp gid
  let d := s.afterSeq g.tm g.pc g.hdr g.priv
  d.entering = true → s.fallFault g.tm d.hdr = false

/-- The active threads of a group stand parked after their instruction: with their whole group, or, where others of it go on, in a group of
their own. -/
def ParksOn (s t : State) (c : Cur) (act : List Nat) : Prop :=
  let rest := (s.grp c.gid).members.filter (fun u => !act.contains u)
  (rest = [] → MovesOn s t c) ∧
    (rest ≠ [] → c.last = false → (kget s.groups c.gid).isSome → c.gid < s.nextId →
      (t.grp c.gid).pc = c.next ∧ (t.grp c.gid).members = rest ∧ (t.grp s.nextId).pc = c.next ∧ (t.grp s.nextId).members = act)

/-- What holds a named barrier: its team, or for nb15 its cluster (R85). -/
def BarExists (s : State) (tm n : Nat) : Prop :=
  if n = 15 then (kget s.clusters (s.team tm).cluster).isSome else (kget s.teams tm).isSome

/-- A load into a queue: its prefixes, what its operands must be, and a thread's step (R251, R278, R364). -/
def queueLoad : Instr → Option (Pfx × (State → Cur → Bool) × (Cur → State → Nat → Try State))
  | .ldqB8 p d a b => some (p, plain d a b, ldqTry 1 p d a b)
  | .ldqB16 p d a b => some (p, plain d a b, ldqTry 2 p d a b)
  | .ldqB32 p d a b => some (p, plain d a b, ldqTry 4 p d a b)
  | .ldqB64 p d a b => some (p, plain d a b, ldqTry 8 p d a b)
  | .ldqLine p d a b => some (p, fun s c => plain d a b s c && decide (32 ≤ (s.team c.tm).lim.depth), ldqTry 128 p d a b)
  | .ldqK16 p d a b => some (p, plain d a b, fun c => State.pushLoad c (k16Args d a b) (k16Load p a b))
  | .ngetB32 p d a b => some (p, fun s c => a.isS && (match b with | .reg n => decide (n.toNat < 32) | .imx _ => true | _ => false) &&
      decide (d.toNat < 16) && decide (d.toNat < s.nq c.tm), fun c => State.pushLoad c (ngetArgs d a b) (ngetLoad a b))
  | _ => none
where
  plain (d : BitVec 7) (a b : Src) (s : State) (c : Cur) : Bool := addrOk a b && decide (d.toNat < 16) && decide (d.toNat < s.nq c.tm)

/-- The semiring, prefixes and fields of an `mma`. -/
def mmaForm : Instr → Option (Nat × Pfx × MmaArgs)
  | .mma p m => some (0, p, m)
  | .mmaMinplus p m => some (1, p, m)
  | .mmaMaxtimes p m => some (2, p, m)
  | .mmaOrand p m => some (3, p, m)
  | .mmaStage p m => some (0, p, m)
  | _ => none

/-- What a thread of a row latches for a write of an accumulator tile: n words from v(D) on, the first ones flushed under FIZS. -/
def latched (s : State) (c : Cur) (act : List Nat) (d i n flushed : Nat) : KMap (List Word) :=
  act.foldl (fun m u =>
    let th := s.thr (c.key u)
    kput m (32 * i + th.lane) ((List.range n).map (fun j =>
      let w := th.getV (d + j)
      if j < flushed then BitVec.ofNat 32 (Fm.f32.flushIn th.mode w.toNat) else w))) []

/-- A Bear command that a group enters and goes on: prefixes, what its operands must be, accumulator tiles, scratchpad tiles, and what it
does (Table 13-6, R238 to R243, R391). -/
def bearCommand (s : State) (c : Cur) (act : List Nat) : Instr → Option (Pfx × Bool × List Nat × List Nat × BearOp)
  | .mzero p d => some (p, decide (d.toNat < 8), [d.toNat], [], .mzero d.toNat)
  | .mwrF32 p d t h i => some (p, rangeOk (s.team c.tm).lim.vregs d.toNat 32 && act.all (fun u => sound (s.thr (c.key u)) (numbers d.toNat 32)), [t.toNat], [],
      .mwrF t.toNat h.toNat i.toNat (latched s c act d.toNat i.toNat 32 32))
  | .mwrSt p d t i => some (p, rangeOk (s.team c.tm).lim.vregs d.toNat 3 && act.all (fun u => sound (s.thr (c.key u)) (numbers d.toNat 3)), [t.toNat], [], .mwrS t.toNat i.toNat (latched s c act d.toNat i.toNat 3 2))
  | .mscl p d az b => some (p, decide (d.toNat < 8) && d.toNat != az.toNat && !b.getLsbD 7, [d.toNat, az.toNat], [(b.extractLsb' 0 6).toNat],
      .mscl d.toNat az.toNat (b.extractLsb' 0 6).toNat (b.getLsbD 6) (rcOf p.rc (s.thr (c.first act)).mode))
  | .smx p d a b =>
    let o := (d.extractLsb' 0 3).toNat
    let sc := (d.extractLsb' 3 3).toNat
    match s.readSrc (c.first act) (.flt .f32) a (s.rd (c.first act)) with
    | .ok (v, _) => some (p, !d.getLsbD 6 && uniformSrc a && o != sc && (b.extractLsb' 6 2).toNat != 3, [o, sc], [(b.extractLsb' 0 6).toNat],
        .smx o sc (b.extractLsb' 0 6).toNat (b.extractLsb' 6 2).toNat (v.setWidth 32) (rcOf p.rc (s.thr (c.first act)).mode))
    | _ => none
  | .smrg p d t => some (p, decide (d.toNat < 8) && d.toNat != t.toNat, [d.toNat, t.toNat], [], .smrg d.toNat t.toNat)
  | .smfin p d => some (p, decide (d.toNat < 8), [d.toNat], [], .smfin d.toNat)
  | _ => none

/-- A readout: prefixes, destination, registers written, accumulator tile, and what it does (R238, R373). -/
def bearRead (ks zs : List Nat) : Instr → Option (Pfx × Nat × Nat × Nat × BearOp)
  | .mrdF32 p d t h i => some (p, d.toNat, 32, t.toNat, .mrdF t.toNat h.toNat i.toNat ks zs d.toNat p.rc p.cByte)
  | .mrdSt p d t i => some (p, d.toNat, 3, t.toNat, .mrdS t.toNat i.toNat ks zs d.toNat p.rc p.cByte)
  | _ => none

/-- A command may enter the Bear's order (R235, R236): its tiles are within the team's, its scratchpad tiles are engine-owned, and no
active thread has signed an operation on one of its accumulator tiles that has not issued. -/
def BearFree (s : State) (c : Cur) (act accs tiles : List Nat) : Prop :=
  (∀ t ∈ accs, t < (s.team c.tm).lim.accs ∧ ∀ u ∈ act, s.signsOn (c.key u) t none = false) ∧
    ∀ t ∈ tiles, t < (s.team c.tm).lim.tiles ∧ (s.team c.tm).owner.getLsbD t = true

/-- The side on which an instruction executes, whether it is privileged, and its prefixes (Table 2-13, R51, R52, R383); none for an
event. -/
def entry : Instr → Option (SideReq × Bool × Pfx)
  | .br _ => some (.both, false, noPfx)
  | .brp _ _ => some (.both, false, noPfx)
  | .brpNot _ _ => some (.both, false, noPfx)
  | .call _ => some (.both, false, noPfx)
  | .ret => some (.both, false, noPfx)
  | .brx _ => some (.both, false, noPfx)
  | .exit => some (.both, false, noPfx)
  | .nop => some (.both, false, noPfx)
  | .yield => some (.both, false, noPfx)
  | .brk => some (.both, false, noPfx)
  | .trap _ => some (.both, false, noPfx)
  | .rfhRetry p => some (.both, true, p)
  | .rfhSkip p => some (.both, true, p)
  | .rfhEnd p => some (.both, true, p)
  | .enrol p _ => some (.eOnly, false, p)
  | .join p _ => some (.eOnly, false, p)
  | .strike p _ => some (.eOnly, false, p)
  | .reform p => some (.eOnly, false, p)
  | .jmask p _ _ _ => some (.eOnly, false, p)
  | .jmaskArr p _ _ _ => some (.eOnly, false, p)
  | .plogAnd p _ _ _ => some (.both, false, p)
  | .plogOr p _ _ _ => some (.both, false, p)
  | .plogXor p _ _ _ => some (.both, false, p)
  | .plogAndn p _ _ _ => some (.both, false, p)
  | .pmov p _ _ => some (.both, false, p)
  | .pset p _ _ => some (.both, false, p)
  | .ballot p _ _ => some (.both, false, p)
  | .cmpEq p _ _ _ => some (.both, false, p)
  | .cmpNe p _ _ _ => some (.both, false, p)
  | .cmpLt p _ _ _ => some (.both, false, p)
  | .cmpLe p _ _ _ => some (.both, false, p)
  | .cmpGt p _ _ _ => some (.both, false, p)
  | .cmpGe p _ _ _ => some (.both, false, p)
  | .cmpLtn p _ _ _ => some (.both, false, p)
  | .cmpGen p _ _ _ => some (.both, false, p)
  | .fcmpF32Eq p _ _ _ => some (.eOnly, false, p)
  | .fcmpF32Ne p _ _ _ => some (.eOnly, false, p)
  | .fcmpF32Lt p _ _ _ => some (.eOnly, false, p)
  | .fcmpF32Le p _ _ _ => some (.eOnly, false, p)
  | .fcmpF32Gt p _ _ _ => some (.eOnly, false, p)
  | .fcmpF32Ge p _ _ _ => some (.eOnly, false, p)
  | .fcmpF32Un p _ _ _ => some (.eOnly, false, p)
  | .fcmpF32Or p _ _ _ => some (.eOnly, false, p)
  | .fcmpF64Eq p _ _ _ => some (.eOnly, false, p)
  | .fcmpF64Ne p _ _ _ => some (.eOnly, false, p)
  | .fcmpF64Lt p _ _ _ => some (.eOnly, false, p)
  | .fcmpF64Le p _ _ _ => some (.eOnly, false, p)
  | .fcmpF64Gt p _ _ _ => some (.eOnly, false, p)
  | .fcmpF64Ge p _ _ _ => some (.eOnly, false, p)
  | .fcmpF64Un p _ _ _ => some (.eOnly, false, p)
  | .fcmpF64Or p _ _ _ => some (.eOnly, false, p)
  | .add p _ _ _ => some (.both, false, p)
  | .sub p _ _ _ => some (.both, false, p)
  | .mul p _ _ _ => some (.both, false, p)
  | .mulh p _ _ _ => some (.both, false, p)
  | .mulhN p _ _ _ => some (.both, false, p)
  | .min p _ _ _ => some (.both, false, p)
  | .max p _ _ _ => some (.both, false, p)
  | .minN p _ _ _ => some (.both, false, p)
  | .div p _ _ _ => some (.both, false, p)
  | .divN p _ _ _ => some (.both, false, p)
  | .rem p _ _ _ => some (.both, false, p)
  | .remN p _ _ _ => some (.both, false, p)
  | .maxN p _ _ _ => some (.both, false, p)
  | .abs p _ _ => some (.both, false, p)
  | .neg p _ _ => some (.both, false, p)
  | .mad p _ _ _ => some (.both, false, p)
  | .and p _ _ _ => some (.both, false, p)
  | .or p _ _ _ => some (.both, false, p)
  | .xor p _ _ _ => some (.both, false, p)
  | .andn p _ _ _ => some (.both, false, p)
  | .not p _ _ => some (.both, false, p)
  | .sel p _ _ _ => some (.both, false, p)
  | .mov p _ _ => some (.both, false, p)
  | .smov p _ _ => some (.both, false, p)
  | .smovHi p _ _ => some (.both, false, p)
  | .shl p _ _ _ => some (.both, false, p)
  | .shr p _ _ _ => some (.both, false, p)
  | .sra p _ _ _ => some (.both, false, p)
  | .popc p _ _ => some (.both, false, p)
  | .clz p _ _ => some (.both, false, p)
  | .brev p _ _ => some (.both, false, p)
  | .bfe p _ _ _ => some (.both, false, p)
  | .bfeN p _ _ _ => some (.both, false, p)
  | .bfi p _ _ _ => some (.both, false, p)
  | .perm p _ _ _ => some (.both, false, p)
  | .addI64 p _ _ _ => some (.eOnly, false, p)
  | .subI64 p _ _ _ => some (.eOnly, false, p)
  | .mulI64 p _ _ _ => some (.eOnly, false, p)
  | .shlI64 p _ _ _ => some (.eOnly, false, p)
  | .shrI64 p _ _ _ => some (.eOnly, false, p)
  | .movI64 p _ _ => some (.eOnly, false, p)
  | .fadd p _ _ _ => some (.eOnly, false, p)
  | .fsub p _ _ _ => some (.eOnly, false, p)
  | .fmul p _ _ _ => some (.eOnly, false, p)
  | .ffma p _ _ _ => some (.eOnly, false, p)
  | .fmin p _ _ _ => some (.eOnly, false, p)
  | .fmax p _ _ _ => some (.eOnly, false, p)
  | .fabs p _ _ => some (.eOnly, false, p)
  | .fneg p _ _ => some (.eOnly, false, p)
  | .faddF16x2 p _ _ _ => some (.eOnly, false, p)
  | .fsubF16x2 p _ _ _ => some (.eOnly, false, p)
  | .fmulF16x2 p _ _ _ => some (.eOnly, false, p)
  | .ffmaF16x2 p _ _ _ => some (.eOnly, false, p)
  | .fminF16x2 p _ _ _ => some (.eOnly, false, p)
  | .fmaxF16x2 p _ _ _ => some (.eOnly, false, p)
  | .fabsF16x2 p _ _ => some (.eOnly, false, p)
  | .fnegF16x2 p _ _ => some (.eOnly, false, p)
  | .faddBf16x2 p _ _ _ => some (.eOnly, false, p)
  | .fsubBf16x2 p _ _ _ => some (.eOnly, false, p)
  | .fmulBf16x2 p _ _ _ => some (.eOnly, false, p)
  | .ffmaBf16x2 p _ _ _ => some (.eOnly, false, p)
  | .fminBf16x2 p _ _ _ => some (.eOnly, false, p)
  | .fmaxBf16x2 p _ _ _ => some (.eOnly, false, p)
  | .fabsBf16x2 p _ _ => some (.eOnly, false, p)
  | .fnegBf16x2 p _ _ => some (.eOnly, false, p)
  | .faddF64 p _ _ _ => some (.eOnly, false, p)
  | .fsubF64 p _ _ _ => some (.eOnly, false, p)
  | .fmulF64 p _ _ _ => some (.eOnly, false, p)
  | .ffmaF64 p _ _ _ => some (.eOnly, false, p)
  | .fminF64 p _ _ _ => some (.eOnly, false, p)
  | .fmaxF64 p _ _ _ => some (.eOnly, false, p)
  | .fabsF64 p _ _ => some (.eOnly, false, p)
  | .fnegF64 p _ _ => some (.eOnly, false, p)
  | .frcp p _ _ => some (.eOnly, false, p)
  | .frsq p _ _ => some (.eOnly, false, p)
  | .fsqrt p _ _ => some (.eOnly, false, p)
  | .fexp2 p _ _ => some (.eOnly, false, p)
  | .flog2 p _ _ => some (.eOnly, false, p)
  | .fdiv p _ _ _ => some (.eOnly, false, p)
  | .frnd p _ _ => some (.eOnly, false, p)
  | .fclass p _ _ _ => some (.eOnly, false, p)
  | .fflag p _ _ => some (.eOnly, false, p)
  | .fscl p _ _ _ => some (.eOnly, false, p)
  | .fdot2 p _ _ _ => some (.eOnly, false, p)
  | .fdot4 p _ _ _ => some (.eOnly, false, p)
  | .fdot8 p _ _ _ => some (.eOnly, false, p)
  | .cvt p _ _ _ _ => some (.both, false, p)
  | .cvtnPk p _ _ _ => some (.eOnly, false, p)
  | .cvtnUp p _ _ _ => some (.eOnly, false, p)
  | .cvtnPk6 p _ _ _ => some (.eOnly, false, p)
  | .cvtnUp6 p _ _ _ => some (.eOnly, false, p)
  | .mxscale p _ _ _ => some (.eOnly, false, p)
  | .shflI p _ _ _ => some (.eOnly, false, p)
  | .shflX p _ _ _ => some (.eOnly, false, p)
  | .shflD p _ _ _ => some (.eOnly, false, p)
  | .bcast p _ _ _ => some (.eOnly, false, p)
  | .redAdd p _ _ _ => some (.eOnly, false, p)
  | .redMin p _ _ _ => some (.eOnly, false, p)
  | .redMax p _ _ _ => some (.eOnly, false, p)
  | .scanAdd p _ _ _ _ => some (.eOnly, false, p)
  | .scanMin p _ _ _ _ => some (.eOnly, false, p)
  | .scanMax p _ _ _ _ => some (.eOnly, false, p)
  | .tatomWr p _ _ _ => some (.both, false, p)
  | .tatomAdd p _ _ _ => some (.both, false, p)
  | .tatomMax p _ _ _ => some (.both, false, p)
  | .tatomCas p _ _ _ => some (.both, false, p)
  | .sdq p _ _ => some (.eOnly, false, p)
  | .sendx p _ _ => some (.eOnly, false, p)
  | .qstatE p _ _ => some (.eOnly, false, p)
  | .qflushE p _ => some (.eOnly, false, p)
  | .qend p _ _ => some (.eOnly, false, p)
  | .feed p _ _ => some (.aOnly, false, p)
  | .feedEnd p _ _ => some (.aOnly, false, p)
  | .recvx p _ _ => some (.aOnly, false, p)
  | .qstatA p _ _ => some (.aOnly, false, p)
  | .qflushA p _ => some (.aOnly, false, p)
  | .ldqB8 p _ _ _ => some (.aOnly, false, p)
  | .ldqB16 p _ _ _ => some (.aOnly, false, p)
  | .ldqB32 p _ _ _ => some (.aOnly, false, p)
  | .ldqB64 p _ _ _ => some (.aOnly, false, p)
  | .ldqK16 p _ _ _ => some (.aOnly, false, p)
  | .ldqLine p _ _ _ => some (.aOnly, false, p)
  | .ldI8 p _ _ _ => some (.aOnly, false, p)
  | .ldN8 p _ _ _ => some (.aOnly, false, p)
  | .ldI16 p _ _ _ => some (.aOnly, false, p)
  | .ldN16 p _ _ _ => some (.aOnly, false, p)
  | .ldI32 p _ _ _ => some (.aOnly, false, p)
  | .ldN32 p _ _ _ => some (.aOnly, false, p)
  | .ldB64 p _ _ _ => some (.aOnly, false, p)
  | .stB8 p _ _ _ => some (.aOnly, false, p)
  | .stB16 p _ _ _ => some (.aOnly, false, p)
  | .stB32 p _ _ _ => some (.aOnly, false, p)
  | .stB64 p _ _ _ => some (.aOnly, false, p)
  | .staB8 p _ _ _ => some (.aOnly, false, p)
  | .staB16 p _ _ _ => some (.aOnly, false, p)
  | .staB32 p _ _ _ => some (.aOnly, false, p)
  | .staB64 p _ _ _ => some (.aOnly, false, p)
  | .atomAdd p _ _ _ _ => some (.aOnly, false, p)
  | .atomMin p _ _ _ _ => some (.aOnly, false, p)
  | .atomMinN p _ _ _ _ => some (.aOnly, false, p)
  | .atomMax p _ _ _ _ => some (.aOnly, false, p)
  | .atomMaxN p _ _ _ _ => some (.aOnly, false, p)
  | .atomAnd p _ _ _ _ => some (.aOnly, false, p)
  | .atomOr p _ _ _ _ => some (.aOnly, false, p)
  | .atomXor p _ _ _ _ => some (.aOnly, false, p)
  | .atomXchg p _ _ _ _ => some (.aOnly, false, p)
  | .cas p _ _ _ _ => some (.aOnly, false, p)
  | .credAddI32 p _ _ _ => some (.aOnly, false, p)
  | .credAddF32 p _ _ _ => some (.aOnly, false, p)
  | .credMinI32 p _ _ _ => some (.aOnly, false, p)
  | .credMaxI32 p _ _ _ => some (.aOnly, false, p)
  | .credOrB32 p _ _ _ => some (.aOnly, false, p)
  | .credAddI64 p _ _ _ => some (.aOnly, false, p)
  | .credMaxF32 p _ _ _ => some (.aOnly, false, p)
  | .fence p => some (.aOnly, false, p)
  | .pref p _ _ => some (.aOnly, false, p)
  | .tgive p _ => some (.aOnly, false, p)
  | .tclaim p _ => some (.aOnly, false, p)
  | .tchk p _ _ => some (.aOnly, false, p)
  | .fopen p _ _ _ => some (.aOnly, false, p)
  | .fadv p _ _ _ => some (.aOnly, false, p)
  | .fend p _ => some (.aOnly, false, p)
  | .fclose p _ => some (.aOnly, false, p)
  | .kins p _ _ _ => some (.aOnly, false, p)
  | .kget p _ _ _ => some (.aOnly, false, p)
  | .ringClaim p _ _ => some (.aOnly, false, p)
  | .ringPost p _ _ => some (.aOnly, false, p)
  | .ringTake p _ _ => some (.aOnly, false, p)
  | .ringFree p _ _ => some (.aOnly, false, p)
  | .kick p _ _ _ => some (.aOnly, false, p)
  | .mbinit p _ _ _ => some (.aOnly, false, p)
  | .mbexp p _ _ _ => some (.aOnly, false, p)
  | .mbarr p _ _ => some (.aOnly, false, p)
  | .mbwait p _ _ _ => some (.aOnly, false, p)
  | .xform p _ _ _ => some (.aOnly, false, p)
  | .arrive p _ _ => some (.both, false, p)
  | .arwait p _ _ => some (.both, false, p)
  | .bwait p _ => some (.both, false, p)
  | .ngetB32 p _ _ _ => some (.aOnly, false, p)
  | .nsend p _ _ => some (.aOnly, false, p)
  | .nfence p => some (.aOnly, false, p)
  | .kvlk p _ _ => some (.aOnly, false, p)
  | .kvins p _ _ _ => some (.aOnly, false, p)
  | .kvdel p _ _ => some (.aOnly, false, p)
  | .kvref p _ _ _ => some (.aOnly, false, p)
  | .kvpos p _ _ _ => some (.aOnly, false, p)
  | .kvq p _ _ _ => some (.aOnly, false, p)
  | .mcv p _ _ => some (.eOnly, false, p)
  | .mma p _ => some (.eOnly, false, p)
  | .mmaMinplus p _ => some (.eOnly, false, p)
  | .mmaMaxtimes p _ => some (.eOnly, false, p)
  | .mmaOrand p _ => some (.eOnly, false, p)
  | .mmaStage p _ => some (.eOnly, false, p)
  | .mzero p _ => some (.eOnly, false, p)
  | .mrdF32 p _ _ _ _ => some (.eOnly, false, p)
  | .mrdSt p _ _ _ => some (.eOnly, false, p)
  | .mwrF32 p _ _ _ _ => some (.eOnly, false, p)
  | .mwrSt p _ _ _ => some (.eOnly, false, p)
  | .mcont p _ => some (.eOnly, false, p)
  | .mscl p _ _ _ => some (.eOnly, false, p)
  | .smx p _ _ _ => some (.eOnly, false, p)
  | .smrg p _ _ => some (.eOnly, false, p)
  | .smfin p _ => some (.eOnly, false, p)
  | .tenq p _ => some (.both, false, p)
  | .vabort p _ _ => some (.both, false, p)
  | .tstamp p _ => some (.both, false, p)
  | .rdsr p _ n => some (.both, srReadPriv n.toNat || srReadEcide n.toNat, p)
  | .wrsr p _ _ => some (.both, true, p)
  | .tlbi p _ => some (.both, true, p)
  | .tlbiAll p => some (.both, true, p)
  | .mcallTelemetry p _ _ => some (.both, false, p)
  | .mcallLocate p _ => some (.both, false, p)
  | .mcallPeer p _ _ => some (.both, false, p)
  | .reconvergenceTimeout _ _ => none
  | .binAgeDraw _ _ => none
  | .yieldExpiry _ _ => none
  | .taskEnded _ => none
  | .drain _ _ => none
  | .merge _ _ => none
  | .ldqFill _ _ _ => none
  | .translationComplete _ _ => none
  | .pendingFaultDelivery _ _ => none
  | .queueDeadlock _ _ => none
  | .streamElement _ _ _ => none
  | .mmaComplete _ => none
  | .bearCommandComplete _ => none
  | .bearFault _ _ => none
  | .copyRow _ => none
  | .settPairPass _ _ => none
  | .returnMerge _ => none
  | .kvqComplete _ => none
  | .kvqFail _ => none
  | .nsendRow _ => none
  | .rowAck _ => none
  | .remoteRowArrival _ => none
  | .remoteTimeout _ => none
  | .remoteRead _ _ _ => none
  | .ngetResponse _ _ _ _ => none
  | .mcallAnswer _ _ => none
  | .expertStarved _ _ => none
  | .breakpointMatch _ _ => none
  | .resume _ => none
  | .stepGroup _ _ => none
  | .submit _ _ => none
  | .registerWrite _ _ _ _ => none
  | .hostApertureWrite _ _ _ => none
  | .hostApertureRead _ _ _ => none
  | .commit _ => none
  | .successorDecrement _ => none
  | .bindRecord _ _ _ => none
  | .teamStart _ => none
  | .eviction _ _ => none
  | .groupSave _ _ => none
  | .thermalMigration _ => none
  | .lentTileDrain _ => none
  | .l2WriteBack _ _ => none
  | .scrubError _ _ => none
  | .dirtyHarvest _ _ => none
  | .swapOut _ => none
  | .swapIn _ => none
  | .migrationRound _ => none
  | .precopyFrame _ _ _ _ => none
  | .partitionHeader _ => none
  | .teamContext _ _ => none
  | .taskRecord _ _ => none
  | .bearContinuation _ _ => none
  | .lynxFlows _ => none
  | .timeRecord _ => none
  | .telemetryRingTail _ => none
  | .bearCheckStatistics _ => none
  | .endOfImage _ => none
  | .unknownRecord _ _ => none
  | .quote _ _ => none
  | .ecideHandover _ _ => none
  | .partitionCreate _ _ => none
  | .partitionResize _ _ _ => none
  | .partitionDelete _ => none
  | .coreRetirement _ => none
  | .pseudoChannelRetirement _ _ => none
  | .lynxLaneDegrade _ _ => none
  | .pcieDegrade _ => none
  | .hbmRecalibration _ _ => none
  | .powerCap _ => none
  | .coolantOverLimit => none
  | .powerGood _ => none
  | .powerRemoved => none
  | .decodeFault _ => none
  | .gtcIncrement => none
  | .hostStoreCompletion _ _ => none
  | .remoteRefused _ => none
  | .imageRefused _ _ => none
  | .tilraxDbgSession _ _ => none

end Sys2Proof.Safety
end

