-- ==== Sys2Proof/Certificates/Slice0/Obligations.lean ====
section
/-! DEFINITION. The statements for the provers. -/

open Sys2Proof Sys2Proof.Machine Sys2Proof.Safety

/-- Right after reset the device has power and has not yet started up: the GTC reads 0 (R14), no partition, task, core grant, team, group,
thread, engine request or ring exists, no measurement stands in the log, no issue is in progress, and memory lists nothing, in
canonical form. What an unlisted byte reads as is the model's choice (log 1) and is not stated here. -/
def Obligations.Reset : Prop :=
  let s := State.reset
  s.power = true ∧ s.up = false ∧ s.gtc = 0 ∧ s.parts = [] ∧ s.tasks = [] ∧ s.cores = [] ∧ s.clusters = [] ∧ s.teams = [] ∧ s.threads = [] ∧
    s.pairs = [] ∧ s.groups = [] ∧ s.splits = [] ∧ s.copies = [] ∧ s.kvqs = [] ∧ s.sends = [] ∧ s.rings = [] ∧ s.mlog = 0 ∧ s.quotes = [] ∧
    s.cur = none ∧ s.mem = [] ∧ Memory.wf s.mem = true

/-- Where the next act of a step is the issue of a group that may issue, the group stands at an instruction (having entered its block, if
it stood before it) and matches no breakpoint, and the words at its place are fetched and decode to i, then the step is exec of i at
that state with the issue noted, followed by what an issue leaves: the Fox is busy with an access group for as many clocks as it has
eights of lanes (R90), a single step of the debugger ends (R205), other groups that end the same task in the cycle write their record
(R195), what was filed enters its bins after the cycle's last issue (R80), no issue is in progress any more, and the model's own
counter of free choices moves on. -/
def Obligations.StepRunsDecoded : Prop :=
  ∀ (s s1 s2 : State) (gid : Nat) (g : Group) (ws : List Word) (i : Instr), NextIssue s s1 gid → AtInstr s1 s2 gid g →
    s2.fetchSeq (s2.grp gid).tm (s2.grp gid).pc (s2.grp gid).left = .ok ws → decodeSeq ws = .ok i →
    step s = finish (andThen (exec i { s2 with cur := some ((s2.grp gid).cur gid ws.length) })
      (fun t => (s1.endMates gid (t.afterIssue (s1.coreOf g.tm) g)).closeIssues (s1.coreOf g.tm)))

/-- The words that the spec itself writes out decode to the instructions it writes beside them: nop, exit, yield, ret and brx x7 in their
entries; fmul with an immediate, a guarded fadd, add with an immediate, a load with order and observers, and a cvt under its rounding
mode in Table 2-9. -/
def Obligations.DecodeWords : Prop :=
  decodeSeq [0x05800000#32] = .ok .nop ∧ decodeSeq [0x05000000#32] = .ok .exit ∧ decodeSeq [0x06000000#32] = .ok .yield ∧
    decodeSeq [0x04000000#32] = .ok .ret ∧ decodeSeq [0x04800700#32] = .ok (.brx (.reg 7#7)) ∧
    decodeSeq [0xFD3FC000#32, 0x350202FF#32] = .ok (.fmul { vx := none, mxa := none } 2#7 (.reg 2#7) (.imx 0x3FC000#24)) ∧
    decodeSeq [0xFC0A0010#32, 0x34030102#32] =
      .ok (.fadd { vx := some { mask := 5#7, neg := true, zero := false, rc := 0#3, c := 0#8 }, mxa := none } 3#7 (.reg 1#7) (.reg 2#7)) ∧
    decodeSeq [0xFD0186A0#32, 0x1C0506FF#32] = .ok (.add { vx := none, mxa := none } 5#7 (.reg 6#7) (.imx 0x186A0#24)) ∧
    decodeSeq [0xFD0186A0#32, 0xFEA10000#32, 0x6A0503FF#32] =
      .ok (.ldI32 { vx := none, mxa := some { obs := 0x14#5, order := 1#3, hint := 0#2, rope := false } } 5#7 (.reg 3#7) (.imx 0x186A0#24)) ∧
    decodeSeq [0xFC000AA0#32, 0x4D06022A#32] =
      .ok (.cvt { vx := some { mask := 0#7, neg := false, zero := false, rc := 0#3, c := 0x55#8 }, mxa := none } 2 6#7 (.reg 2#7) 0x2A#8)

/-- For every instruction of the core that is well formed, with every operand and every prefix at every value that its encoding admits,
the decoder reads from its words that instruction. (An event has no words.) -/
def Obligations.RoundTrip : Prop :=
  ∀ i : Instr, i.wf = true → encode i ≠ [] → decodeSeq (encode i) = .ok i

/-- In every state whose memory is in canonical form (addresses rise strictly, and no entry equals what an unlisted address reads as), a
step that answers a next state leaves memory in canonical form, so that equal memories are equal data. -/
def Obligations.StepKeepsMemory : Prop :=
  ∀ s t : State, Memory.wf s.mem = true → step s = .next t → Memory.wf t.mem = true

/-- After a byte is written at a location of HBM, host memory or an existing team's scratchpad, that location reads the byte and every
location of another number reads as before; the marks that the model keeps with the write change no byte. -/
def Obligations.ReadAfterWrite : Prop :=
  ∀ (s : State) (l m : Loc) (b : Byte) (by_ : Option Nat), (∀ tm off, l = .scratch tm off → (kget s.teams tm).isSome ∧ off < 2 ^ 20) →
    (∀ tm off, m = .scratch tm off → off < 2 ^ 20) →
    (s.writeByte l b by_).readM m = if m.key = l.key then b else s.readM m

/-- While the module has no power, every instruction and every event but POWER_GOOD stops with the fault that names it, and POWER_GOOD is
the only constructor that does not. -/
def Obligations.PowerOff : Prop :=
  ∀ (i : Instr) (s : State), s.power = false → (∀ n, i ≠ .powerGood n) → exec i s = .fault .poweredOff

/-- An instruction marked E that issues on the access side, or one marked A that issues on the execute side, raises SIDE_MISMATCH (code
0x04) to its active threads at the instruction, whatever its operands and the mode (R51, R53); nothing of it is performed. (That an
inactive thread is left out of the entry is log 34's reading.) -/
def Obligations.SideMismatch : Prop :=
  Cause.sideMismatch.code = 0x04 ∧ ∀ (i : Instr) (need : SideReq) (priv : Bool) (p : Pfx) (s : State) (c : Cur) (act : List Nat),
    entry i = some (need, priv, p) → s.power = true → s.cur = some c → s.activeOf c p = act → act ≠ [] →
    (need = .eOnly ∧ c.side = .a) ∨ (need = .aOnly ∧ c.side = .e) →
    exec i s = .next (s.raise c.gid c.pc c.hdr act (fun _ => s.hit .sideMismatch 0))

/-- rfh, wrsr, tlbi and rdsr of a register of a privileged read class raise PRIV (code 0x06) to their active threads outside handler code,
whatever their operands; rdsr and wrsr of a register that only the management core reads or writes raise it in handler code too. -/
def Obligations.Privilege : Prop :=
  Cause.priv.code = 0x06 ∧
    (∀ (i : Instr) (need : SideReq) (p : Pfx) (s : State) (c : Cur) (act : List Nat),
      entry i = some (need, true, p) → s.power = true → s.cur = some c → s.activeOf c p = act → act ≠ [] →
      ¬ (need = .eOnly ∧ c.side = .a) → ¬ (need = .aOnly ∧ c.side = .e) → (s.grp c.gid).priv = false →
      exec i s = .next (s.raise c.gid c.pc c.hdr act (fun _ => s.hit .priv 0))) ∧
    (∀ (p : Pfx) (d n : BitVec 7) (a : Src) (s : State) (c : Cur) (act : List Nat),
      s.power = true → s.cur = some c → s.activeOf c p = act → act ≠ [] →
      (n.toNat = 0x11 → exec (.rdsr p d n) s = .next (s.raise c.gid c.pc c.hdr act (fun _ => s.hit .priv 0))) ∧
      (n.toNat ∈ [0x11, 0x1C, 0x1D] → exec (.wrsr p n a) s = .next (s.raise c.gid c.pc c.hdr act (fun _ => s.hit .priv 0))))

/-- An instruction none of whose threads is active raises nothing and completes, on either side and in either mode: the group moves to the
next instruction, and no thread outside it, no pair, no memory and no other part of the device changes; without zero = 1 its registers
stay, and with zero = 1 an instruction on registers clears the destinations of its threads where its side, its mode and its operands
are right. -/
def Obligations.InactiveRetires : Prop :=
  (∀ (i : Instr) (need : SideReq) (priv : Bool) (p : Pfx) (s : State) (c : Cur),
      entry i = some (need, priv, p) → s.power = true → s.cur = some c → s.activeOf c p = [] → Falls s c → p.zeroes = false →
      ∃ t, exec i s = .next t ∧ Completes s t c) ∧
    (∀ (i : Instr) (r : LaneRow) (s : State) (c : Cur), laneRow i = some r → s.power = true → s.cur = some c → s.activeOf c r.p = [] →
      Falls s c → ¬ (r.need = .eOnly ∧ c.side = .a) → ¬ (r.need = .aOnly ∧ c.side = .e) → (r.priv = true → (s.grp c.gid).priv = true) →
      r.ok s c = true →
      ∃ t, exec i s = .next t ∧ FramePairs s t ∧ MovesOn s t c ∧
        (∀ u ∈ (s.grp c.gid).members, t.thr (c.key u) = doneThread (s.grp c.gid).priv
          (if r.p.zeroes then r.z c.side (s.thr (c.key u)) else s.thr (c.key u))) ∧
        (∀ k, Outside s c k → t.thr k = s.thr k))

/-- On the execute side a v register reads its word, or an even and odd pair with the low word first; on the access side an x register
reads 64 bits. A small immediate is its code less 16, an IMX value is sign-extended for an integer operand, is bits 31 to 8 of an f32,
and stands in both halves of a packed pair; the code for zero reads 0, and the codes for thread, lane and rank read those. A pop reads
the head of its queue and removes it, and a peek reads it only; on the execute side it is a data queue, on the access side a return
queue. That holds where nothing that is read holds an uncorrectable error; a register that does raises INTEGRITY instead (R131). -/
def Obligations.SourceValues : Prop :=
  ∀ (s : State) (k : Nat) (rd : Rd), (∀ n : BitVec 7, n.toNat ∈ (s.thr k).bad → s.readSrc k .int32 (.reg n) rd = .trap .integrity 0) ∧
    ((s.thr k).bad = [] →
    (keySide k = .e → ∀ n : BitVec 7, s.readSrc k .int32 (.reg n) rd = .ok (((s.thr k).getV n.toNat).setWidth 64, rd) ∧
      s.readSrc k .int64 (.reg n) rd = .ok ((s.thr k).getV (n.toNat + 1) ++ (s.thr k).getV n.toNat, rd)) ∧
    (keySide k = .a → ∀ n : BitVec 7, s.readSrc k .int64 (.reg n) rd = .ok ((s.thr k).getX n.toNat, rd)) ∧
    (∀ n : BitVec 5, s.readSrc k .int32 (.imm n) rd = .ok ((BitVec.ofInt 32 ((n.toNat : Int) - 16)).setWidth 64, rd) ∧
      s.readSrc k .int64 (.imm n) rd = .ok (BitVec.ofInt 64 ((n.toNat : Int) - 16), rd)) ∧
    (∀ v : BitVec 24, s.readSrc k .int32 (.imx v) rd = .ok ((v.signExtend 32).setWidth 64, rd) ∧
      s.readSrc k .int64 (.imx v) rd = .ok (v.signExtend 64, rd) ∧
      s.readSrc k (.flt .f32) (.imx v) rd = .ok (BitVec.ofNat 64 (v.toNat * 256), rd) ∧
      s.readSrc k (.pair .f16) (.imx v) rd = .ok (BitVec.ofNat 64 (v.toNat % 65536 * 65537), rd)) ∧
    (∀ ty, s.readSrc k ty .zero rd = .ok (0, rd) ∧ s.readSrc k ty .thread rd = .ok (BitVec.ofNat 64 (keyIx k), rd) ∧
      s.readSrc k ty .lane rd = .ok (BitVec.ofNat 64 (s.thr k).lane, rd) ∧
      s.readSrc k ty .rank rd = .ok (BitVec.ofNat 64 (s.team (keyTm k)).rank, rd)) ∧
    (keySide k = .e → ∀ (q : BitVec 4) (w : Word) (tag : Bool) (clk : Clock) (rest : List Place),
      (rd.p.queue q.toNat).places = .full w tag clk false :: rest → (rd.p.queue q.toNat).flushed = false →
      s.readSrc k .int32 (.pop q) rd = .ok (w.setWidth 64,
        { p := rd.p.setQ q.toNat { rd.p.queue q.toNat with places := rest, endSeen := tag }, clk := clkJoin rd.clk clk }) ∧
      s.readSrc k .int32 (.peek q) rd = .ok (w.setWidth 64, rd)) ∧
    (keySide k = .a → ∀ (q : BitVec 4) (e : Elem) (rest : List Elem), rd.p.getRq q.toNat = e :: rest → e.bad = false →
      s.readSrc k .int64 (.pop q) rd = .ok (e.w.setWidth 64, { p := rd.p.setRq q.toNat rest, clk := clkJoin rd.clk e.clk }) ∧
      s.readSrc k .int64 (.peek q) rd = .ok (e.w.setWidth 64, rd)))

/-- Predicate p0 always reads 1 and a write to it is discarded; any other predicate reads what was last written to it and no write changes
another; the active threads of an issue are the members of its group for which the guard holds. -/
def Obligations.Predicates : Prop :=
  (∀ (t : Thread) (b : Bool), t.pred 0 = true ∧ t.setPred 0 b = t) ∧
    (∀ (t : Thread) (n m : Nat) (b : Bool), n ≠ 0 → n < 128 → (t.setPred n b).pred m = if m = n then b else t.pred m) ∧
    (∀ (s : State) (c : Cur) (v : Vx) (u : Nat) (m : Option Mxa), u ∈ s.activeOf c { vx := some v, mxa := m } ↔
      u ∈ (s.grp c.gid).members ∧ (s.thr (c.key u)).pred v.mask.toNat = !v.neg) ∧
    (∀ (s : State) (c : Cur) (m : Option Mxa), s.activeOf c { vx := none, mxa := m } = (s.grp c.gid).members)

/-- A word with major opcode 62 among the words of a block, whatever prefixes stand before it, is fetched as the end of an instruction
sequence that decodes to ILLEGAL_OP (0x01), and the group that issues it raises that cause at the sequence. -/
def Obligations.HeaderWordIllegal : Prop :=
  Cause.illegalOp.code = 0x01 ∧ ∀ (s : State) (gid : Nat) (ws : List Word) (w : Word), s.power = true → opM w = 62#6 →
    s.matches gid = false → s.fetchSeq (s.grp gid).tm (s.grp gid).pc (s.grp gid).left = .ok (ws ++ [w]) →
    ∃ s1 : State, s1 = { s with cur := some ((s.grp gid).cur gid (ws.length + 1)) } ∧
      s.fetchExec gid = .exec (.decodeFault .illegalOp) s1 ∧
      exec (.decodeFault .illegalOp) s1 =
        .next (s1.raise gid (s.grp gid).pc (s.grp gid).hdr (s.grp gid).members (fun _ => s1.hit .illegalOp 0))

/-- A thread that enters the handler finds its cause, DONE and DEFER, the address of the instruction in sr.fpc and of its block's header
in sr.fhdr, the address, stamp, other access and task that its cause reports, and its own sr.hscr kept; sr.fcount counts entries at
one instruction with nothing completed outside handler code between them, and starts again at 1 elsewhere. -/
def Obligations.ExceptionRegisters : Prop :=
  ∀ (h : HRegs) (pc hdr : DWord) (x : Hit), let r := enterRegs h pc hdr x
    r.cause = x.cause ∧ r.done = x.done ∧ r.defer = x.defer ∧ r.fpc = pc ∧ r.fhdr = hdr ∧ r.faddr = x.faddr ∧ r.fgtc = x.fgtc ∧
      r.other = x.other ∧ r.otask = x.otask ∧ r.hscr = h.hscr ∧ r.progressed = false ∧
      (h.fpc = pc → h.progressed = false → r.fcount = h.fcount + 1) ∧ (h.fpc ≠ pc ∨ h.progressed = true → r.fcount = 1)

/-- Where a group raises one cause to all its members at an instruction and the entry can be taken, every member's handler registers say
what it met and where (Table 9-1), its park ends and every other register of it stays; the group stands, privileged, before the header
that the handler table names for its side and the cause, with the same members and records; and no other thread, pair, team or byte of
memory and no other group changes. -/
def Obligations.ExceptionEntry : Prop :=
  ∀ (s : State) (gid : Nat) (pc hdr a : DWord) (x : Hit), x.owed = .none → CanEnter s gid pc hdr x a →
    let g := s.grp gid
    let t := s.raise gid pc hdr g.members (fun _ => x)
    t.grp gid = { g with pc := a, hdr := a, len := 0, entering := true, priv := true } ∧
      (∀ n, n ≠ gid → t.grp n = s.grp n) ∧
      (∀ u ∈ g.members, Entered (s.thr (g.key u)) (t.thr (g.key u)) pc hdr x) ∧
      (∀ k, (∀ u ∈ g.members, g.key u ≠ k) → t.thr k = s.thr k) ∧
      { t with threads := s.threads, groups := s.groups, parts := s.parts, mclog := s.mclog } = s ∧ (∀ l, t.readM l = s.readM l)

/-- A fault raised in handler code, an entry that would be a thread's 64th in a row at one instruction, and a handler table whose entry
for the cause is 0 or cannot be read, each end the group and with it its task: the task's state is 5, and its team and every thread
and group of it are gone. -/
def Obligations.HandlerEnds : Prop :=
  ∀ (s : State) (gid : Nat) (pc hdr : DWord) (x : Hit), x.owed = .none →
    let g := s.grp gid
    let q := (s.team g.tm).task
    let s1 := s.setRegs g.tm g.side g.members pc hdr (fun _ => x)
    (kget s.groups gid).isSome → (kget s.teams g.tm).isSome → (kget s.tasks q).isSome → g.members ≠ [] → g.members.Nodup →
    g.priv = true ∨ (∃ u ∈ g.members, entryCount (s.thr (g.key u)).h pc = 64) ∨
      (x.cause ≠ .none ∧ (s1.vector g.tm g.side x.cause = (some 0, false) ∨ s1.vector g.tm g.side x.cause = (none, false))) →
    let t := s.raise gid pc hdr g.members (fun _ => x)
    (t.task q).state = 5 ∧ kget t.teams g.tm = none ∧ (∀ e ∈ t.threads, keyTm e.1 ≠ g.tm) ∧ (∀ e ∈ t.groups, e.2.tm ≠ g.tm)

/-- Each instruction of Tables 20-1 (but the divisions), 20-3 and 20-8, of the bit-field family and perm, and of the 64-bit execute
family, on every side, guard, operand form and prefix that its entry accepts, completes where its operands can be read: D of each
active thread receives the function of the table of the operands, modulo 2^32 on the execute side and 2^64 on the access side or for a
64-bit form. Nothing else changes: no thread outside the group, no other pair, no memory, no team or device register; inactive threads
keep their registers, or have the destination cleared under zero = 1; and the group moves on. -/
def Obligations.IntegerArithmetic : Prop :=
  ∀ (i : Instr) (r : LaneRow), arithRow i = some r ∨ bitRow i = some r ∨ fieldRow i = some r ∨ longRow i = some r → r.Holds i

/-- div, div.n, rem and rem.n, on either side and in every operand form, complete where the operands can be read and no divisor is 0: D
receives the quotient truncated toward zero, or the remainder with the dividend's sign, signed or unsigned, modulo the width. Nothing
else changes: no thread outside the group, no other pair, no memory, no team or device register; inactive threads keep their
registers, or have the destination cleared under zero = 1; and the group moves on. -/
def Obligations.Division : Prop :=
  ∀ (i : Instr) (r : LaneRow), divRow i = some r → r.Holds i

/-- Where the operands of a division can be read, and value(B) is 0 for at least one active thread, DIV_ZERO (0x21) is raised at the
instruction: the threads with the zero divisor report it and the others report none; the exception is taken from the state before the
instruction, so that no thread of the group writes its destination. Every other integer arithmetic function completes wherever its
operands can be read. -/
def Obligations.DivZero : Prop :=
  Cause.divZero.code = 0x21 ∧
    (∀ (i : Instr) (p : Pfx) (d : BitVec 7) (a b : Src) (s : State) (c : Cur) (act : List Nat) (vs : Nat → List DWord) (rd : Nat → Rd),
      i ∈ [.div p d a b, .divN p d a b, .rem p d a b, .remN p d a b] → Issues s c act .both false p → Falls s c →
      srcsOk s c [(intOf c.side, a), (intOf c.side, b)] = true → dstOk c.side false d = true →
      (∀ u ∈ act, s.readSrcs (c.key u) [(intOf c.side, a), (intOf c.side, b)] (s.rd (c.key u)) = .ok (vs u, rd u)) →
      (∃ u ∈ act, intValue (fun _ _ y _ => y) (c.key u) (vs u) = 0) →
      ∃ x : Nat → Hit, exec i s = .next (s.raise c.gid c.pc c.hdr act x) ∧
        ∀ u ∈ act, x u = if intValue (fun _ _ y _ => y) (c.key u) (vs u) = 0 then s.hit .divZero 0 else s.noHit) ∧
    (∀ (i : Instr) (r : LaneRow) (s : State) (c : Cur) (act : List Nat), arithRow i = some r → Issues s c act .both false r.p → Falls s c →
      r.ok s c = true → (∀ u ∈ act, ∃ l, r.f s c (c.key u) = .ok l) → ∃ t, exec i s = .next t ∧ FramePairs { s with pairs := t.pairs } t)

/-- cmp in its eight relations, plog, pmov, pset and tstamp complete where their operands can be read: predicate D (eight predicates for
pset) receives the relation of Table 20-9 or the function of Table 22-9, read before it is written, with p0 never written; tstamp
gives D the GTC. Nothing else changes: no thread outside the group, no other pair, no memory, no team or device register; inactive
threads keep their registers, or have the destination cleared under zero = 1; and the group moves on. -/
def Obligations.ComparisonsAndPredicates : Prop :=
  ∀ (i : Instr) (r : LaneRow), cmpRow i = some r ∨ predRow i = some r → r.Holds i

/-- The floating-point family in f32, f64, f16x2 and bf16x2 and the floating comparisons, in every operand form, guard and rounding,
complete where their operands can be read: D receives the result of each element under the thread's mode, flags are only added, and
the generator moves on by the draws made; a comparison writes predicate D, with a NaN only ne and un hold, and NV is set by a
signalling NaN or, for the ordered relations, by any. Nothing else changes: no thread outside the group, no other pair, no memory, no
team or device register; inactive threads keep their registers, or have the destination cleared under zero = 1; and the group moves
on. -/
def Obligations.FloatArithmetic : Prop :=
  ∀ (i : Instr) (r : LaneRow), floatRow i = some r ∨ fcmpRow i = some r → r.Holds i

/-- The special functions, fdiv, frnd, fclass, fflag, fscl, fdot and the conversions, with every type pair, format, rounding and policy
that their entries accept, complete where their operands can be read and no element's policy is a fault: D (or its register range)
receives the converted or computed values, and the flags and the generator change as the entry says. Nothing else changes: no thread
outside the group, no other pair, no memory, no team or device register; inactive threads keep their registers, or have the
destination cleared under zero = 1; and the group moves on. -/
def Obligations.SpecialAndConversions : Prop :=
  ∀ (i : Instr) (r : LaneRow), specialRow i = some r ∨ convRow i = some r → r.Holds i

/-- shfl gives D value(A) of the source lane where a thread is active there and the thread's own value otherwise; red gives every active
thread the sum, least or greatest over all active threads; scan the same over the lanes below, with or without its own, in ascending
lane order, 32-bit integers modulo 2^32 and f32 sums rounded once. Nothing else changes: no thread outside the group, no other pair,
no memory, no team or device register; inactive threads keep their registers, or have the destination cleared under zero = 1; and the
group moves on. -/
def Obligations.CrossLane : Prop :=
  ∀ (i : Instr) (r : LaneRow), crossRow i = some r → r.Holds i

/-- sdq, sendx, feed, feed.end, recvx, qstat, qend, fadv, fend and fclose complete where each thread's attempt succeeds: the word is
pushed or popped on the pair's queue, the status or end mark is delivered, or the open stream's remaining count changes, for each
active thread. Nothing else changes: no thread outside the group, no other pair, no memory, no team or device register; inactive
threads keep their registers, or have the destination cleared under zero = 1; and the group moves on. -/
def Obligations.QueueInstructions : Prop :=
  ∀ (i : Instr) (r : LaneRow), queueRow i = some r → r.Holds i

/-- fence and nfence complete where the thread's earlier accesses have reached the classes of their mask; tchk writes whether threads own
the tile into its predicate; rdsr, of every register the thread's mode may read, writes its value into D. Nothing else changes: no
thread outside the group, no other pair, no memory, no team or device register; inactive threads keep their registers, or have the
destination cleared under zero = 1; and the group moves on. -/
def Obligations.FencesAndReads : Prop :=
  ∀ (i : Instr) (r : LaneRow), plainRow i = some r → r.Holds i

/-- smov, smov.hi and tatom complete where their operands can be read: sD of the side, or trN with its old value in D, as Table 23-7 says.
The threads act in ascending lane, each on the state the one before leaves; after the last, their instruction is complete, inactive
threads keep their registers or have the destination cleared under zero = 1, the group moves on and nothing else changes. -/
def Obligations.TeamRegisters : Prop :=
  ∀ (i : Instr) (r : SeqRow), teamRow i = some r → r.Holds i

/-- ld in its seven types, every address form and every order completes where each thread's checks pass in its turn. The threads act in
ascending lane, each on the state the one before leaves; after the last, their instruction is complete, inactive threads keep their
registers or have the destination cleared under zero = 1, the group moves on and nothing else changes. -/
def Obligations.Loads : Prop :=
  ∀ (i : Instr) (r : SeqRow), loadRow i = some r → r.Holds i

/-- st and sta in their four sizes, every address form and every order complete where each thread's checks pass in its turn. The threads
act in ascending lane, each on the state the one before leaves; after the last, their instruction is complete, inactive threads keep
their registers or have the destination cleared under zero = 1, the group moves on and nothing else changes. -/
def Obligations.Stores : Prop :=
  ∀ (i : Instr) (r : SeqRow), storeRow i = some r → r.Holds i

/-- atom in its nine operations and cas, in 32 and 64 bits, complete where every thread passes its checks before any step and each step
succeeds: the new value is that of Table 20-5. The threads act in ascending lane, each on the state the one before leaves; after the
last, their instruction is complete, inactive threads keep their registers or have the destination cleared under zero = 1, the group
moves on and nothing else changes. -/
def Obligations.Atomics : Prop :=
  ∀ (i : Instr) (r : SeqRow), atomRow i = some r → r.Holds i

/-- cred in its seven forms, pref and fopen complete where each thread's checks pass in its turn. The threads act in ascending lane, each
on the state the one before leaves; after the last, their instruction is complete, inactive threads keep their registers or have the
destination cleared under zero = 1, the group moves on and nothing else changes. What they leave: outside the scratchpad cred combines
its operand, as Table 20-10 says, into the partial of its word on its core, and no other partial and no byte of memory changes; fopen
gives its queue the stream that the record describes, with its address, stride, element size, count, end mark, order and observers,
and no other queue changes; pref raises nothing and changes no register, queue and byte of memory. -/
def Obligations.Updates : Prop :=
  (∀ (i : Instr) (r : SeqRow), updateRow i = some r → r.Holds i) ∧ CredLeaves ∧ FopenLeaves ∧ PrefLeaves

/-- kins, kget, ring, kvlk, kvins, kvdel, kvref, kvpos, kvq, the mb instructions and xform complete where every thread passes its checks
before any step and each thread's step at the home agent succeeds. The threads act in ascending lane, each on the state the one before
leaves; after the last, their instruction is complete, inactive threads keep their registers or have the destination cleared under
zero = 1, the group moves on and nothing else changes. What a step leaves: kins the k best pairs of R301 in its record, and kget one
entry in x(D); the ring instructions their counters and marks as Table 18-4 says, or a wait, or BAD_OPERAND; kvlk, kvdel and kvins the
entry of the key's chain, or its absence, with an added key in the first free entry or the next spill bucket; kvref and kvpos the
changed field of the descriptor; kvq a request of its list, query and tile, accepted and owing; the mb instructions the dwords of
their object, with its phase moved on where it is complete, or a wait; xform the 128 bytes that its card makes. -/
def Obligations.Units : Prop :=
  (∀ (i : Instr) (r : SeqRow), unitRow i = some r → r.Holds i) ∧ KinsLeaves ∧ KgetGives ∧ RingTakes ∧ RingMarks ∧ StrongAccess ∧ KeyLooks ∧ KeyInserts ∧ KeyCounts ∧ RequestLeaves ∧ MbLeaves ∧ CardLeaves

/-- mcv, tenq, vabort, wrsr of every register that privileged code writes, tlbi and tlbi.all complete where each thread passes its checks
and its step succeeds, the privileged ones in handler code. The threads act in ascending lane, each on the state the one before
leaves; after the last, their instruction is complete, inactive threads keep their registers or have the destination cleared under
zero = 1, the group moves on and nothing else changes. A system register reads what Tables 23-3 and 9-2 lay out; one that privileged
code may write reads back the value written where its layout takes the value; rdsr of an unassigned number, wrsr of an unassigned or
read-only one, and wrsr of a value that the layout refuses raise BAD_OPERAND, and no register is written. -/
def Obligations.SystemInstructions : Prop :=
  (∀ (i : Instr) (r : SeqRow), systemRow i = some r → r.Holds i) ∧ SrLayouts ∧ SrReadsBack ∧ SrRefuses

/-- A thread's load of n bytes whose step is taken gives x(D) the n bytes at x(A) + value(B), the lowest address least significant, as its
store buffer, its task's version and memory hold them, zero-extended or sign-extended, where no update-only partial is owed to their
lines or to the page-table lines that the translation was read from; no other x register and no byte of memory changes. A misaligned
address, of sound registers, raises ALIGN with the address instead. -/
def Obligations.LoadValue : Prop :=
  ∀ (n : Nat) (sg : Bool) (p : Pfx) (d : BitVec 7) (a b : Src) (s : State) (k : Nat), n ∈ [1, 2, 4, 8] →
    ((s.addr k a b).toNat % n ≠ 0 → sound (s.thr k) (regsOf [a, b]) = true → loadTry n sg p d a b s k = .trap .align (s.addr k a b)) ∧
    ∀ (r : Res) (s1 : State), s.resolve (keyTm k) (s.addr k a b) = some r → Quiet s r n → loadTry n sg p d a b s k = .ok s1 →
      let v := leNat (s.loadBytes k r.loc n)
      GivesX s s1 k d (if sg then (BitVec.ofNat (8 * n) v).signExtend 64 else BitVec.ofNat 64 v) ∧ SameMem s s1

/-- A thread's store of the low n bytes of x(D) at x(A) + value(B) whose step is taken enters its store buffer, youngest, with those
bytes, the lowest address least significant, and memory does not change until it drains; under the order sc, in memory that is no
task's version, it is taken at once: exactly the n bytes there read as x(D)'s and every other byte reads as before (a partial owed to
the page-table lines of the translation, which is merged first, aside). A misaligned address, of sound registers, raises ALIGN
instead. -/
def Obligations.StoreBytes : Prop :=
  ∀ (n : Nat) (p : Pfx) (d : BitVec 7) (a b : Src) (s : State) (k : Nat), n ∈ [1, 2, 4, 8] →
    ((s.addr k a b).toNat % n ≠ 0 → sound (s.thr k) (regsOf [a, b, .reg d]) = true → storeTry n p d a b s k = .trap .align (s.addr k a b)) ∧
    ∀ (r : Res) (s1 : State), s.resolve (keyTm k) (s.addr k a b) = some r → WalkClear s r → storeTry n p d a b s k = .ok s1 →
      let bs := leBytes n ((s.thr k).getX d.toNat).toNat
      (p.order ≠ ordSc → (∃ e : SbEntry, (s1.thr k).sb = (s.thr k).sb ++ [e] ∧ e.loc = r.loc ∧ e.bytes = bs ∧ e.order = p.order ∧ e.mask = p.obs) ∧
        SameMem s s1) ∧
      (p.order = ordSc → Whole s r.loc n → Replaced s s1 r.loc bs)

/-- The step of one thread of an atomic reads the aligned word or dword at x(A) + value(B) as memory holds it where no update-only partial
is owed to its line or to that of its translation, writes back the new value made from that old one, gives x(D) the old one
(sign-extended from 32 bits for the signed forms of a word, zero-extended otherwise), and changes no other byte of memory and no other
x register. The steps of a group are taken in ascending lane, so that each thread receives what stood before its own. -/
def Obligations.AtomicStep : Prop :=
  ∀ (p : Pfx) (w : Bool) (d : BitVec 5) (a b : Src) (sg : Bool) (f : Thread → Nat → Nat) (s s1 : State) (k : Nat) (r : Res),
    s.resolve (keyTm k) (s.addr k a b) = some r → Quiet s r (atomBytes w) → Whole s r.loc (atomBytes w) →
    atomTry p w d a b sg f s k = .ok s1 →
    let n := atomBytes w
    let old := leNat (s.readMs r.loc n)
    let new := leBytes n (f (s.thr k) old)
    GivesX s s1 k (d.setWidth 7) (if sg ∧ w = false then (BitVec.ofNat 32 old).signExtend 64 else BitVec.ofNat 64 old) ∧
      Replaced s s1 r.loc new

/-- nop and yield, on either side and in either mode, complete: the group moves to the next instruction, and no register, queue, byte of
memory or other state changes; yield besides notes the cycle from which its group is held back until another group of its side has
issued or the time of R404 is over. -/
def Obligations.NopAndYield : Prop :=
  ∀ (s : State) (c : Cur) (act : List Nat), Issues s c act .both false noPfx → Falls s c →
    (∃ t, exec .nop s = .next t ∧ Completes s t c) ∧
    (∃ t, exec .yield s = .next t ∧ Completes s t c ∧
      (c.last = false → (kget s.groups c.gid).isSome → (t.grp c.gid).yielded = some s.cycle))

/-- enrol adds exactly the active threads to the enrolled set of its mask and strike removes exactly them; the arrived set, every other
mask and every other part of the team stay, the instruction is complete and the group moves on. jmask and its form for the arrived set
write 64 bits of the set, the word that the operand names (0 to 15), into sD for each active thread in ascending lane, and 0 for an
inactive one under zero = 1, change no mask, and complete. -/
def Obligations.RejoinMasks : Prop :=
  ∀ (s : State) (c : Cur) (p : Pfx) (act : List Nat), Issues s c act .eOnly false p → Falls s c → (kget s.teams c.tm).isSome →
    (∀ j : BitVec 4, ∃ s' t x, exec (.enrol p j) s = .next t ∧ Completes s' t c ∧ TeamBecomes s s' c.tm x ∧
      { x with jm := (s.team c.tm).jm } = s.team c.tm ∧ (∀ n, n ≠ j.toNat → x.jmask n = (s.team c.tm).jmask n) ∧
      (x.jmask j.toNat).arrived = ((s.team c.tm).jmask j.toNat).arrived ∧
      ∀ i, i < 1024 → (x.jmask j.toNat).enrolled.getLsbD i = (act.contains i || ((s.team c.tm).jmask j.toNat).enrolled.getLsbD i)) ∧
    (∀ j : BitVec 4, ∃ s' t x, exec (.strike p j) s = .next t ∧ Completes s' t c ∧ TeamBecomes s s' c.tm x ∧
      { x with jm := (s.team c.tm).jm } = s.team c.tm ∧ (∀ n, n ≠ j.toNat → x.jmask n = (s.team c.tm).jmask n) ∧
      (x.jmask j.toNat).arrived = ((s.team c.tm).jmask j.toNat).arrived ∧
      ∀ i, i < 1024 → (x.jmask j.toNat).enrolled.getLsbD i = (!act.contains i && ((s.team c.tm).jmask j.toNat).enrolled.getLsbD i)) ∧
    (∀ (d : BitVec 7) (j : BitVec 4) (b : Src) (s' : State), srcsOk s c [(.int32, b)] = true → d.toNat < 32 →
      let m := (s.team c.tm).jmask j.toNat
      let ts := if p.zeroes then (s.grp c.gid).members else act
      (inOrder c (jmaskTry d b m.enrolled c act) ts s = some s' → ∃ t, exec (.jmask p d j b) s = .next t ∧ Completes s' t c) ∧
      (inOrder c (jmaskTry d b m.arrived c act) ts s = some s' → ∃ t, exec (.jmaskArr p d j b) s = .next t ∧ Completes s' t c)) ∧
    (∀ (d : BitVec 7) (b : Src) (set : BitVec 1024) (k w : Nat) (v : DWord) (rd : Rd), c.side = .e → (v.setWidth 32).toNat = w → w ≤ 15 →
      s.readSrcs k [(.int32, b)] (s.rd k) = .ok ([v], rd) →
      ∃ s1, jmaskTry d b set c act s k = .ok s1 ∧ (s1.team c.tm).jm = (s.team c.tm).jm ∧
        (kgetD (s1.team c.tm).sE d.toNat (freshUReg 0)).cur = if act.contains (keyIx k) then set.extractLsb' (64 * w) 64 else 0)

/-- At a join inside a block, in a group with no split record: the active threads that are enrolled in the mask are added to its arrived
set, leave their group and stand parked on the mask at the next instruction in a group of their own without records; the others go on
to it; where none is enrolled all go on. The enrolled set, every queue and every byte of memory stay. (That they stand in a group of
their own is log 6's reading.) -/
def Obligations.Join : Prop :=
  ∀ (s : State) (c : Cur) (p : Pfx) (j : BitVec 4) (act : List Nat) (g : Group), Issues s c act .eOnly false p → c.last = false →
    kget s.groups c.gid = some g → g.stack = [] → c.gid < s.nextId → (kget s.teams c.tm).isSome →
    let m := (s.team c.tm).jmask j.toNat
    let en := act.filter (fun u => m.enrolled.getLsbD u)
    let rest := g.members.filter (fun u => !en.contains u)
    ∃ t, exec (.join p j) s = .next t ∧ t.pairs = s.pairs ∧ (∀ l, t.readM l = s.readM l) ∧
      ((t.team c.tm).jmask j.toNat).enrolled = m.enrolled ∧
      (∀ i, i < 1024 → ((t.team c.tm).jmask j.toNat).arrived.getLsbD i = (en.contains i || m.arrived.getLsbD i)) ∧
      (en = [] → (t.grp c.gid).pc = c.next ∧ (t.grp c.gid).members = g.members ∧ ∀ u ∈ g.members, t.thr (c.key u) = doneThread g.priv (s.thr (c.key u))) ∧
      (en ≠ [] → (∀ u ∈ en, (t.thr (c.key u)).park = .joined j.toNat) ∧
        (t.grp s.nextId).members = en ∧ (t.grp s.nextId).pc = c.next ∧ (t.grp s.nextId).stack = [] ∧
        (∀ u ∈ rest, t.thr (c.key u) = doneThread g.priv (s.thr (c.key u))) ∧
        (rest = [] → kget t.groups c.gid = none) ∧
        (rest ≠ [] → (t.grp c.gid).members = rest ∧ (t.grp c.gid).pc = c.next))

/-- A reform at the end of its block, in a group with no split record, files exactly its active threads with the current cycle under the
team and the header that follows the block; they leave their group, the others stand before that header, and no register and no byte
of memory changes. Where nothing else was filed in the cycle, a bin is free and none has that key, and they are fewer than a group
has, they then enter a free bin of that key in ascending thread index. -/
def Obligations.Reform : Prop :=
  ∀ (s : State) (c : Cur) (p : Pfx) (act : List Nat) (g : Group), Issues s c act .eOnly false p → Falls s c → c.last = true →
    kget s.groups c.gid = some g → g.stack = [] →
    let core := s.coreOf c.tm
    let rest := g.members.filter (fun u => !act.contains u)
    ∃ t, exec (.reform p) s = .next t ∧ (t.core core).bins = (s.core core).bins ∧
      (t.core core).filing = (s.core core).filing ++
        act.map (fun u => { tm := c.tm, key := c.next, priv := g.priv, filed := [{ thread := u, cycle := s.cycle }] }) ∧
      (∀ bin, (s.core core).filing = [] → (s.core core).freeBin = some bin →
        (∀ e ∈ (s.core core).bins, ¬ (e.2.tm = c.tm ∧ e.2.key = c.next ∧ e.2.priv = g.priv)) → act.length < (s.team c.tm).tpg → act.Nodup →
        ∃ b, kget ((t.flushFiling core).core core).bins bin = some b ∧ b.tm = c.tm ∧ b.key = c.next ∧ b.priv = g.priv ∧
          (∀ u, u ∈ b.filed.map (·.thread) ↔ u ∈ act) ∧ b.filed.length = act.length ∧ b.filed.Pairwise (fun x y => x.thread < y.thread) ∧
          ∀ f ∈ b.filed, f.cycle = s.cycle) ∧
      (∀ u ∈ g.members, t.thr (c.key u) = doneThread g.priv (s.thr (c.key u))) ∧
      (rest = [] → kget t.groups c.gid = none) ∧
      (rest ≠ [] → (t.grp c.gid).members = rest ∧ (t.grp c.gid).pc = c.next ∧ (t.grp c.gid).entering = true) ∧
      t.pairs = s.pairs ∧ (∀ l, t.readM l = s.readM l)

/-- ballot writes sD of its side once: bit l is 1 exactly where an active thread stands in lane l whose predicate is 1; every other
register and part of the team stays. bcast gives every active thread the value that A has in the thread of lane value(B) mod 32, which
alone evaluates it, and 0 where no active thread stands there. Both complete, the group moves on, and no byte of memory changes. -/
def Obligations.BallotAndBroadcast : Prop :=
  (∀ (s : State) (c : Cur) (p : Pfx) (d pr : BitVec 7) (act : List Nat), Issues s c act .both false p → Falls s c → d.toNat < 32 →
      (kget s.teams c.tm).isSome →
      ∃ s' t x, exec (.ballot p d pr) s = .next t ∧ Completes s' t c ∧ TeamBecomes s s' c.tm x ∧
        { x with sE := (s.team c.tm).sE, sA := (s.team c.tm).sA } = s.team c.tm ∧ x.sregs c.side.other = (s.team c.tm).sregs c.side.other ∧
        (∀ n, n ≠ d.toNat → kget (x.sregs c.side) n = kget ((s.team c.tm).sregs c.side) n) ∧
        ∀ l, l < 64 → (kgetD (x.sregs c.side) d.toNat (freshUReg 0)).cur.getLsbD l =
          act.any (fun u => (s.thr (c.key u)).lane == l && (s.thr (c.key u)).pred pr.toNat)) ∧
    (∀ (s : State) (c : Cur) (p : Pfx) (d : BitVec 7) (a b : Src) (act : List Nat) (v : DWord) (rd : Rd), Issues s c act .eOnly false p →
      Falls s c → srcsOk s c [(.int32, a), (.int32, b)] = true → uniform b = true →
      s.readSrc (c.key (act.headD 0)) .int32 b (s.rd (c.key (act.headD 0))) = .ok (v, rd) →
      (act.find? (fun u => (s.thr (c.key u)).lane == v.toNat % 32) = none →
        ∃ t, exec (.bcast p d a b) s = .next t ∧ FramePairs s t ∧ MovesOn s t c ∧
          ∀ u ∈ act, t.thr (c.key u) = doneThread (s.grp c.gid).priv ((s.thr (c.key u)).setV d.toNat 0)) ∧
      (∀ (u : Nat) (x : DWord) (rd1 : Rd), act.find? (fun u => (s.thr (c.key u)).lane == v.toNat % 32) = some u →
        s.readSrc (c.key u) .int32 a (s.rd (c.key u)) = .ok (x, rd1) →
        ∃ t, exec (.bcast p d a b) s = .next t ∧ Frame s t ∧ MovesOn s t c ∧ t.pair (pairOf (c.key u)) = rd1.p ∧
          (∀ n, n ≠ pairOf (c.key u) → t.pair n = s.pair n) ∧
          t.thr (c.key u) = doneThread (s.grp c.gid).priv ({ s.thr (c.key u) with clk := rd1.clk }.setV d.toNat (x.setWidth 32)) ∧
          ∀ w ∈ act, w ≠ u → t.thr (c.key w) = doneThread (s.grp c.gid).priv ((s.thr (c.key w)).setV d.toNat (x.setWidth 32))))

/-- An exit at which no thread has to wait or to take a deferred cause completes: every thread of the group has exited, with its
registers, predicates and return stack discarded, and the group is gone; no byte of memory changes; and where every other thread of
the team on both sides has exited too, the team is retired. -/
def Obligations.Exit : Prop :=
  ∀ (s : State) (c : Cur) (act : List Nat), Issues s c act .both false noPfx → (∀ u ∈ act, s.exitTry (c.key u) = .ok ()) → c.gid < s.nextId →
    (∀ u ∈ act, u < 1024) → (kget s.teams c.tm).isSome →
    ∃ t, exec .exit s = .next t ∧ (∀ l, t.readM l = s.readM l) ∧ kget t.groups c.gid = none ∧
      (∀ u ∈ act, let a := t.thr (c.key u); a.exited = true ∧ a.v = [] ∧ a.x = [] ∧ a.preds = 0 ∧ a.rstack = []) ∧
      ((∀ sd n, n < (s.team c.tm).gpt * (s.team c.tm).tpg → (s.thr (tkey c.tm sd n)).exited = true ∨ (sd = c.side ∧ n ∈ act)) →
        (t.team c.tm).mode = .retired)

/-- A transfer of control whose every thread may go completes: each thread has performed it, with the header after the block pushed by
call (for each that goes) and the top entry taken by ret, and no other register, queue, team or byte of memory changes; and where all
want the same, in a group without split record, the group stands before the target, or at the next instruction of its own block where
none is taken, with the same members. -/
def Obligations.Transfers : Prop :=
  ∀ (i : Instr) (s : State) (c : Cur) (act : List Nat), CanGo i s c act →
    ∃ t, exec i s = .next t ∧ { t with threads := s.threads, groups := s.groups, splits := s.splits, nextId := s.nextId } = s ∧
      (∀ l, t.readM l = s.readM l) ∧ (∀ k, Outside s c k → t.thr k = s.thr k) ∧
      (∀ u ∈ act, t.thr (c.key u) =
        { doneThread (s.grp c.gid).priv (s.thr (c.key u)) with rstack := stackAfter i c (s.thr (c.key u)).rstack }) ∧
      (∀ d, (∀ u ∈ act, goesTo i s c u = d) → (kget s.groups c.gid).isSome → (s.grp c.gid).stack = [] →
        (t.grp c.gid).dest = d ∧ (t.grp c.gid).members = (s.grp c.gid).members)

/-- Where the threads of a group go to two places, in a block whose RCV is 0 and in a group without split record, the group becomes two of
the same team, side and slot: one with the threads that go where the first of them goes and one with the others, each at its place and
each again without split record. -/
def Obligations.Split : Prop :=
  ∀ (i : Instr) (s : State) (c : Cur) (act : List Nat) (d0 d1 : Dest), CanGo i s c act → (kget s.groups c.gid).isSome → (s.grp c.gid).stack = [] →
    (∀ k ∈ kkeys s.groups, k < s.nextId) → s.rcvOf c.tm c.hdr = none → goesTo i s c (act.headD 0) = d0 → d1 ≠ d0 →
    (∃ u ∈ act, goesTo i s c u = d1) → (∀ u ∈ act, goesTo i s c u = d0 ∨ goesTo i s c u = d1) →
    ∃ t g0 g1, exec i s = .next t ∧ kget t.groups c.gid = some g0 ∧ kget t.groups s.nextId = some g1 ∧
      g0.members = act.filter (fun u => decide (goesTo i s c u = d0)) ∧ g1.members = act.filter (fun u => decide (goesTo i s c u = d1)) ∧
      g0.dest = d0 ∧ g1.dest = d1 ∧ g0.stack = [] ∧ g1.stack = [] ∧
      g1.tm = (s.grp c.gid).tm ∧ g1.side = (s.grp c.gid).side ∧ g1.slot = (s.grp c.gid).slot

/-- In handler code, where every thread of the group was taken from one instruction of one block to which it may return, none of them
awaits a pending-fault place, and the group has no split record: a retry of threads not done puts the group, no longer privileged, at
that instruction of that block, and leaves every register, queue and byte of memory; a skip, or a retry of threads that are done, puts
it where it continues after that instruction's words, if that is no header that it may not fall into. The end form ends the group and
its task: the task's state is 5 and its team is gone. -/
def Obligations.HandlerReturn : Prop :=
  (∀ (s : State) (c : Cur) (p : Pfx) (act : List Nat) (f h : DWord), Issues s c act .both true p → (∀ u ∈ (s.grp c.gid).members, u ∈ act) →
      act.Nodup → (∀ u ∈ act, u < 1024) → (kget s.groups c.gid).isSome → (s.grp c.gid).stack = [] →
      (∀ u ∈ act, let x := (s.thr (c.key u)).h; x.fpc = f ∧ x.fhdr = h ∧ x.place = none ∧ s.returnFault c.tm x = none) →
      let kept := fun (a b : Thread) => a.v = b.v ∧ a.x = b.x ∧ a.preds = b.preds ∧ a.flags = b.flags ∧ a.mode = b.mode ∧ a.gen = b.gen ∧
        a.rstack = b.rstack ∧ a.h.hscr = b.h.hscr ∧ a.park = .none
      ((∀ u ∈ act, (s.thr (c.key u)).h.done = false) → ∃ t, exec (.rfhRetry p) s = .next t ∧
        { t with threads := s.threads, groups := s.groups, splits := s.splits } = s ∧ (∀ l, t.readM l = s.readM l) ∧
        (∀ u ∈ act, kept (t.thr (c.key u)) (s.thr (c.key u))) ∧
        (t.grp c.gid).pc = f ∧ (t.grp c.gid).hdr = h ∧ (t.grp c.gid).entering = false ∧ (t.grp c.gid).priv = false ∧
        (t.grp c.gid).members = (s.grp c.gid).members) ∧
      let past := s.afterSeq c.tm f h false
      ((∀ u ∈ act, (s.thr (c.key u)).h.done = true) → (past.entering = true → s.fallFault c.tm past.hdr = false) →
        ∃ t, exec (.rfhRetry p) s = .next t ∧
        (∀ u ∈ act, kept (t.thr (c.key u)) (s.thr (c.key u))) ∧ (t.grp c.gid).dest = past ∧
        (t.grp c.gid).members = (s.grp c.gid).members) ∧
      ((past.entering = true → s.fallFault c.tm past.hdr = false) → ∃ t, exec (.rfhSkip p) s = .next t ∧
        (∀ u ∈ act, kept (t.thr (c.key u)) (s.thr (c.key u))) ∧
        (∀ l, t.readM l = s.readM l) ∧ (t.grp c.gid).dest = past ∧ (t.grp c.gid).members = (s.grp c.gid).members)) ∧
    (∀ (s : State) (c : Cur) (p : Pfx) (act : List Nat), Issues s c act .both true p → (kget s.teams c.tm).isSome →
      (kget s.tasks (s.team c.tm).task).isSome →
      ∃ t, exec (.rfhEnd p) s = .next t ∧ (t.task (s.team c.tm).task).state = 5 ∧ kget t.teams c.tm = none)

/-- trap n raises the cause TRAPn (code 0x70 + n) to every thread of its group at the instruction, and brk the cause BREAK (0x78) where no
debugger holds the partition; where one does, brk stops the team on both sides with the group at the brk and its threads reporting
BREAK, and no byte of memory changes. -/
def Obligations.TrapAndBreak : Prop :=
  ∀ (s : State) (c : Cur) (act : List Nat), Issues s c act .both false noPfx →
    (∀ n : BitVec 3, (Cause.trap n).code = 0x70 + n.toNat ∧
      exec (.trap n) s = .next (s.raise c.gid c.pc c.hdr act (fun _ => s.hit (.trap n) 0))) ∧
    Cause.brk.code = 0x78 ∧
    ((s.part (s.partOf c.tm)).debug = false → exec .brk s = .next (s.raise c.gid c.pc c.hdr act (fun _ => s.hit .brk 0))) ∧
    ((s.part (s.partOf c.tm)).debug = true → (kget s.teams c.tm).isSome → (kget s.groups c.gid).isSome → ∃ t, exec .brk s = .next t ∧
      (t.team c.tm).mode = .stopped ∧ (∀ u ∈ act, (t.thr (c.key u)).park = .stopped .brk false) ∧ (t.grp c.gid).pc = c.pc ∧
      (∀ l, t.readM l = s.readM l))

/-- arrive and arwait, where every active thread may arrive with the one count that stands or that none has set (0 on nb0 and nb15), add
the active threads to the barrier's arrivals, leave its phase, and set the expected count of nb1 to nb14; they complete, arrive's
threads go on and arwait's stand parked until the phase they arrived in is over. bwait adds no arrival and parks its threads until the
phase current at its issue is over. Threads that park stand after their instruction, in a group of their own where others of their
group go on (log 121). No byte of memory changes. -/
def Obligations.NamedBarriers : Prop :=
  (∀ (i : Instr) (s : State) (c : Cur) (p : Pfx) (nb : BitVec 4) (b : Src) (act : List Nat) (cnt : Nat),
      i = .arrive p nb b ∨ i = .arwait p nb b → Issues s c act .both false p → Falls s c → srcsOk s c [(.int32, b)] = true →
      BarExists s c.tm nb.toNat → (∀ u ∈ act, ∃ rd, s.arriveTry nb.toNat b (c.key u) = .ok (rd, cnt)) →
      perSide nb.toNat = true ∨ (s.bar c.tm c.side nb.toNat).expected = none ∨ (s.bar c.tm c.side nb.toNat).expected = some cnt →
      let o := s.bar c.tm c.side nb.toNat
      ∃ t, exec i s = .next t ∧ (t.bar c.tm c.side nb.toNat).arrived = o.arrived + act.length ∧ (t.bar c.tm c.side nb.toNat).phase = o.phase ∧
        (t.bar c.tm c.side nb.toNat).expected = (if perSide nb.toNat then o.expected else some cnt) ∧
        (i = .arwait p nb b → (∀ u ∈ act, (t.thr (c.key u)).park = .phase nb.toNat o.phase) ∧ ParksOn s t c act) ∧
        (i = .arrive p nb b → MovesOn s t c) ∧ (∀ k, Outside s c k → t.thr k = s.thr k) ∧ (∀ l, t.readM l = s.readM l)) ∧
    (∀ (s : State) (c : Cur) (p : Pfx) (nb : BitVec 4) (act : List Nat), Issues s c act .both false p → Falls s c →
      ∃ t, exec (.bwait p nb) s = .next t ∧ (∀ u ∈ act, (t.thr (c.key u)).park = .phase nb.toNat (s.bar c.tm c.side nb.toNat).phase) ∧
        ParksOn s t c act ∧ { t with threads := s.threads, groups := s.groups, splits := s.splits, nextId := s.nextId } = s ∧
        SameMem s t ∧ (∀ k, Outside s c k → t.thr k = s.thr k))

/-- qflush, where no access thread of its pairs holds a pending-fault record, discards every place of queue q of each active thread's pair
and cancels its stream: from the execute side it marks the queue flushed, from the access side it clears that mark and the end mark.
Every other queue, the loads in flight and the counters of the pair stay, as does every other pair; the instruction is complete and
the group moves on. -/
def Obligations.QueueFlush : Prop :=
  ∀ (i : Instr) (s : State) (c : Cur) (p : Pfx) (q : BitVec 4) (act : List Nat), i = .qflushE p q ∨ i = .qflushA p q →
    Issues s c act (if i = .qflushE p q then .eOnly else .aOnly) false p → Falls s c → q.toNat < s.nq c.tm →
    (∀ u ∈ act, ∀ n, (s.thr (tkey c.tm .a u)).park ≠ .pending n) →
    ∃ t, exec i s = .next t ∧ Frame s t ∧ MovesOn s t c ∧ (∀ n, NoPair c act n → t.pair n = s.pair n) ∧
      (∀ u ∈ (s.grp c.gid).members, t.thr (c.key u) = doneThread (s.grp c.gid).priv (s.thr (c.key u))) ∧
      ∀ u ∈ act, let a := s.pair (pairOf (c.key u)); let b := t.pair (pairOf (c.key u))
        { b with q := a.q } = a ∧ (∀ n, n ≠ q.toNat → kget b.q n = kget a.q n) ∧
        b.queue q.toNat = { places := [], stream := none, flushed := decide (i = .qflushE p q),
                            endSeen := decide (i = .qflushE p q) && (a.queue q.toNat).endSeen }

/-- ldq in its six forms and nget complete where each active thread's step succeeds in its turn, in ascending lane: the group moves on,
and its threads issue nothing more until their translations have completed. A load of n bytes whose checks pass reserves as many
places at the tail of its queue as it has words and goes into flight with the bytes read; into a flushed queue without stream it is
discarded and changes nothing. -/
def Obligations.QueueLoads : Prop :=
  (∀ (i : Instr) (p : Pfx) (ok : State → Cur → Bool) (f : Cur → State → Nat → Try State) (s s' : State) (c : Cur) (act : List Nat),
      queueLoad i = some (p, ok, f) → Issues s c act .aOnly false p → Falls s c → ok s c = true → inOrder c (f c) act s = some s' →
      ∃ t, exec i s = .next t ∧ FramePairs s' t ∧ MovesOn s' t c ∧ (∀ k, Outside s' c k → (∀ u ∈ act, c.key u ≠ k) → t.thr k = s'.thr k) ∧
        ∀ u ∈ act, ∀ fl, (s'.pair (pairOf (c.key u))).flights.find? (fun x => !x.translated) = some fl →
          (t.thr (c.key u)).park = .translating fl.id) ∧
    (∀ (n : Nat) (p : Pfx) (d : BitVec 7) (a b : Src) (c : Cur) (s s1 : State) (k : Nat) (r : Res), n ∈ [1, 2, 4, 8, 128] →
      ldqTry n p d a b c s k = .ok s1 → s.retries c k d.toNat = false → s.loadCheck k (s.addr k a b) n n p.order p.obs = .ok r →
      (s.pair (pairOf k)).heldFlight d.toNat = none → (∀ f ∈ (s.pair (pairOf k)).flights, f.id < s.nextId) →
      let o := s.pair (pairOf k)
      let u := s1.pair (pairOf k)
      ((o.queue d.toNat).flushed = true → s1 = s) ∧
      ((o.queue d.toNat).flushed = false → ∃ fl : Flight, u.flights = o.flights ++ [fl] ∧ fl.q = d.toNat ∧ fl.translated = false ∧ fl.fpc = c.pc ∧
        fl.cargo = .data (elemWords (s.loadStep k r n p.order p.obs).1) ∧
        (u.queue d.toNat).places = (o.queue d.toNat).places ++ List.replicate (ceilDiv n 4) (.wait fl.id)))

/-- tgive of a tile that threads own, whose lines are all present and whose active threads have empty store buffers, sets its owner bit
and no other; tclaim of a tile that no accepted engine command names, where no active thread owes a cause of it, clears its owner bit
and no other. Nothing else of the team and no byte of memory changes but what the model keeps of the flip's ordering; both complete,
and the group moves on. -/
def Obligations.TileOwnership : Prop :=
  ∀ (s : State) (c : Cur) (p : Pfx) (n : BitVec 6) (act : List Nat), Issues s c act .aOnly false p → Falls s c → (kget s.teams c.tm).isSome →
    n.toNat < (s.team c.tm).lim.tiles →
    ((s.team c.tm).owner.getLsbD n.toNat = false → (∀ l ∈ (s.team c.tm).absent, l / 128 ≠ n.toNat) → (∀ u ∈ act, (s.thr (c.key u)).sb = []) →
      ∃ s' t x, exec (.tgive p n) s = .next t ∧ Completes s' t c ∧ TeamBecomes s s' c.tm x ∧
        { x with owner := (s.team c.tm).owner, gives := (s.team c.tm).gives } = s.team c.tm ∧ (∀ l, t.readM l = s.readM l) ∧
        ∀ m, m < 64 → x.owner.getLsbD m = (decide (m = n.toNat) || (s.team c.tm).owner.getLsbD m)) ∧
    ((∀ u ∈ act, s.owedFor (c.key u) (fun d => d.tile == some n.toNat) = none) → s.tileNamed c.tm n.toNat = false →
      ∃ t, exec (.tclaim p n) s = .next t ∧ MovesOn s t c ∧ (∀ l, t.readM l = s.readM l) ∧ t.pairs = s.pairs ∧
        { t.team c.tm with owner := (s.team c.tm).owner } = s.team c.tm ∧
        ∀ m, m < 64 → (t.team c.tm).owner.getLsbD m = (decide (m ≠ n.toNat) && (s.team c.tm).owner.getLsbD m))

/-- kick, where every record of every active thread passes its checks, submits them all: the engine's order ends with the records of the
active threads in ascending lane, each thread's in the order of its list, and no byte of memory changes. nsend, where every active
thread's record passes its checks, starts one transfer for each, in ascending lane, and writes nothing but the device's dword of each
record. Both complete and the group moves on. -/
def Obligations.Submissions : Prop :=
  (∀ (s : State) (c : Cur) (p : Pfx) (d : BitVec 7) (a b : Src) (act : List Nat) (l : Nat → List Copy), Issues s c act .aOnly false p → Falls s c →
      addrOk a b = true → d.toNat < 32 → (∀ u ∈ act, kickTry d a b s (c.key u) = .ok (l u)) →
      ∃ t, exec (.kick p d a b) s = .next t ∧ MovesOn s t c ∧ t.pairs = s.pairs ∧ (∀ m, t.readM m = s.readM m) ∧
        t.copies.map (·.recAddr) = s.copies.map (·.recAddr) ++ act.flatMap (fun u => (l u).map (·.recAddr))) ∧
    (∀ (s : State) (c : Cur) (p : Pfx) (a b : Src) (act : List Nat) (x : Nat → Send) (r : Nat → Res), Issues s c act .aOnly false p → Falls s c →
      addrOk a b = true → (∀ u ∈ act, nsendTry p a b s (c.key u) = .ok (x u, r u)) →
      (∀ u ∈ act, ∀ tm off, (r u).loc = .scratch tm off → off + 64 ≤ 2 ^ 20) →
      ∃ t, exec (.nsend p a b) s = .next t ∧ MovesOn s t c ∧ t.pairs = s.pairs ∧
        t.sends.map (·.recAddr) = s.sends.map (·.recAddr) ++ act.map (fun u => (x u).recAddr) ∧
        ∀ m : Loc, (∀ tm off, m = .scratch tm off → off < 2 ^ 20) →
          (∀ u ∈ act, ∀ j, j < 8 → m.key ≠ ((r u).loc.plus (56 + j)).key) → t.readM m = s.readM m)

/-- An mma with legal fields within the team's resources, of a group that its convergence register declares, no active thread of which has
signed its position, with sound B registers and with the words that the first signer gave if there was one: each active thread signs
its position with the B registers it latched. Where fewer than 128 positions are then signed, the instruction is complete and the
group moves on; where all are, the operation's A tiles are engine-owned, and no other register holds an operation on its accumulator
tile, the operation enters the core's command order with all that was latched, the register is clear again, and the thread that
completed the set stands parked on the command, the others of its group with it. -/
def Obligations.BearSignatures : Prop :=
  ∀ (i : Instr) (semi : Nat) (p : Pfx) (m : MmaArgs) (s : State) (c : Cur) (act : List Nat), mmaForm i = some (semi, p, m) →
    Issues s c act .eOnly false p → Falls s c → (kget s.teams c.tm).isSome → (∀ u ∈ act, u < 1024) →
    m.inBounds (s.team c.tm).lim = true → m.legal semi = true →
    let v := (s.team c.tm).cvReg m.cv.toNat
    let q := v.declared.findIdx (· == s.groupIx (c.key (act.headD 0)))
    let pos := fun u => 32 * q + (s.thr (c.key u)).lane
    v.declared.contains (s.groupIx (c.key (act.headD 0))) = true → (∀ u ∈ act, kget v.signed (pos u) = none) →
    (∀ u ∈ act, (s.thr (c.key u)).park ≠ .signedOn ∧ sound (s.thr (c.key u)) m.bRegs = true) → act.Nodup →
    (∀ u ∈ act, ∀ w ∈ act, pos u = pos w → u = w) → v.first = none ∨ v.first = some (m.imxWord, m.word semi) →
    let stamp := fun k => kgetD (s.thr k).clk (threadAgent k) 0 + 1
    let all := act.foldl (fun e u => kput e (pos u) (m.latch (s.thr (c.key u)), c.key u, stamp (c.key u))) v.signed
    (all.length < 128 → ∃ s' t, exec i s = .next t ∧ Completes s' t c ∧ { s' with teams := s.teams, threads := s.threads } = s ∧
      (∀ n, n ≠ c.tm → s'.team n = s.team n) ∧ (∀ k, { s'.thr k with clk := (s.thr k).clk } = s.thr k) ∧
      { s'.team c.tm with cv := (s.team c.tm).cv } = s.team c.tm ∧ ((s'.team c.tm).cvReg m.cv.toNat).signed = all ∧
      ((s'.team c.tm).cvReg m.cv.toNat).declared = v.declared ∧
      ((s'.team c.tm).cvReg m.cv.toNat).first = some (m.imxWord, m.word semi)) ∧
    (128 ≤ all.length → (∀ a ∈ m.tiles, (s.team c.tm).owner.getLsbD a = true) →
      (∀ e ∈ (s.team c.tm).cv, e.1 ≠ m.cv.toNat → ∀ f w, e.2.first = some (f, w) → (w.extractLsb' 16 3).toNat ≠ m.acc.toNat) →
      ∃ t cmd, exec i s = .next t ∧ (t.core (s.coreOf c.tm)).bear = (s.core (s.coreOf c.tm)).bear ++ [cmd] ∧ cmd.tm = c.tm ∧
        cmd.thread = c.key (act.getLastD 0) ∧ cmd.op = .mma semi m (m.word semi) m.imxWord (all.map (fun e => (e.1, e.2.1))) 0 none ∧
        cmd.tiles = m.tiles ∧ ((t.team c.tm).cvReg m.cv.toNat).signed = [] ∧ (t.thr (c.key (act.getLastD 0))).park = .bear cmd.id ∧
        (∀ u ∈ act, u ≠ act.getLastD 0 → (t.thr (c.key u)).park = .signedOn) ∧
        (∀ l, t.readM l = s.readM l))

/-- mzero, mwr in both forms, mscl, smx, smrg and smfin, with operands within the team's tiles, engine-owned scratchpad tiles and nothing
signed by their threads still to issue on their accumulator tiles, enter one command each at the end of the core's command order, with
the latched rows or the sampled mode of the lowest active lane; they complete, the group moves on, and no other part of the device and
no byte of memory changes. -/
def Obligations.BearCommands : Prop :=
  ∀ (i : Instr) (s : State) (c : Cur) (act : List Nat) (p : Pfx) (accs tiles : List Nat) (op : BearOp),
    bearCommand s c act i = some (p, true, accs, tiles, op) → Issues s c act .eOnly false p → Falls s c → BearFree s c act accs tiles →
    ∃ t cmd, exec i s = .next t ∧ MovesOn s t c ∧
      { t with threads := s.threads, groups := s.groups, splits := s.splits, cores := s.cores, nextId := s.nextId } = s ∧
      (t.core (s.coreOf c.tm)).bear = (s.core (s.coreOf c.tm)).bear ++ [cmd] ∧ cmd.tm = c.tm ∧ cmd.thread = c.first act ∧
      cmd.mode = (s.thr (c.first act)).mode ∧ cmd.op = op ∧ cmd.tiles = tiles ∧ cmd.split = false ∧
      (∀ u ∈ (s.grp c.gid).members, t.thr (c.key u) = doneThread (s.grp c.gid).priv (s.thr (c.key u))) ∧ (∀ l, t.readM l = s.readM l)

/-- mrd in both forms enters one readout at the end of the core's command order, naming its active threads and, under zero = 1, the
inactive ones, and the active threads stand parked on it at the instruction. mcont enters its threads' operations in ascending lane
where each block can be read and is right. mcall in its three forms makes each active thread's call in ascending lane, and each stands
parked until its answer arrives. -/
def Obligations.WaitingCommands : Prop :=
  (∀ (i : Instr) (s : State) (c : Cur) (p : Pfx) (act : List Nat) (d n a : Nat) (op : BearOp),
      bearRead (act.map c.key) (if p.zeroes then (s.inactive c act).map c.key else []) i = some (p, d, n, a, op) →
      Issues s c act .eOnly false p → Falls s c → rangeOk (s.team c.tm).lim.vregs d n = true → BearFree s c act [a] [] →
      (kget s.groups c.gid).isSome →
      ∃ t cmd, exec i s = .next t ∧ (t.core (s.coreOf c.tm)).bear = (s.core (s.coreOf c.tm)).bear ++ [cmd] ∧ cmd.op = op ∧
        cmd.thread = c.first act ∧ (∀ u ∈ act, (t.thr (c.key u)).park = .bear cmd.id) ∧ (t.grp c.gid).pc = c.pc ∧
        { t with threads := s.threads, groups := s.groups, cores := s.cores, nextId := s.nextId } = s) ∧
    (∀ (s s' : State) (c : Cur) (p : Pfx) (a : Src) (act : List Nat), Issues s c act .eOnly false p → Falls s c → brxOk c.side a = true →
      inOrder c (mcontTry a c) act s = some s' → exec (.mcont p a) s = .next s') ∧
    (∀ (i : Instr) (s s' : State) (c : Cur) (p : Pfx) (d : BitVec 7) (b : Src) (act : List Nat) (svc : Nat) (srcs : List (OTy × Src))
      (f : State → Nat → DWord → Try (DWord × State)),
      (i = .mcallTelemetry p d b ∧ svc = 0 ∧ srcs = [(intOf c.side, b)] ∧ f = telemetryCall) ∨
        (i = .mcallLocate p d ∧ svc = 1 ∧ srcs = [] ∧ f = locateCall) ∨ (i = .mcallPeer p d b ∧ svc = 2 ∧ srcs = [(intOf c.side, b)] ∧ f = peerCall) →
      Issues s c act .both false p → Falls s c → srcsOk s c srcs = true → dstOk c.side false d = true → act.Nodup →
      inOrder c (fun s k => mcallTry d svc srcs f s k) act s = some s' →
      ∃ t, exec i s = .next t ∧ t.groups = s'.groups ∧ (∀ l, t.readM l = s'.readM l) ∧ t.pairs = s'.pairs ∧
        ∀ u ∈ act, ∃ x, (t.thr (c.key u)).park = .answer svc x d)

/-- Each of these events is taken where the rules name it. The GTC goes up by one. A yield of 16 cycles is over and nothing else changes.
A bin whose oldest entry has waited AGE cycles is drawn whole: it is free, and its threads stand as one group before its header. A
record whose first arrival is 256 cycles old is popped; no thread, register or byte changes. A deadlocked pair raises QUEUE_DEADLOCK
with the address its access thread is parked at; an enabled breakpoint raises BREAK, or stops the team where a debugger holds the
partition. The debugger takes a partition, lets its stopped teams run again, or queues one issue of one group of a stopped team. Words
that are no instruction raise ILLEGAL_OP or BAD_PREFIX to every thread of the group, and a bad operand raises BAD_OPERAND to the
active ones, or PRIV where that check comes first (R384). -/
def Obligations.EventsOfTime : Prop :=
  ∀ s : State, s.power = true →
    exec .gtcIncrement s = .next { s with gtc := s.gtc + 1, gphase := s.gphase - 11 * (16 - s.cap) } ∧
    (∀ tm gid c, (s.grp gid).tm = tm → (s.grp gid).yielded = some c → c + 16 ≤ s.cycle →
      ∃ t, exec (.yieldExpiry tm gid) s = .next t ∧ { t with groups := s.groups } = s ∧
        t.grp gid = { s.grp gid with yielded := none } ∧ ∀ n, n ≠ gid → t.grp n = s.grp n) ∧
    (∀ core bin b, kget (s.core core).bins bin = some b → b.filed ≠ [] → b.oldest + max 1 (s.core core).age.toNat ≤ s.cycle →
      (s.team b.tm).mode = .running → s.saving b.tm = false →
      ∃ t n g, exec (.binAgeDraw core bin) s = .next t ∧ kget (t.core core).bins bin = none ∧ kget t.groups n = some g ∧ g.tm = b.tm ∧
        g.members = b.filed.map (·.thread) ∧ g.pc = b.key ∧ g.entering = true ∧ g.priv = b.priv ∧ t.pairs = s.pairs ∧
        ∀ l, t.readM l = s.readM l) ∧
    (∀ tm sid r c, kget s.splits sid = some r → r.first = some c → c + 256 ≤ s.cycle → s.waitersOf sid ≠ [] →
      (∀ k ∈ s.waitersOf sid, s.awake k = true ∧ (s.grp k).tm = tm) →
      ∃ t, exec (.reconvergenceTimeout tm sid) s = .next t ∧ kget t.splits sid = none ∧ { t with groups := s.groups, splits := s.splits } = s) ∧
    (∀ tm u gid, s.groupOf tm .e u = some gid → s.deadlocked tm u = true → s.awake gid = true →
      exec (.queueDeadlock tm u) s = .next (s.raise gid (s.grp gid).pc (s.grp gid).hdr (s.activeAt gid) (fun v =>
        if s.deadlocked tm v then s.hit .queueDeadlock (s.parkedAt tm v) else s.noHit))) ∧
    (∀ tm gid, (s.grp gid).tm = tm → (kget s.groups gid).isSome → s.mayAct gid = true → s.matches gid = true →
      let g := s.grp gid
      let act := if s.activeAt gid = [] then g.members else s.activeAt gid
      ((s.part (s.partOf tm)).debug = false →
        exec (.breakpointMatch tm gid) s = .next (s.raise gid g.pc g.hdr act (fun _ => { s.hit .brk 0 with byMatch := true }))) ∧
      ((s.part (s.partOf tm)).debug = true → (kget s.teams tm).isSome → ∃ t, exec (.breakpointMatch tm gid) s = .next t ∧
        (t.team tm).mode = .stopped ∧ (∀ u ∈ act, (t.thr (g.key u)).park = .stopped .brk true) ∧ ∀ l, t.readM l = s.readM l)) ∧
    (∀ part n, (s.part part).debug = true → (s.team n).part = part → (s.team n).mode = .stopped → (∀ gid ∈ kkeys s.groups, PastBrk s gid) →
      ∃ t, exec (.resume part) s = .next t ∧ t.pairs = s.pairs ∧ (∀ l, t.readM l = s.readM l) ∧
        ∀ m, (s.team m).part = part → (s.team m).mode = .stopped → (t.team m).mode = .running ∧ (t.team m).stepping = []) ∧
    (∀ tm gid, (s.part (s.partOf tm)).debug = true → (s.team tm).mode = .stopped → (kget s.groups gid).isSome → (s.grp gid).tm = tm →
      s.steppable gid = true → PastBrk s gid → ∃ t, exec (.stepGroup tm gid) s = .next t ∧ t.agenda = .issue gid :: s.agenda ∧ (t.team tm).mode = .stopped ∧
        (t.team tm).stepping = (s.grp gid).members.map (s.grp gid).key ∧ t.pairs = s.pairs ∧ ∀ l, t.readM l = s.readM l) ∧
    (∀ part, (kget s.parts part).isSome →
      ((s.part part).debug = false → ∃ t, exec (.tilraxDbgSession part true) s = .next t ∧ { t with parts := s.parts } = s ∧
        t.part part = { s.part part with debug := true }) ∧
      ((s.part part).debug = true → (∀ gid ∈ kkeys s.groups, PastBrk s gid) → ∃ t, exec (.tilraxDbgSession part false) s = .next t ∧ (t.part part).debug = false ∧
        (∀ l, t.readM l = s.readM l) ∧ ∀ m, (s.team m).part = part → (s.team m).mode = .stopped → (t.team m).mode = .running)) ∧
    (∀ c, s.cur = some c →
      exec (.decodeFault .illegalOp) s = .next (s.raise c.gid c.pc c.hdr (s.grp c.gid).members (fun _ => s.hit .illegalOp 0)) ∧
      exec (.decodeFault .badPfx) s = .next (s.raise c.gid c.pc c.hdr (s.grp c.gid).members (fun _ => s.hit .badPrefix 0))) ∧
    (∀ c act need priv vx, Issues s c act need priv { vx := vx, mxa := none } →
      exec (.decodeFault (.badOperand need priv vx)) s = .next (s.raise c.gid c.pc c.hdr act (fun _ => s.hit .badOperand 0))) ∧
    (∀ c act vx, Issues s c act .both false { vx := vx, mxa := none } →
      exec (.decodeFault (.priv vx)) s = .next (s.raise c.gid c.pc c.hdr act (fun _ => s.hit .priv 0)))

/-- The oldest entry of a store buffer leaves it; where it is no store into a version its bytes then stand in memory and no other byte
changes. A merge leaves its core no partial of the line. The oldest outstanding host store of a thread leaves O[t]. The data of the
oldest translated load to a queue fill its places in order and the load is in flight no more. A translation without fault lets its
thread issue again, and a place that has become a pending fault stops it; a reached pending fault is delivered with DEFER. A stream's
next load puts its words at the tail of its queue, advances its address by its stride and leaves one element fewer; to a flushed queue
it does that without a load; after the last, an end element. -/
def Obligations.EventsOfMemory : Prop :=
  ∀ s : State, s.power = true →
    (∀ tm u e rest, (s.thr (tkey tm .a u)).sb = e :: rest → ∃ t, exec (.drain tm u) s = .next t ∧ (t.thr (tkey tm .a u)).sb = rest ∧
      t.pairs = s.pairs ∧ (∀ k, k ≠ tkey tm .a u → t.thr k = s.thr k) ∧
      (s.versioned (tkey tm .a u) e.loc e.order = false → Whole s e.loc e.bytes.length → Replaced s t e.loc e.bytes)) ∧
    (∀ core line k, (kget (s.core core).upd k).isSome → lineKey k = line → ∃ t, exec (.merge core line) s = .next t ∧ t.threads = s.threads ∧
      t.pairs = s.pairs ∧ ∀ n, lineKey n = line → kget (t.core core).upd n = none) ∧
    (∀ tm u n, (s.thr (tkey tm .a u)).out.find? (fun x => x % 2 == 0) = some n → ∃ t, exec (.hostStoreCompletion tm u) s = .next t ∧
      { t with threads := s.threads } = s ∧ (∀ k, k ≠ tkey tm .a u → t.thr k = s.thr k) ∧
      t.thr (tkey tm .a u) = { s.thr (tkey tm .a u) with out := (s.thr (tkey tm .a u)).out.filter (· != n) }) ∧
    (∀ tm u q f ws, (s.pair (pkey tm u)).flights.find? (fun x => x.q == q && x.translated) = some f → u < 1024 → f.cargo = .data ws →
      ((s.pair (pkey tm u)).queue q).places.count (.wait f.id) = ws.length →
      ∃ t, exec (.ldqFill tm u q) s = .next t ∧ { t with pairs := s.pairs } = s ∧ (∀ n, n ≠ pkey tm u → t.pair n = s.pair n) ∧
        (t.pair (pkey tm u)).flights = (s.pair (pkey tm u)).flights.filter (fun x => x.id != f.id) ∧
        ((t.pair (pkey tm u)).queue q).places.length = ((s.pair (pkey tm u)).queue q).places.length ∧
        Place.wait f.id ∉ ((t.pair (pkey tm u)).queue q).places ∧
        (((s.pair (pkey tm u)).queue q).places = List.replicate ws.length (.wait f.id) →
          ((t.pair (pkey tm u)).queue q).places = ws.map (fun w => .full w false f.clk false))) ∧
    (∀ tm u f ws, u < 1024 → (s.pair (pkey tm u)).flights.find? (fun x => !x.translated) = some f →
      (∀ x ∈ (s.pair (pkey tm u)).flights, x.fault = none) → f.cargo = .data ws → (s.thr (tkey tm .a u)).park = .translating f.id → ∃ t, exec (.translationComplete tm u) s = .next t ∧
        t.thr (tkey tm .a u) = { s.thr (tkey tm .a u) with park := .none } ∧ (∀ k, k ≠ tkey tm .a u → t.thr k = s.thr k) ∧
        ∀ l, t.readM l = s.readM l) ∧
    (∀ tm u f rest gid c a, u < 1024 → (s.pair (pkey tm u)).flights = f :: rest → f.translated = false → (∀ x ∈ rest, x.fault = none) →
      s.groupOf tm .a u = some gid → s.awake gid = true → (s.thr (tkey tm .a u)).exited = false → f.cargo = .fault c a → Place.wait f.id ∈ ((s.pair (pkey tm u)).queue f.q).places → (s.grp gid).members.Nodup →
      (∀ v ∈ (s.grp gid).members, v < 1024) → ∃ t, exec (.translationComplete tm u) s = .next t ∧
        (t.thr (tkey tm .a u)).park = .pending f.q ∧ Place.pend c a none none ∈ ((t.pair (pkey tm u)).queue f.q).places ∧
        ∀ l, t.readM l = s.readM l) ∧
    (∀ tm u gid x, s.reachedPend (tkey tm .a u) = some x → s.groupOf tm .a u = some gid → s.awake gid = true →
      let g := s.grp gid
      exec (.pendingFaultDelivery tm u) s = .next (s.raise gid g.pc g.hdr (g.members.filter (fun v => (s.reachedPend (g.key v)).isSome))
        (fun v => match s.reachedPend (g.key v) with
          | some (q, c, a) => { s.hit c a with defer := true, place := some q }
          | none => s.noHit))) ∧
    (∀ tm u q x, u < 1024 → let k := tkey tm .a u; let qu := (s.pair (pkey tm u)).queue q
      qu.stream = some x → x.stopped = false → s.partnerGone k = false → (s.team tm).mode = .running → s.savedThr k = false →
      let full := qu.flushed = false ∧ ∀ p ∈ qu.places, ∃ w e c b, p = .full w e c b
      (∀ r, full → 0 < x.rem → qu.places.length + (if x.esz = 3 then 2 else 1) ≤ (s.team tm).lim.depth →
        s.loadCheck k x.addr (elemBytes x.esz) (elemBytes x.esz) x.order x.mask = .ok r →
        let o := s.loadStep k r (elemBytes x.esz) x.order x.mask
        ∃ t, exec (.streamElement tm u q) s = .next t ∧ ((t.pair (pkey tm u)).queue q).places =
            qu.places ++ (elemWords o.1).map (fun w => .full w false (o.2.thr k).clk false) ∧
          ((t.pair (pkey tm u)).queue q).stream = some { x with rem := x.rem - 1, addr := x.addr + x.stride } ∧ ∀ l, t.readM l = o.2.readM l) ∧
      (qu.flushed = true → 0 < x.rem → ∃ t, exec (.streamElement tm u q) s = .next t ∧ { t with pairs := s.pairs } = s ∧
          ((t.pair (pkey tm u)).queue q).places = qu.places ∧
          ((t.pair (pkey tm u)).queue q).stream = some { x with rem := x.rem - 1, addr := x.addr + x.stride }) ∧
      (full → x.rem = 0 → x.tail = true → qu.places.length < (s.team tm).lim.depth →
        ∃ t, exec (.streamElement tm u q) s = .next t ∧ { t with pairs := s.pairs } = s ∧
          ((t.pair (pkey tm u)).queue q).places = qu.places ++ [.full 0 true (s.thr k).clk false] ∧
          ((t.pair (pkey tm u)).queue q).stream = some { x with tail := false }))

/-- A row of a copy whose sources and destination pass their checks is written, and the copy then stands at its next row or, after the
last, is over; one that does not pass ends it with its cause held for the issuer. A Sett's next pair is folded into its triple, or
stops the request; the return network folds the triples one by one; a completed request has gone with its tile returned to threads, a
failed one with its cause held for the issuer besides. A Bear command that completes leaves the order; an mma leaves its tile as its
k-blocks make it, its holder waits for it no more, and a group of which no other thread waits there goes on; one that faults stops at
its boundary and raises its cause to the holder. An mcall's answer is written to D and its thread waits no more; a starved ring.take
raises EXPERT_STARVED. -/
def Obligations.EventsOfEngines : Prop :=
  ∀ s : State, s.power = true →
    (∀ id c, s.copies.find? (fun e => e.id == id) = some c → s.rowWaits c = false →
      let w := s.whoCopy { c with clk := (s.rowLines c).foldl (fun k l => clkJoin k (kgetD (s.team l.1).lineClk l.2 [])) c.clk }
      (∀ e, s.rowBytes c w = .error e → ∃ t, exec (.copyRow id) s = .next t ∧ t.copies.find? (fun e => e.id == id) = none ∧
        ((s.thr c.thread).exited = false → ∃ d ∈ (t.thr c.thread).deferred, d.id = id ∧ d.cause = e.cause ∧
          d.faddr = if c.rope then c.src else c.recAddr) ∧ ∀ l, t.readM l = s.readM l) ∧
      (∀ bs fl s1, s.rowBytes c w = .ok ((bs, fl), s1) →
        (∀ e, s1.rowChecks c w bs.length (c.row + 1 == c.dstRows) = .error e → ∃ t, exec (.copyRow id) s = .next t ∧
          t.copies.find? (fun e => e.id == id) = none ∧
          ((s.thr c.thread).exited = false → ∃ d ∈ (t.thr c.thread).deferred, d.id = id ∧ d.cause = e.cause ∧ d.faddr = c.recAddr) ∧
          ∀ l, t.readM l = s.readM l) ∧
        (∀ l mb x, s1.rowChecks c w bs.length (c.row + 1 == c.dstRows) = .ok (l, mb, x) → ∃ t, exec (.copyRow id) s = .next t ∧
          (c.row + 1 < c.dstRows → (t.copies.find? (fun e => e.id == id)).map (·.row) = some (c.row + 1)) ∧
          (¬ c.row + 1 < c.dstRows → t.copies.find? (fun e => e.id == id) = none) ∧
          (∀ pa r, l = [(r, bs.length)] → r.loc = .hbm pa → mb = none → x = [] → ∀ j, j < bs.length → t.readM (.hbm (pa + j)) = bs.getD j 0)))) ∧
    (∀ id sett q x rest, s.kvqs.find? (fun q => q.id == id) = some q → q.failed = none → kget q.todo sett = some (x :: rest) →
      let o := s.pairPass (settWho q.tm q.id q.clk sett) q x ((kget q.triples sett).getD freshTriple)
      ∃ t y, exec (.settPairPass id sett) s = .next t ∧ t.kvqs.find? (fun q => q.id == id) = some y ∧
        (∀ e s1, o = .error (e, s1) → y.failed = some e.kept) ∧
        (∀ tr s1, o = .ok (tr, s1) → kgetD y.todo sett [] = rest ∧ kget y.triples sett = some tr ∧ y.failed = none)) ∧
    (∀ id q k tr rest, s.kvqs.find? (fun q => q.id == id) = some q → q.failed = none → q.todo = [] → q.triples = (k, tr) :: rest →
      ∃ t y, exec (.returnMerge id) s = .next t ∧ { t with kvqs := s.kvqs } = s ∧ t.kvqs.find? (fun q => q.id == id) = some y ∧
        y = { q with triples := rest, merged := some (match q.merged with | none => tr | some m => m.merge tr) }) ∧
    (∀ id q tr l, s.kvqs.find? (fun q => q.id == id) = some q → q.failed = none → q.todo = [] → q.triples = [] → q.merged = some tr →
      s.unitResAll (settWho q.tm q.id q.clk (s.settOf q.tm q.list)) [(tileVa q.tile, 528)] true false = .ok l →
      q.mb = none ∨ (∃ a r, q.mb = some a ∧ s.mbCheck (settWho q.tm q.id q.clk (s.settOf q.tm q.list)) a = .ok r) →
      ∃ t, exec (.kvqComplete id) s = .next t ∧ t.kvqs.find? (fun q => q.id == id) = none ∧ (t.team q.tm).owner.getLsbD q.tile = false) ∧
    (∀ id q c va race, s.kvqs.find? (fun q => q.id == id) = some q → q.failed = some (c, va, race) →
      ∃ t, exec (.kvqFail id) s = .next t ∧ t.kvqs.find? (fun q => q.id == id) = none ∧ (t.team q.tm).owner.getLsbD q.tile = false ∧
        ((s.thr q.thread).exited = false → ∃ d ∈ (t.thr q.thread).deferred, d.cause = c ∧ d.faddr = va ∧ d.tile = some q.tile)) ∧
    (∀ core c semi m wd imx b done load u s1, s.bearNext core true = some c → c.op = .mma semi m wd imx b done load →
      s.bearRun core c (m.blocks - done) = .ok (u, s1) → (kget s.teams c.tm).isSome →
      ∃ t, exec (.mmaComplete core) s = .next t ∧ (∀ e ∈ (t.core core).bear, e.id ≠ c.id) ∧ (t.team c.tm).accTile m.acc.toNat = u ∧
        ((s.thr c.thread).park = .bear c.id → (t.thr c.thread).park ≠ .bear c.id ∧
          ∀ gid, s.groupOf (keyTm c.thread) (keySide c.thread) (keyIx c.thread) = some gid →
            (∀ v ∈ (s.grp gid).members, v ≠ keyIx c.thread → (s.thr ((s.grp gid).key v)).park.atBear = false) →
            (t.thr c.thread).park = .none)) ∧
    (∀ core c, s.bearNext core false = some c → c.op.isMma = false → ∃ t, exec (.bearCommandComplete core) s = .next t ∧
      (∀ n, c.op = .mzero n → (kget s.teams c.tm).isSome →
        { (t.team c.tm).accTile n with shadow := none } = freshAcc ∧ ∀ e ∈ (t.core core).bear, e.id ≠ c.id) ∧
      (c.op.reads = true → (∀ e ∈ (t.core core).bear, e.id ≠ c.id) ∧
        ∀ a, c.op.accs.find? (fun a => s.badAcc.contains (c.tm, a)) = some a → (s.thr c.thread).exited = false →
          ∃ d ∈ (t.thr c.thread).deferred, d.id = c.id ∧ d.cause = .integrity) ∧
      (∀ a b, c.op = .smrg a b → ∀ l, t.readM l = s.readM l)) ∧
    (∀ core c semi m wd imx b done load blocks gid u s1, s.bearNext core true = some c → c.op = .mma semi m wd imx b done load →
      s.groupOf c.tm (keySide c.thread) (keyIx c.thread) = some gid → done ≤ blocks → blocks < m.blocks → s.awake gid = true →
      s.bearRun core c (blocks - done) = .ok (u, s1) →
      ∃ (s2 : State) (x : Hit), exec (.bearFault core blocks) s =
          .next (s2.raise gid (s.grp gid).pc (s.grp gid).hdr (s.activeAt gid) (fun v => if v = keyIx c.thread then x else s.noHit)) ∧
        x.faddr = (s.team c.tm).mcb + BitVec.ofNat 64 (98304 * m.acc.toNat) ∧ ∀ e ∈ (s2.core core).bear, e.id ≠ c.id) ∧
    (∀ tm u k svc a d, s.caller tm u = some (k, svc, a, d) → ∃ t, exec (.mcallAnswer tm u) s = .next t ∧ t.pairs = s.pairs ∧
      (∀ l, t.readM l = s.readM l) ∧ { t.thr k with passOnce := (s.thr k).passOnce, since := (s.thr k).since, h := (s.thr k).h } =
        { setD (keySide k) false d (s.answerOf tm svc a) (s.thr k) with park := .none }) ∧
    (∀ tm u gid, s.groupOf tm .a u = some gid → s.starved (tkey tm .a u) = true → s.awake gid = true →
      exec (.expertStarved tm u) s = .next (s.raise gid (s.grp gid).pc (s.grp gid).hdr (s.activeAt gid) (fun v =>
        if s.starved (tkey tm .a v) then s.hit .expertStarved 0 else s.noHit)))

/-- A row whose turn it is and that the peer's window refuses, or whose source cannot be read, stops its transfer with the cause held for
the issuer: the transfer is over, or while earlier rows are unacknowledged it stays until they are; one that goes out counts as
started, and a quantised one leaves its residuals pending. An acknowledgement in order counts one row more as acknowledged, raises the
flow's first unacknowledged number past it, and ends the transfer with its last row, or where it has stopped with the last that had
started. A row that arrives again is dropped and counted; a new one within its windows is written and its number accepted; one that
the window refuses changes nothing but telemetry. A time-out or a refusal ends the transfer, or turns the nget's data into a cause. A
peer's read takes the word that memory holds; the peer's word answers an nget, which leaves O[t]. -/
def Obligations.EventsOfPeers : Prop :=
  ∀ s : State, s.power = true →
    (∀ id x, s.sends.find? (fun e => e.id == id) = some x → s.rowDue x = true → s.shareFree (s.partOf x.tm) x.port = true →
      let rd := (s.useCredit (s.partOf x.tm) x.port).unitRead (s.whoSend x) (x.src + BitVec.ofNat 64 (x.started * x.rowB)) (min x.rowB (x.len - x.started * x.rowB)) false
      (s.rowRefused x x.started = true ∨ (∃ e, rd = .error e) → ∃ t, exec (.nsendRow id) s = .next t ∧
        (x.acked < x.started → (t.sends.find? (fun e => e.id == id)).map (·.dead) = some true) ∧
        (¬ x.acked < x.started → t.sends.find? (fun e => e.id == id) = none) ∧
        ((s.thr x.thread).exited = false → ∃ d ∈ (t.thr x.thread).deferred, d.id = id ∧ d.send = true ∧ d.faddr = x.recAddr ∧
          (s.rowRefused x x.started = true → d.cause = .remoteRefused)) ∧ ∀ l, t.readM l = s.readM l) ∧
      (∀ bs s1, s.rowRefused x x.started = false → rd = .ok (bs, s1) → x.quant = 0 → ∃ t y, exec (.nsendRow id) s = .next t ∧
        t.sends.find? (fun e => e.id == id) = some y ∧ y.started = x.started + 1 ∧ y.acked = x.acked ∧ kget y.sent x.started = some bs ∧
        ∀ l, t.readM l = s1.readM l) ∧
      (∀ bs s1 es s2 q, s.rowRefused x x.started = false → rd = .ok (bs, s1) → x.quant ≠ 0 →
        let rb := if x.rfmt = 0 then 4 else 2
        let els := (min x.rowB (x.len - x.started * x.rowB)) / x.srcB
        s1.unitRead (s.whoSend x) (x.resid + BitVec.ofNat 64 (x.started * 1024 * rb)) (els * rb) false = .ok (es, s2) →
        quantRow x (els / 32) (codesOf (8 * x.srcB) els bs) (codesOf (8 * rb) els es)
          ((s.part (s.partOf x.tm)).seed ^^^ (BitVec.ofNat 64 x.flow <<< 32) ^^^ (x.seq + BitVec.ofNat 32 x.started).setWidth 64) = some q →
        ∃ t y, exec (.nsendRow id) s = .next t ∧ t.sends.find? (fun e => e.id == id) = some y ∧ y.started = x.started + 1 ∧
          kget y.pending x.started = some (q.2.2.1.flatMap (leBytes rb)) ∧ y.flags = x.flags ||| q.2.2.2)) ∧
    (∀ id x l q mb, s.sends.find? (fun e => e.id == id) = some x → x.acked < x.started →
      s.unitResAll (s.whoSend x) (pieces (x.resid + BitVec.ofNat 64 (x.acked * 1024 * (if x.rfmt = 0 then 4 else 2)))
        (kgetD x.pending x.acked []).length) true false = .ok l →
      s.unitResAll (s.whoSend x) [(x.recAddr + 56, 8)] true false = .ok q → s.lmbCheck (s.whoSend x) x.lmb = .ok mb →
      ∃ t, exec (.rowAck id) s = .next t ∧
        (x.acked + 1 < (if x.dead then x.started else x.nrows) →
          (t.sends.find? (fun e => e.id == id)).map (·.acked) = some (x.acked + 1)) ∧
        (¬ x.acked + 1 < (if x.dead then x.started else x.nrows) → t.sends.find? (fun e => e.id == id) = none ∧ 2 * x.id + 1 ∉ (t.thr x.thread).out) ∧
        ∀ f, (kget s.parts (s.partOf x.tm)).isSome → kget (s.part (s.partOf x.tm)).flows x.peerIx = some f →
          (kget (t.part (s.partOf x.tm)).flows x.peerIx).map (·.unacked) = some (x.seq + BitVec.ofNat 32 (x.acked + 1))) ∧
    (∀ (row : RemoteRow) (f : Flow), (kget s.parts row.part).isSome → kget (s.part row.part).rflows row.flow = some f →
      (f.seen row.seq = true → exec (.remoteRowArrival row) s = .next { s with dups := kput s.dups row.port (kgetD s.dups row.port 0 + 1) }) ∧
      (f.seen row.seq = false → (row.seq - f.base).toNat < Config.flowWindow →
        (s.windowRes row.part row.win row.offset row.bytes.length true = none → ∃ t, exec (.remoteRowArrival row) s = .next t ∧
          { t with parts := s.parts } = s ∧ (t.part row.part).rflows = (s.part row.part).rflows) ∧
        (∀ l q, s.windowRes row.part row.win row.offset row.bytes.length true = some l →
          s.windowRes row.part row.win row.scaleAt row.scales.length true = some q → row.rmb = none →
          ∃ t, exec (.remoteRowArrival row) s = .next t ∧ kget (t.part row.part).rflows row.flow = some (f.accept row.seq) ∧
            (∀ pa r, l = [(r, row.bytes.length)] → r.loc = .hbm pa → q = [] → ∀ j, j < row.bytes.length →
              t.readM (.hbm (pa + j)) = row.bytes.getD j 0)))) ∧
    (∀ id x, s.sends.find? (fun e => e.id == id) = some x → ∀ i cause,
      (i = .remoteTimeout (.send id) ∧ cause = Cause.remoteTimeout ∧ x.acked < x.started) ∨ (i = .remoteRefused (.send id) ∧ cause = Cause.remoteRefused) →
      ∃ t, exec i s = .next t ∧ t.sends.find? (fun e => e.id == id) = none ∧
        ((s.thr x.thread).exited = false → x.dead = false → ∃ d ∈ (t.thr x.thread).deferred, d.id = id ∧ d.cause = cause ∧ d.faddr = x.recAddr) ∧
        ∀ l, t.readM l = s.readM l) ∧
    (∀ tm u q f i (c : Cause), u < 1024 → s.getFlight (tkey tm .a u) q = some f →
      (i = .remoteTimeout (.get tm u q) ∧ c = .remoteTimeout) ∨ (i = .remoteRefused (.get tm u q) ∧ c = .remoteRefused) →
      ∃ t, exec i s = .next t ∧ (∃ y ∈ (t.pair (pkey tm u)).flights, y.id = f.id ∧ ∃ a, y.cargo = .fault c a) ∧
        2 * f.id + 1 ∉ (t.thr (tkey tm .a u)).out ∧ ∀ l, t.readM l = s.readM l) ∧
    (∀ tm u q f (w : Word), u < 1024 → s.getFlight (tkey tm .a u) q = some f → ∃ t, exec (.ngetResponse tm u q w) s = .next t ∧
      (∃ y ∈ (t.pair (pkey tm u)).flights, y.id = f.id ∧ y.cargo = .data [w]) ∧ 2 * f.id + 1 ∉ (t.thr (tkey tm .a u)).out ∧
      ∀ l, t.readM l = s.readM l) ∧
    (∀ part win off r n rest, (kget s.parts part).isSome → s.windowRes part win off 4 false = some ((r, n) :: rest) →
      ∃ t, exec (.remoteRead part win off) s = .next t ∧ t.peerRead = BitVec.ofNat 32 (leNat (t.readMs r.loc 4)) ∧
        t.readMs r.loc 4 = ((s.keepTlb r).mergeLines (r.loc.words 4)).readMs r.loc 4)

/-- A submission is counted, and where its TCB passes every check a task stands that waits, or is ready where it has no dependence; a
misaligned one leaves memory and tasks as they were. A task that may commit takes state 4 and its version stands in memory. A commit's
next successor entry is taken from its list. A task that Ecide or the host ends takes state 6, and its teams are gone. A sound bind
record is written into a free entry, unless Ecide is being handed over; one that dispatch accepts is consumed and its team placed, and
one it refuses, or that names no team to place, is marked with ERR. A complete cluster starts: its teams run, or stand stopped where
the debugger had stopped them. An eviction request joins those pending; a saved slot is evicted; a migrated or swapped-out team is
saved, and a swap-in makes a partition active whose image has not been sent away. A lent tile is lent no more. -/
def Obligations.EventsOfTasks : Prop :=
  ∀ s : State, s.power = true →
    (∀ part (va : DWord), s.up = true → (kget s.parts part).isSome →
      let s0 := s.modPart part (fun q => { q with subTaken := q.subTaken + 1 })
      ∃ t, exec (.submit part va) s = .next t ∧ (t.part part).subTaken = (s.part part).subTaken + 1 ∧
        (va.toNat % 128 ≠ 0 → t.tasks = s.tasks ∧ ∀ l, t.readM l = s.readM l) ∧
        ∀ r, va.toNat % 128 = 0 → s0.partRes part va = some r →
          let s1 := (s0.keepTlb r).mergeLines (r.loc.words 128)
          let q := tcbOf (s1.readMs r.loc 128)
          s1.tcbState r.loc = 0 → q.part = part → q.legal = true → q.fits = true → ∀ c s2 a s3,
          s1.partRead part (pieces q.code 16) = .ok (c, s2) → s2.partRead part (if q.args = 0 then [] else pieces q.args 128) = .ok (a, s3) →
          ∃ k, kget t.tasks s3.nextId = some k ∧ k.va = va ∧ k.part = part ∧ k.state = (if q.deps = 0 then 2 else 1) ∧ k.prio = q.prio ∧
            k.teams = q.teams ∧ k.args = q.args) ∧
    (∀ task, s.mayCommit task = true → ∃ t, exec (.commit task) s = .next t ∧ (t.task task).state = 4 ∧ (t.task task).ver = [] ∧
      ((kkeys (s.task task).ver).Nodup → s.owesMerge ((locOfPa (s.task task).pa).words 128) = false → ∀ pa b, kget (s.task task).ver pa = some b →
        pa < (s.task task).pa ∨ (s.task task).pa + 128 ≤ pa → t.readM (.hbm pa) = b)) ∧
    (∀ task va rest, (s.task task).succs = va :: rest → ∃ t, exec (.successorDecrement task) s = .next t ∧ (t.task task).succs = rest) ∧
    (∀ task, 1 ≤ (s.task task).state → (s.task task).state ≤ 3 → ∃ t, exec (.taskEnded task) s = .next t ∧ (t.task task).state = 6 ∧
      ∀ tm ∈ s.teamsOf task, kget t.teams tm = none) ∧
    (∀ core idx (r : BindRec), r.valid = true →
      (∀ x, idx < 8 → (s.core core).part.isSome → s.handover = none → s.bindSound core r = some x → kget (s.core core).table idx = none →
        ∃ t, exec (.bindRecord core idx r) s = .next t ∧ kget (t.core core).table idx = some r ∧ { t with cores := s.cores } = s) ∧
      (kget (s.core core).table idx = some r → (s.core core).nextRecord = some idx →
        (∀ task k, s.bindTask core r = some task → s.bindKind core task r = some k → s.accepts core task r k = true →
          ∃ t, exec (.bindRecord core idx r) s = .next t ∧ kget (t.core core).table idx = some (r.done false) ∧
            (k = .fresh → (t.team s.nextId).mode = .placed ∧ (t.team s.nextId).no = r.team ∧ (t.team s.nextId).core = core ∧
              (t.team s.nextId).slots = r.granted)) ∧
        ((∀ task k, s.bindTask core r = some task → s.bindKind core task r = some k → s.accepts core task r k = false) →
          ∃ t, exec (.bindRecord core idx r) s = .next t ∧ kget (t.core core).table idx = some (r.done true)))) ∧
    (∀ cl x, kget s.clusters cl = some x → s.clusterReady x = true → (∀ n ∈ x.teams, (kget s.teams n).isSome) →
      ∃ t, exec (.teamStart cl) s = .next t ∧ ∀ n ∈ x.teams,
      (x.restore = false → (t.team n).mode = .running) ∧ (x.restore = true → (s.team n).mode = .placed → (t.team n).mode = .running ∨ (t.team n).mode = .stopped)) ∧
    (∀ cl x, kget s.clusters cl = some x → s.clusterReady x = false → x.restore = true → (∃ n ∈ x.teams, s.groupsBack n = true) →
      ∃ t, exec (.teamStart cl) s = .next t ∧ (∀ l, t.readM l = s.readM l) ∧ ∀ n ∈ x.teams, s.groupsBack n = true → (t.team n).savedBins = []) ∧
    (∀ core need, s.handover = none → (s.core core).part = some need.part → (needAmounts need).sub (s.freeOn core) ≠ noAmounts →
      (s.victims core (s.core core).needs).length < (s.victims core ((s.core core).needs ++ [need])).length →
      ∃ t, exec (.eviction core need) s = .next t ∧ { t with cores := s.cores } = s ∧ (t.core core).needs = (s.core core).needs ++ [need]) ∧
    (∀ tm slot, (s.team tm).mode = .running ∨ (s.team tm).mode = .stopped → slot ∈ (s.team tm).held → s.slotQuiet tm slot = true →
      s.mayBegin tm slot = true → (kget s.teams tm).isSome → ∃ t, exec (.groupSave tm slot) s = .next t ∧
        (t.team tm).slots.findIdx (· == slot) ∈ (t.team tm).evicted) ∧
    (∀ cl, s.liveTeams (s.clusterTeams cl) ≠ [] → (∀ n ∈ s.liveTeams (s.clusterTeams cl), (s.team n).mode = .running ∧ s.teamQuiet n = true ∧ s.settled n = true ∧
        (s.task (s.team n).task).migr = true ∧ (s.task (s.team n).task).preempt = true) →
      ∃ t, exec (.thermalMigration cl) s = .next t ∧ ∀ n ∈ s.liveTeams (s.clusterTeams cl), (t.team n).mode = .saved) ∧
    (∀ core x rest, (s.core core).lent = x :: rest → ∃ t, exec (.lentTileDrain core) s = .next t ∧ { t with cores := s.cores } = s ∧
      t.core core = { s.core core with lent := rest }) ∧
    (∀ part, (kget s.parts part).isSome → (s.part part).mode = .active →
      (s.part part).migrating = false ∨ (s.part part).named < (s.part part).cfg.threshold →
      (∀ n ∈ s.partTeams part, (s.team n).mode ≠ .placed ∧ s.teamQuiet n = true) → ∃ t, exec (.swapOut part) s = .next t ∧
        (t.part part).mode = .swapped ∧ ∀ n ∈ s.partTeams part, (t.team n).mode = .saved) ∧
    (∀ part, (s.part part).mode = .swapped → (s.part part).migrating = false → (s.part part).sentAway = false →
      ∃ t, exec (.swapIn part) s = .next t ∧ (t.part part).mode = .active)

/-- Host writes: APBASE takes bits [55:30] of an aligned dword, a write that reaches SUBMIT as anything but one aligned dword is dropped
and counted, an unaligned write elsewhere, or one to a register that takes none, changes nothing; an aperture write puts its bytes
where APBASE leads, or changes no byte where it does not translate; an aperture read gives as many bytes as asked. A read of the port
gives the register of Table 19-1 that stands there, and all ones before bring-up. A quote names the log, the nonce and the GTC. A
corrected error is counted, and recorded where the count crosses a power of two; an uncorrectable one that eviction or scrubbing finds
is recorded, and stays in its word. A partition is created with its cores, resized, or deleted with its teams. A retired core gives
its place to the row's spare, or is absent where the spare is in use; a retired channel is noted; lanes and link widths go down; a
recalibration changes no byte. A tlbi of Ecide drops held translations, the debugger sets a breakpoint register, and an uncorrectable
error in a group's own state is recorded. The clock goes one step up or down; over the coolant limit every task ends and power goes;
with power good the device is up, with recovery where both images fail; without power every volatile state is that of a cold device,
and host memory stays. An image of Ecide that verifies is loaded into the inactive slot, extends the log and begins the handover, at
whose end it has taken over or the old one runs on; one that does not verify changes only that slot. -/
def Obligations.EventsOfService : Prop :=
  ∀ s : State, s.power = true →
    (∀ part (v : DWord), s.up = true → (kget s.parts part).isSome →
      (∃ t, exec (.registerWrite part 16 8 v) s = .next t ∧ { t with parts := s.parts } = s ∧
        t.part part = { s.part part with apbase := v &&& 0x00FFFFFFC0000000#64 }) ∧
      (∀ off n, off < 8 → ¬ (off = 0 ∧ n = 8) → ∃ t, exec (.registerWrite part off n v) s = .next t ∧ { t with parts := s.parts } = s ∧
        t.part part = { s.part part with subDropped := (s.part part).subDropped + 1 }) ∧
      (∀ off n, 8 ≤ off → alignedWrite off n = false ∨ (off / 8 ≠ 2 ∧ off / 8 ≠ 4) → exec (.registerWrite part off n v) s = .next s) ∧
      (∀ i, ∃ t, s.readPort (some part) (8 * i) 8 = .next t ∧ t = { s with hostRead := t.hostRead } ∧
        t.hostRead = leBytes 8 (match i with
          | 1 => (s.part part).subDropped ++ (s.part part).subTaken
          | 2 => (s.part part).apbase
          | 3 => (s.part part).telHead
          | 4 => (s.part part).telTail
          | _ => 0#64).toNat) ∧
      exec (.registerWrite part 0 8 v) s = exec (.submit part v) s) ∧
    (∀ part off bs, s.up = true → (kget s.parts part).isSome → off + bs.length ≤ 2 ^ 30 →
      let va := (s.part part).apbase + BitVec.ofNat 64 off
      ∃ t, exec (.hostApertureWrite part off bs) s = .next t ∧
        (pieces va bs.length = [(va, bs.length)] →
          ((∀ r, s.partRes part va = some r → r.w = false) → ∀ l, t.readM l = s.readM l) ∧
          (∀ r pa, s.partRes part va = some r → r.w = true → r.loc = .hbm pa → ∀ j, j < bs.length → t.readM (.hbm (pa + j)) = bs.getD j 0))) ∧
    (∀ part off n, s.up = true → (kget s.parts part).isSome → off + n ≤ 2 ^ 30 → ∃ t, exec (.hostApertureRead part off n) s = .next t ∧
      t.hostRead.length = n ∧ (s.partRes part ((s.part part).apbase + BitVec.ofNat 64 off) = none →
        pieces ((s.part part).apbase + BitVec.ofNat 64 off) n = [((s.part part).apbase + BitVec.ofNat 64 off, n)] →
        t.hostRead = List.replicate n 0xFF)) ∧
    (∀ part (nonce : BitVec 512), s.up = true → (kget s.parts part).isSome → ∃ t q, exec (.quote part nonce) s = .next t ∧
      t = { s with quotes := s.quotes ++ [q] } ∧ q.part = part ∧ q.log = s.mlog ∧ q.nonce = nonce ∧ q.gtc = s.gtc) ∧
    (∀ fn off n, s.up = false → ∃ t, s.readPort fn off n = .next t ∧ t.hostRead = List.replicate n 0xFF) ∧
    (∀ part (r : MachineCheck), r.array.toNat ≤ 9 → r.kind.toNat ≤ 2 → 7 ≤ r.array.toNat ∨ (s.coreAt r.source.toNat).isSome →
      s.errOwner part (s.coreAt r.source.toNat) r.array.toNat r.addr.toNat = some part →
      let old := (s.errCount r.source.toNat r.array.toNat).toNat
      ∃ t, exec (.scrubError part r) s = .next t ∧ (∀ l, t.readM l = s.readM l) ∧
        (r.kind = 0 → (t.errCount r.source.toNat r.array.toNat).toNat = min (old + 1) (2 ^ 32 - 1) ∧ t.bad = s.bad) ∧
        ((r.kind = 2 ∨ (r.kind = 0 ∧ old + 1 < 2 ^ 32 ∧ isPow2 (old + 1) = true)) →
          ∃ x, t.mclog = s.mclog ++ [x] ∧ x.gtc = s.gtc ∧ x.w1 = r.source ++ r.array ++ r.kind ++ 0#32 ∧ x.w2 = r.addr) ∧
        (r.kind = 1 ∨ (r.kind = 0 ∧ isPow2 (old + 1) = false) → t.mclog = s.mclog) ∧
        (r.kind ≠ 0 → r.array = 7 ∨ r.array = 9 → 2 * (r.addr.toNat / 4) ∈ t.bad)) ∧
    (∀ part (cfg : PartCfg), s.up = true → s.recovery = false → part ≤ 23 → kget s.parts part = none →
      s.roomFor part cfg.cores cfg.grant = true → cfg.share + s.parts.foldl (fun n e => n + e.2.cfg.share) 0 ≤ 64 → s.waysFit cfg = true →
      (∀ e ∈ cfg.rings, e.1 < 1024 ∧ kget s.rings e.1 = none ∧ ringLegal e.2 = true) →
      ∃ t, exec (.partitionCreate part cfg) s = .next t ∧ kget t.parts part = some (freshPart cfg) ∧
        (∀ c ∈ cfg.cores, (t.core c).part = some part) ∧ ∀ l, t.readM l = s.readM l) ∧
    (∀ part cores grant, (kget s.parts part).isSome → (s.part part).migrating = false → s.roomFor part cores grant = true →
      (∀ c ∈ (s.part part).cfg.cores, c ∉ cores → s.idleCore c = true) → ∃ t, exec (.partitionResize part cores grant) s = .next t ∧
        (t.part part).cfg = { (s.part part).cfg with cores := cores, grant := grant } ∧
        (∀ c ∈ (s.part part).cfg.cores, c ∉ cores → (t.core c).part = none) ∧
        ∀ c ∈ cores, c ∉ (s.part part).cfg.cores → (t.core c).part = some part) ∧
    (∀ part, (kget s.parts part).isSome → (∀ e ∈ s.tasks, e.2.part = part → ¬ (1 ≤ e.2.state ∧ e.2.state ≤ 3)) →
      ∃ t, exec (.partitionDelete part) s = .next t ∧ kget t.parts part = none ∧
        (∀ n, (kget s.teams n).isSome → (s.team n).part = part → kget t.teams n = none) ∧ ∀ e ∈ t.rings, e.2.part ≠ part) ∧
    (∀ core, core < 240 → s.up = true → (s.core core).absent = false → s.idleCore core = true →
      ∃ t, exec (.coreRetirement core) s = .next t ∧
        ((∀ c ∈ s.spareUsed, c / 15 ≠ core / 15) → t.spareUsed = s.spareUsed ++ [core]) ∧
        ((∃ c ∈ s.spareUsed, c / 15 = core / 15) → t.spareUsed = s.spareUsed ∧ (t.core core).absent = true)) ∧
    (∀ stack ch, stack < 12 → s.up = true →
      (∃ t, exec (.hbmRecalibration stack ch) s = .next t ∧ { t with parts := s.parts } = s) ∧
      (ch < 64 → (∀ e ∈ s.channels, e.1 ≠ stack) → ∃ t, exec (.pseudoChannelRetirement stack ch) s = .next t ∧ t.channels = s.channels ++ [(stack, ch)] ∧
        { t with parts := s.parts, channels := s.channels } = s)) ∧
    (∀ port lanes, 320 ≤ port → port ≤ 331 → lanes = 4 ∨ lanes = 2 → lanes < kgetD s.lanes port 8 → s.up = true →
      ∃ t, exec (.lynxLaneDegrade port lanes) s = .next t ∧ kget t.lanes port = some lanes ∧ t.sends.length = s.sends.length ∧
        ∀ x ∈ t.sends, x.port = port → x.started = x.acked) ∧
    (∀ w, w = 8 ∨ w = 4 → w < s.pcieWidth → s.up = true → ∃ t, exec (.pcieDegrade w) s = .next t ∧ t.pcieWidth = w ∧
      { t with parts := s.parts, pcieWidth := s.pcieWidth } = s) ∧
    (∀ part va, (kget s.parts part).isSome → ∃ t, s.serviceTlbi part va = .next t ∧ (∀ l, t.readM l = s.readM l) ∧
      ∀ e ∈ t.tlb, e ∈ s.tlb ∧ (e.part = part → ∃ v : DWord, va = some v ∧ ¬ (e.va ≤ v.toNat ∧ v.toNat < e.va + e.size))) ∧
    (∀ part n v, (kget s.parts part).isSome → (s.part part).debug = true → n < 8 → srTakes (0x28 + n) v = true →
      ∃ t, s.setBreakpoint part n v = .next t ∧ { t with parts := s.parts } = s ∧ kget (t.part part).bp n = some v) ∧
    (∀ gid g, kget s.groups gid = some g → ∃ t x, s.groupError gid = .next t ∧ t.mclog = s.mclog ++ [x] ∧ x.gtc = s.gtc) ∧
    (∀ c, c ≤ 15 → c = s.cap + 1 ∨ c + 1 = s.cap → exec (.powerCap c) s = .next { s with cap := c }) ∧
    (s.cap = 15 → ∃ t, exec .coolantOverLimit s = .next t ∧ t.power = false ∧ t.tasks = [] ∧ t.fuses = s.fuses) ∧
    exec .powerRemoved s = .next { State.reset with power := false, fuses := s.fuses, agenda := s.agenda, tick := s.tick,
                                                    mem := s.mem.filter (fun e => isHost e.1) } ∧
    (∀ boot : BootCfg, s.up = false → s.recovery = false → s.fuses = noFuses ∨ sameFuses boot s.fuses = true →
      let okA := Config.verifyImage boot.imageKey boot.imageA
      let okB := Config.verifyImage boot.imageKey boot.imageB
      ∃ t, exec (.powerGood boot) s = .next t ∧ t.power = true ∧ t.up = true ∧ t.fuses = boot ∧
        (t.recovery = true ↔ okA = false ∧ okB = false) ∧ (okA = true → t.mlog = extendLog 0 boot.imageA ∧ t.slotB = false) ∧
        (okA = false → okB = true → t.mlog = extendLog 0 boot.imageB ∧ t.slotB = true)) ∧
    (∀ comp ok, s.up = true → s.recovery = false →
      (s.handover = none →
        let s1 := if s.slotB then { s with imageA := comp } else { s with imageB := comp }
        (Config.verifyImage s.fuses.imageKey comp = true →
          exec (.ecideHandover comp ok) s = .next { s1 with handover := some comp, mlog := extendLog s.mlog comp }) ∧
        (Config.verifyImage s.fuses.imageKey comp = false → exec (.ecideHandover comp ok) s = .next s1)) ∧
      (s.handover = some comp →
        exec (.ecideHandover comp ok) s = .next { s with handover := none, slotB := if ok then !s.slotB else s.slotB }))

/-- A write-back sets its frame's bit and leaves the frame clean in L2; a harvest clears its dword and, in a migration, adds its frames to
those to send. A first round names every frame of the grant, a later one the frames dirty by then. At the source the next frame is
sealed; it counts as sent where its tag was right, it is sent again where not, and a third failure gives the migration up. At a
destination a frame that opens under the session's key and counter stands in memory, and any other changes no byte. When nothing is
left to send, each record of the image is appended with its type and content, the header first; the end record ends the source's part.
The receiver skips an unknown record, or refuses the image where it is mandatory and drops what it has taken; it takes a task with its
stamps, the source's time and the end. The source of a refused image no longer migrates. -/
def Obligations.EventsOfMigration : Prop :=
  ∀ s : State, s.power = true → ∀ part, (kget s.parts part).isSome → let q := s.part part
    (∀ f, f ∈ q.l2dirty → ∃ t, exec (.l2WriteBack part f) s = .next t ∧ { t with parts := s.parts } = s ∧ f ∉ (t.part part).l2dirty ∧
      (kgetD (t.part part).dirty (f / 64) 0).getLsbD (f % 64) = true) ∧
    (∀ d, d < q.cfg.grant.length * 4096 → ∃ t, exec (.dirtyHarvest part d) s = .next t ∧ { t with parts := s.parts } = s ∧
      kget (t.part part).dirty d = none ∧ (q.migrating = false → (t.part part).toSend = q.toSend) ∧
      (q.migrating = true → ∀ i, i < 64 → (kgetD q.dirty d 0).getLsbD i = true → 64 * d + i ∈ (t.part part).toSend)) ∧
    (q.toSend = [] → q.migrating = false ∨ q.image = [] →
      (q.mode = .active ∧ (q.migrating = false ∨ q.cfg.threshold ≤ q.named)) ∨ (q.mode = .swapped ∧ q.migrating = true ∧ q.l2dirty = []) →
      ∃ t, exec (.migrationRound part) s = .next t ∧ { t with parts := s.parts, nextId := s.nextId } = s ∧ (t.part part).migrating = true ∧
        (q.migrating = false → (t.part part).toSend = List.range (q.cfg.grant.length * 2 ^ 18) ∧ (t.part part).round = 0 ∧
          (t.part part).frames = 0) ∧
        (q.migrating = true → (t.part part).dirty = [] ∧ (t.part part).round = q.round + 1 ∧ ∀ f, f ∈ (t.part part).toSend ↔ f ∈ q.dirtyFrames)) ∧
    (∀ f rest bs ok, q.migrating = true → q.toSend = f :: rest → ∃ t, exec (.precopyFrame part f bs ok) s = .next t ∧
      t.sealed = s.sealFrame part f ∧
      (ok = true → { t with parts := s.parts, sealed := s.sealed } = s ∧
        t.part part = { q with toSend := rest, frames := q.frames + 1, fails := 0 }) ∧
      (ok = false → q.fails < 2 → { t with parts := s.parts, sealed := s.sealed } = s ∧
        t.part part = { q with frames := q.frames + 1, fails := q.fails + 1 }) ∧
      (ok = false → 2 ≤ q.fails → (t.part part).migrating = false ∧ (t.part part).toSend = [])) ∧
    (∀ f bs ok, q.migrating = false → q.mode = .active ∨ (∃ base top, q.mode = .receiving base top []) →
      (∀ e ∈ s.tasks, e.2.part ≠ part) → f < q.cfg.grant.length * 2 ^ 18 → bs.length = 4112 →
      let q0 : Part := if q.mode = .active then { q with session := s.nextId, frames := 0 } else q
      ∃ t, exec (.precopyFrame part f bs ok) s = .next t ∧ (t.part part).frames = q0.frames + 1 ∧ (t.part part).session = q0.session ∧
        (∀ x, openBytes q0.nonce.1 q0.nonce.2 bs = some x → ∀ j, j < x.length → t.readM (.hbm (framePa q f + j)) = x.getD j 0) ∧
        (openBytes q0.nonce.1 q0.nonce.2 bs = none → ∀ l, t.readM l = s.readM l)) ∧
    (q.mode = .swapped → q.migrating = true → s.allSent part = true →
      (q.image = [] → ∃ t shapes, exec (.partitionHeader part) s = .next t ∧ { t with parts := s.parts } = s ∧
        (t.part part).image = [imgRec 1 0 (.header q.cfg.grant.length s.nextId
          [q.ptroot, q.htab, q.seed, q.minres, q.eddl, q.bchk, q.kvfreq, q.kvsalt, q.kvdir, q.apbase] q.bp shapes)]) ∧
      (∀ i typ body, q.image ≠ [] → (∀ r ∈ q.image, r.typ ≠ endType ∧ r.body ≠ body) →
        (∃ tm, i = .teamContext part tm ∧ typ = 2 ∧ body = .team (s.teamImage tm) ∧ (kget s.teams tm).isSome ∧ (s.team tm).part = part ∧
            (s.team tm).mode = .saved ∧ ∀ x, (∃ r ∈ q.image, r.body = .team x) → x.no ≠ tm) ∨
          (∃ k, i = .taskRecord part k ∧ typ = 3 ∧ body = .task k (s.task k) ∧ (kget s.tasks k).isSome ∧ (s.task k).part = part ∧
            1 ≤ (s.task k).state ∧ (s.task k).state ≤ 3) ∨
          (∃ core, i = .bearContinuation part core ∧ typ = 4 ∧ body = .bear core (s.partBear part core) ∧ s.partBear part core ≠ []) ∨
          (i = .lynxFlows part ∧ typ = 5 ∧ body = .flows q.flows q.rflows) ∨
          (i = .timeRecord part ∧ typ = 6 ∧ body = .time s.gtc ∧ ∀ x, ∀ r ∈ q.image, r.body ≠ .time x) ∨
          (i = .telemetryRingTail part ∧ typ = 0x10 ∧ body = .tail q.telHead q.telTail q.tel) ∨
          (i = .bearCheckStatistics part ∧ typ = 0x11 ∧ body = .check q.bchk q.mzeros) ∨
          (i = .endOfImage part ∧ typ = endType ∧ body = .fin ∧ s.imageWhole part = true) →
        ∃ t, exec i s = .next t ∧ { t with parts := s.parts } = s ∧ (t.part part).image = q.image ++ [imgRec typ q.image.length body] ∧
          ((t.part part).migrating = false ↔ typ = endType))) ∧
    (∀ base top seen, q.mode = .receiving base top seen →
      (∀ head : DWord, knownRecord head = false → ∃ t, exec (.unknownRecord part head) s = .next t ∧
        (head.getLsbD 15 = true → (t.part part).mode = .active ∧ ∀ n, (kget t.teams n).isSome → (t.team n).part ≠ part) ∧
        (head.getLsbD 15 = false → { t with parts := s.parts } = s ∧
          (t.part part).mode = .receiving base top (seen ++ [(head.extractLsb' 0 15).toNat]))) ∧
      (seen ≠ [] →
        (∀ n k p, base ≤ n → n < top → kget s.tasks n = none → k.part = part → 1 ≤ k.state → k.state ≤ 3 →
          ∃ t, s.recordCame part (imgRec 3 p (.task n k)) = .next t ∧ kget t.tasks n = some k) ∧
        (∀ x p, ∃ t, s.recordCame part (imgRec 6 p (.time x)) = .next t ∧ (t.part part).srcGtc = some x) ∧
        (∀ p, ∃ t, s.recordCame part (imgRec endType p .fin) = .next t ∧ (t.part part).mode = .swapped))) ∧
    (∀ head : DWord, q.migrating = true ∨ q.sentAway = true →
      ∃ t, exec (.imageRefused part head) s = .next t ∧ (t.part part).migrating = false ∧ (t.part part).image = [])
end

