-- ==== Sys2Proof/Laws/State.lean ====
section
/-! SUPPORT. What each update of the state leaves alone: one lemma per field and accessor, so that no proof unfolds a record
update. -/

namespace Sys2Proof.Machine

@[simp] theorem State.modThr_power (s : State) (k : Nat) (f : Thread → Thread) : (s.modThr k f).power = s.power := rfl
@[simp] theorem State.modThr_up (s : State) (k : Nat) (f : Thread → Thread) : (s.modThr k f).up = s.up := rfl
@[simp] theorem State.modThr_recovery (s : State) (k : Nat) (f : Thread → Thread) : (s.modThr k f).recovery = s.recovery := rfl
@[simp] theorem State.modThr_gtc (s : State) (k : Nat) (f : Thread → Thread) : (s.modThr k f).gtc = s.gtc := rfl
@[simp] theorem State.modThr_gphase (s : State) (k : Nat) (f : Thread → Thread) : (s.modThr k f).gphase = s.gphase := rfl
@[simp] theorem State.modThr_cycle (s : State) (k : Nat) (f : Thread → Thread) : (s.modThr k f).cycle = s.cycle := rfl
@[simp] theorem State.modThr_cap (s : State) (k : Nat) (f : Thread → Thread) : (s.modThr k f).cap = s.cap := rfl
@[simp] theorem State.modThr_fuses (s : State) (k : Nat) (f : Thread → Thread) : (s.modThr k f).fuses = s.fuses := rfl
@[simp] theorem State.modThr_spareUsed (s : State) (k : Nat) (f : Thread → Thread) : (s.modThr k f).spareUsed = s.spareUsed := rfl
@[simp] theorem State.modThr_identSpares (s : State) (k : Nat) (f : Thread → Thread) : (s.modThr k f).identSpares = s.identSpares := rfl
@[simp] theorem State.modThr_mlog (s : State) (k : Nat) (f : Thread → Thread) : (s.modThr k f).mlog = s.mlog := rfl
@[simp] theorem State.modThr_slotB (s : State) (k : Nat) (f : Thread → Thread) : (s.modThr k f).slotB = s.slotB := rfl
@[simp] theorem State.modThr_imageA (s : State) (k : Nat) (f : Thread → Thread) : (s.modThr k f).imageA = s.imageA := rfl
@[simp] theorem State.modThr_imageB (s : State) (k : Nat) (f : Thread → Thread) : (s.modThr k f).imageB = s.imageB := rfl
@[simp] theorem State.modThr_handover (s : State) (k : Nat) (f : Thread → Thread) : (s.modThr k f).handover = s.handover := rfl
@[simp] theorem State.modThr_quotes (s : State) (k : Nat) (f : Thread → Thread) : (s.modThr k f).quotes = s.quotes := rfl
@[simp] theorem State.modThr_lanes (s : State) (k : Nat) (f : Thread → Thread) : (s.modThr k f).lanes = s.lanes := rfl
@[simp] theorem State.modThr_pcieWidth (s : State) (k : Nat) (f : Thread → Thread) : (s.modThr k f).pcieWidth = s.pcieWidth := rfl
@[simp] theorem State.modThr_channels (s : State) (k : Nat) (f : Thread → Thread) : (s.modThr k f).channels = s.channels := rfl
@[simp] theorem State.modThr_mclog (s : State) (k : Nat) (f : Thread → Thread) : (s.modThr k f).mclog = s.mclog := rfl
@[simp] theorem State.modThr_errs (s : State) (k : Nat) (f : Thread → Thread) : (s.modThr k f).errs = s.errs := rfl
@[simp] theorem State.modThr_dups (s : State) (k : Nat) (f : Thread → Thread) : (s.modThr k f).dups = s.dups := rfl
@[simp] theorem State.modThr_hostRead (s : State) (k : Nat) (f : Thread → Thread) : (s.modThr k f).hostRead = s.hostRead := rfl
@[simp] theorem State.modThr_peerRead (s : State) (k : Nat) (f : Thread → Thread) : (s.modThr k f).peerRead = s.peerRead := rfl
@[simp] theorem State.modThr_mem (s : State) (k : Nat) (f : Thread → Thread) : (s.modThr k f).mem = s.mem := rfl
@[simp] theorem State.modThr_bad (s : State) (k : Nat) (f : Thread → Thread) : (s.modThr k f).bad = s.bad := rfl
@[simp] theorem State.modThr_badL1 (s : State) (k : Nat) (f : Thread → Thread) : (s.modThr k f).badL1 = s.badL1 := rfl
@[simp] theorem State.modThr_badCode (s : State) (k : Nat) (f : Thread → Thread) : (s.modThr k f).badCode = s.badCode := rfl
@[simp] theorem State.modThr_badAcc (s : State) (k : Nat) (f : Thread → Thread) : (s.modThr k f).badAcc = s.badAcc := rfl
@[simp] theorem State.modThr_acc (s : State) (k : Nat) (f : Thread → Thread) : (s.modThr k f).acc = s.acc := rfl
@[simp] theorem State.modThr_rel (s : State) (k : Nat) (f : Thread → Thread) : (s.modThr k f).rel = s.rel := rfl
@[simp] theorem State.modThr_tlb (s : State) (k : Nat) (f : Thread → Thread) : (s.modThr k f).tlb = s.tlb := rfl
@[simp] theorem State.modThr_oldPtes (s : State) (k : Nat) (f : Thread → Thread) : (s.modThr k f).oldPtes = s.oldPtes := rfl
@[simp] theorem State.modThr_purges (s : State) (k : Nat) (f : Thread → Thread) : (s.modThr k f).purges = s.purges := rfl
@[simp] theorem State.modThr_checked (s : State) (k : Nat) (f : Thread → Thread) : (s.modThr k f).checked = s.checked := rfl
@[simp] theorem State.modThr_parts (s : State) (k : Nat) (f : Thread → Thread) : (s.modThr k f).parts = s.parts := rfl
@[simp] theorem State.modThr_tasks (s : State) (k : Nat) (f : Thread → Thread) : (s.modThr k f).tasks = s.tasks := rfl
@[simp] theorem State.modThr_cores (s : State) (k : Nat) (f : Thread → Thread) : (s.modThr k f).cores = s.cores := rfl
@[simp] theorem State.modThr_clusters (s : State) (k : Nat) (f : Thread → Thread) : (s.modThr k f).clusters = s.clusters := rfl
@[simp] theorem State.modThr_teams (s : State) (k : Nat) (f : Thread → Thread) : (s.modThr k f).teams = s.teams := rfl
@[simp] theorem State.modThr_pairs (s : State) (k : Nat) (f : Thread → Thread) : (s.modThr k f).pairs = s.pairs := rfl
@[simp] theorem State.modThr_groups (s : State) (k : Nat) (f : Thread → Thread) : (s.modThr k f).groups = s.groups := rfl
@[simp] theorem State.modThr_splits (s : State) (k : Nat) (f : Thread → Thread) : (s.modThr k f).splits = s.splits := rfl
@[simp] theorem State.modThr_copies (s : State) (k : Nat) (f : Thread → Thread) : (s.modThr k f).copies = s.copies := rfl
@[simp] theorem State.modThr_kvqs (s : State) (k : Nat) (f : Thread → Thread) : (s.modThr k f).kvqs = s.kvqs := rfl
@[simp] theorem State.modThr_sends (s : State) (k : Nat) (f : Thread → Thread) : (s.modThr k f).sends = s.sends := rfl
@[simp] theorem State.modThr_credits (s : State) (k : Nat) (f : Thread → Thread) : (s.modThr k f).credits = s.credits := rfl
@[simp] theorem State.modThr_sealed (s : State) (k : Nat) (f : Thread → Thread) : (s.modThr k f).sealed = s.sealed := rfl
@[simp] theorem State.modThr_rings (s : State) (k : Nat) (f : Thread → Thread) : (s.modThr k f).rings = s.rings := rfl
@[simp] theorem State.modThr_ctxs (s : State) (k : Nat) (f : Thread → Thread) : (s.modThr k f).ctxs = s.ctxs := rfl
@[simp] theorem State.modThr_nextId (s : State) (k : Nat) (f : Thread → Thread) : (s.modThr k f).nextId = s.nextId := rfl
@[simp] theorem State.modThr_tick (s : State) (k : Nat) (f : Thread → Thread) : (s.modThr k f).tick = s.tick := rfl
@[simp] theorem State.modThr_agenda (s : State) (k : Nat) (f : Thread → Thread) : (s.modThr k f).agenda = s.agenda := rfl
@[simp] theorem State.modThr_due (s : State) (k : Nat) (f : Thread → Thread) : (s.modThr k f).due = s.due := rfl
@[simp] theorem State.modThr_turnGtc (s : State) (k : Nat) (f : Thread → Thread) : (s.modThr k f).turnGtc = s.turnGtc := rfl
@[simp] theorem State.modThr_turn (s : State) (k : Nat) (f : Thread → Thread) : (s.modThr k f).turn = s.turn := rfl
@[simp] theorem State.modThr_plan (s : State) (k : Nat) (f : Thread → Thread) : (s.modThr k f).plan = s.plan := rfl
@[simp] theorem State.modThr_cycleOf (s : State) (k : Nat) (f : Thread → Thread) : (s.modThr k f).cycleOf = s.cycleOf := rfl
@[simp] theorem State.modThr_cur (s : State) (k : Nat) (f : Thread → Thread) : (s.modThr k f).cur = s.cur := rfl
@[simp] theorem State.modThr_pair (s : State) (k : Nat) (f : Thread → Thread) (n : Nat) : (s.modThr k f).pair n = s.pair n := rfl
@[simp] theorem State.modThr_grp (s : State) (k : Nat) (f : Thread → Thread) (n : Nat) : (s.modThr k f).grp n = s.grp n := rfl
@[simp] theorem State.modThr_team (s : State) (k : Nat) (f : Thread → Thread) (n : Nat) : (s.modThr k f).team n = s.team n := rfl
@[simp] theorem State.modThr_task (s : State) (k : Nat) (f : Thread → Thread) (n : Nat) : (s.modThr k f).task n = s.task n := rfl
@[simp] theorem State.modThr_core (s : State) (k : Nat) (f : Thread → Thread) (n : Nat) : (s.modThr k f).core n = s.core n := rfl
@[simp] theorem State.modThr_part (s : State) (k : Nat) (f : Thread → Thread) (n : Nat) : (s.modThr k f).part n = s.part n := rfl

@[simp] theorem State.modPair_power (s : State) (k : Nat) (f : Pair → Pair) : (s.modPair k f).power = s.power := rfl
@[simp] theorem State.modPair_up (s : State) (k : Nat) (f : Pair → Pair) : (s.modPair k f).up = s.up := rfl
@[simp] theorem State.modPair_recovery (s : State) (k : Nat) (f : Pair → Pair) : (s.modPair k f).recovery = s.recovery := rfl
@[simp] theorem State.modPair_gtc (s : State) (k : Nat) (f : Pair → Pair) : (s.modPair k f).gtc = s.gtc := rfl
@[simp] theorem State.modPair_gphase (s : State) (k : Nat) (f : Pair → Pair) : (s.modPair k f).gphase = s.gphase := rfl
@[simp] theorem State.modPair_cycle (s : State) (k : Nat) (f : Pair → Pair) : (s.modPair k f).cycle = s.cycle := rfl
@[simp] theorem State.modPair_cap (s : State) (k : Nat) (f : Pair → Pair) : (s.modPair k f).cap = s.cap := rfl
@[simp] theorem State.modPair_fuses (s : State) (k : Nat) (f : Pair → Pair) : (s.modPair k f).fuses = s.fuses := rfl
@[simp] theorem State.modPair_spareUsed (s : State) (k : Nat) (f : Pair → Pair) : (s.modPair k f).spareUsed = s.spareUsed := rfl
@[simp] theorem State.modPair_identSpares (s : State) (k : Nat) (f : Pair → Pair) : (s.modPair k f).identSpares = s.identSpares := rfl
@[simp] theorem State.modPair_mlog (s : State) (k : Nat) (f : Pair → Pair) : (s.modPair k f).mlog = s.mlog := rfl
@[simp] theorem State.modPair_slotB (s : State) (k : Nat) (f : Pair → Pair) : (s.modPair k f).slotB = s.slotB := rfl
@[simp] theorem State.modPair_imageA (s : State) (k : Nat) (f : Pair → Pair) : (s.modPair k f).imageA = s.imageA := rfl
@[simp] theorem State.modPair_imageB (s : State) (k : Nat) (f : Pair → Pair) : (s.modPair k f).imageB = s.imageB := rfl
@[simp] theorem State.modPair_handover (s : State) (k : Nat) (f : Pair → Pair) : (s.modPair k f).handover = s.handover := rfl
@[simp] theorem State.modPair_quotes (s : State) (k : Nat) (f : Pair → Pair) : (s.modPair k f).quotes = s.quotes := rfl
@[simp] theorem State.modPair_lanes (s : State) (k : Nat) (f : Pair → Pair) : (s.modPair k f).lanes = s.lanes := rfl
@[simp] theorem State.modPair_pcieWidth (s : State) (k : Nat) (f : Pair → Pair) : (s.modPair k f).pcieWidth = s.pcieWidth := rfl
@[simp] theorem State.modPair_channels (s : State) (k : Nat) (f : Pair → Pair) : (s.modPair k f).channels = s.channels := rfl
@[simp] theorem State.modPair_mclog (s : State) (k : Nat) (f : Pair → Pair) : (s.modPair k f).mclog = s.mclog := rfl
@[simp] theorem State.modPair_errs (s : State) (k : Nat) (f : Pair → Pair) : (s.modPair k f).errs = s.errs := rfl
@[simp] theorem State.modPair_dups (s : State) (k : Nat) (f : Pair → Pair) : (s.modPair k f).dups = s.dups := rfl
@[simp] theorem State.modPair_hostRead (s : State) (k : Nat) (f : Pair → Pair) : (s.modPair k f).hostRead = s.hostRead := rfl
@[simp] theorem State.modPair_peerRead (s : State) (k : Nat) (f : Pair → Pair) : (s.modPair k f).peerRead = s.peerRead := rfl
@[simp] theorem State.modPair_mem (s : State) (k : Nat) (f : Pair → Pair) : (s.modPair k f).mem = s.mem := rfl
@[simp] theorem State.modPair_bad (s : State) (k : Nat) (f : Pair → Pair) : (s.modPair k f).bad = s.bad := rfl
@[simp] theorem State.modPair_badL1 (s : State) (k : Nat) (f : Pair → Pair) : (s.modPair k f).badL1 = s.badL1 := rfl
@[simp] theorem State.modPair_badCode (s : State) (k : Nat) (f : Pair → Pair) : (s.modPair k f).badCode = s.badCode := rfl
@[simp] theorem State.modPair_badAcc (s : State) (k : Nat) (f : Pair → Pair) : (s.modPair k f).badAcc = s.badAcc := rfl
@[simp] theorem State.modPair_acc (s : State) (k : Nat) (f : Pair → Pair) : (s.modPair k f).acc = s.acc := rfl
@[simp] theorem State.modPair_rel (s : State) (k : Nat) (f : Pair → Pair) : (s.modPair k f).rel = s.rel := rfl
@[simp] theorem State.modPair_tlb (s : State) (k : Nat) (f : Pair → Pair) : (s.modPair k f).tlb = s.tlb := rfl
@[simp] theorem State.modPair_oldPtes (s : State) (k : Nat) (f : Pair → Pair) : (s.modPair k f).oldPtes = s.oldPtes := rfl
@[simp] theorem State.modPair_purges (s : State) (k : Nat) (f : Pair → Pair) : (s.modPair k f).purges = s.purges := rfl
@[simp] theorem State.modPair_checked (s : State) (k : Nat) (f : Pair → Pair) : (s.modPair k f).checked = s.checked := rfl
@[simp] theorem State.modPair_parts (s : State) (k : Nat) (f : Pair → Pair) : (s.modPair k f).parts = s.parts := rfl
@[simp] theorem State.modPair_tasks (s : State) (k : Nat) (f : Pair → Pair) : (s.modPair k f).tasks = s.tasks := rfl
@[simp] theorem State.modPair_cores (s : State) (k : Nat) (f : Pair → Pair) : (s.modPair k f).cores = s.cores := rfl
@[simp] theorem State.modPair_clusters (s : State) (k : Nat) (f : Pair → Pair) : (s.modPair k f).clusters = s.clusters := rfl
@[simp] theorem State.modPair_teams (s : State) (k : Nat) (f : Pair → Pair) : (s.modPair k f).teams = s.teams := rfl
@[simp] theorem State.modPair_threads (s : State) (k : Nat) (f : Pair → Pair) : (s.modPair k f).threads = s.threads := rfl
@[simp] theorem State.modPair_groups (s : State) (k : Nat) (f : Pair → Pair) : (s.modPair k f).groups = s.groups := rfl
@[simp] theorem State.modPair_splits (s : State) (k : Nat) (f : Pair → Pair) : (s.modPair k f).splits = s.splits := rfl
@[simp] theorem State.modPair_copies (s : State) (k : Nat) (f : Pair → Pair) : (s.modPair k f).copies = s.copies := rfl
@[simp] theorem State.modPair_kvqs (s : State) (k : Nat) (f : Pair → Pair) : (s.modPair k f).kvqs = s.kvqs := rfl
@[simp] theorem State.modPair_sends (s : State) (k : Nat) (f : Pair → Pair) : (s.modPair k f).sends = s.sends := rfl
@[simp] theorem State.modPair_credits (s : State) (k : Nat) (f : Pair → Pair) : (s.modPair k f).credits = s.credits := rfl
@[simp] theorem State.modPair_sealed (s : State) (k : Nat) (f : Pair → Pair) : (s.modPair k f).sealed = s.sealed := rfl
@[simp] theorem State.modPair_rings (s : State) (k : Nat) (f : Pair → Pair) : (s.modPair k f).rings = s.rings := rfl
@[simp] theorem State.modPair_ctxs (s : State) (k : Nat) (f : Pair → Pair) : (s.modPair k f).ctxs = s.ctxs := rfl
@[simp] theorem State.modPair_nextId (s : State) (k : Nat) (f : Pair → Pair) : (s.modPair k f).nextId = s.nextId := rfl
@[simp] theorem State.modPair_tick (s : State) (k : Nat) (f : Pair → Pair) : (s.modPair k f).tick = s.tick := rfl
@[simp] theorem State.modPair_agenda (s : State) (k : Nat) (f : Pair → Pair) : (s.modPair k f).agenda = s.agenda := rfl
@[simp] theorem State.modPair_due (s : State) (k : Nat) (f : Pair → Pair) : (s.modPair k f).due = s.due := rfl
@[simp] theorem State.modPair_turnGtc (s : State) (k : Nat) (f : Pair → Pair) : (s.modPair k f).turnGtc = s.turnGtc := rfl
@[simp] theorem State.modPair_turn (s : State) (k : Nat) (f : Pair → Pair) : (s.modPair k f).turn = s.turn := rfl
@[simp] theorem State.modPair_plan (s : State) (k : Nat) (f : Pair → Pair) : (s.modPair k f).plan = s.plan := rfl
@[simp] theorem State.modPair_cycleOf (s : State) (k : Nat) (f : Pair → Pair) : (s.modPair k f).cycleOf = s.cycleOf := rfl
@[simp] theorem State.modPair_cur (s : State) (k : Nat) (f : Pair → Pair) : (s.modPair k f).cur = s.cur := rfl
@[simp] theorem State.modPair_thr (s : State) (k : Nat) (f : Pair → Pair) (n : Nat) : (s.modPair k f).thr n = s.thr n := rfl
@[simp] theorem State.modPair_grp (s : State) (k : Nat) (f : Pair → Pair) (n : Nat) : (s.modPair k f).grp n = s.grp n := rfl
@[simp] theorem State.modPair_team (s : State) (k : Nat) (f : Pair → Pair) (n : Nat) : (s.modPair k f).team n = s.team n := rfl
@[simp] theorem State.modPair_task (s : State) (k : Nat) (f : Pair → Pair) (n : Nat) : (s.modPair k f).task n = s.task n := rfl
@[simp] theorem State.modPair_core (s : State) (k : Nat) (f : Pair → Pair) (n : Nat) : (s.modPair k f).core n = s.core n := rfl
@[simp] theorem State.modPair_part (s : State) (k : Nat) (f : Pair → Pair) (n : Nat) : (s.modPair k f).part n = s.part n := rfl

@[simp] theorem State.modGrp_power (s : State) (k : Nat) (f : Group → Group) : (s.modGrp k f).power = s.power := rfl
@[simp] theorem State.modGrp_up (s : State) (k : Nat) (f : Group → Group) : (s.modGrp k f).up = s.up := rfl
@[simp] theorem State.modGrp_recovery (s : State) (k : Nat) (f : Group → Group) : (s.modGrp k f).recovery = s.recovery := rfl
@[simp] theorem State.modGrp_gtc (s : State) (k : Nat) (f : Group → Group) : (s.modGrp k f).gtc = s.gtc := rfl
@[simp] theorem State.modGrp_gphase (s : State) (k : Nat) (f : Group → Group) : (s.modGrp k f).gphase = s.gphase := rfl
@[simp] theorem State.modGrp_cycle (s : State) (k : Nat) (f : Group → Group) : (s.modGrp k f).cycle = s.cycle := rfl
@[simp] theorem State.modGrp_cap (s : State) (k : Nat) (f : Group → Group) : (s.modGrp k f).cap = s.cap := rfl
@[simp] theorem State.modGrp_fuses (s : State) (k : Nat) (f : Group → Group) : (s.modGrp k f).fuses = s.fuses := rfl
@[simp] theorem State.modGrp_spareUsed (s : State) (k : Nat) (f : Group → Group) : (s.modGrp k f).spareUsed = s.spareUsed := rfl
@[simp] theorem State.modGrp_identSpares (s : State) (k : Nat) (f : Group → Group) : (s.modGrp k f).identSpares = s.identSpares := rfl
@[simp] theorem State.modGrp_mlog (s : State) (k : Nat) (f : Group → Group) : (s.modGrp k f).mlog = s.mlog := rfl
@[simp] theorem State.modGrp_slotB (s : State) (k : Nat) (f : Group → Group) : (s.modGrp k f).slotB = s.slotB := rfl
@[simp] theorem State.modGrp_imageA (s : State) (k : Nat) (f : Group → Group) : (s.modGrp k f).imageA = s.imageA := rfl
@[simp] theorem State.modGrp_imageB (s : State) (k : Nat) (f : Group → Group) : (s.modGrp k f).imageB = s.imageB := rfl
@[simp] theorem State.modGrp_handover (s : State) (k : Nat) (f : Group → Group) : (s.modGrp k f).handover = s.handover := rfl
@[simp] theorem State.modGrp_quotes (s : State) (k : Nat) (f : Group → Group) : (s.modGrp k f).quotes = s.quotes := rfl
@[simp] theorem State.modGrp_lanes (s : State) (k : Nat) (f : Group → Group) : (s.modGrp k f).lanes = s.lanes := rfl
@[simp] theorem State.modGrp_pcieWidth (s : State) (k : Nat) (f : Group → Group) : (s.modGrp k f).pcieWidth = s.pcieWidth := rfl
@[simp] theorem State.modGrp_channels (s : State) (k : Nat) (f : Group → Group) : (s.modGrp k f).channels = s.channels := rfl
@[simp] theorem State.modGrp_mclog (s : State) (k : Nat) (f : Group → Group) : (s.modGrp k f).mclog = s.mclog := rfl
@[simp] theorem State.modGrp_errs (s : State) (k : Nat) (f : Group → Group) : (s.modGrp k f).errs = s.errs := rfl
@[simp] theorem State.modGrp_dups (s : State) (k : Nat) (f : Group → Group) : (s.modGrp k f).dups = s.dups := rfl
@[simp] theorem State.modGrp_hostRead (s : State) (k : Nat) (f : Group → Group) : (s.modGrp k f).hostRead = s.hostRead := rfl
@[simp] theorem State.modGrp_peerRead (s : State) (k : Nat) (f : Group → Group) : (s.modGrp k f).peerRead = s.peerRead := rfl
@[simp] theorem State.modGrp_mem (s : State) (k : Nat) (f : Group → Group) : (s.modGrp k f).mem = s.mem := rfl
@[simp] theorem State.modGrp_bad (s : State) (k : Nat) (f : Group → Group) : (s.modGrp k f).bad = s.bad := rfl
@[simp] theorem State.modGrp_badL1 (s : State) (k : Nat) (f : Group → Group) : (s.modGrp k f).badL1 = s.badL1 := rfl
@[simp] theorem State.modGrp_badCode (s : State) (k : Nat) (f : Group → Group) : (s.modGrp k f).badCode = s.badCode := rfl
@[simp] theorem State.modGrp_badAcc (s : State) (k : Nat) (f : Group → Group) : (s.modGrp k f).badAcc = s.badAcc := rfl
@[simp] theorem State.modGrp_acc (s : State) (k : Nat) (f : Group → Group) : (s.modGrp k f).acc = s.acc := rfl
@[simp] theorem State.modGrp_rel (s : State) (k : Nat) (f : Group → Group) : (s.modGrp k f).rel = s.rel := rfl
@[simp] theorem State.modGrp_tlb (s : State) (k : Nat) (f : Group → Group) : (s.modGrp k f).tlb = s.tlb := rfl
@[simp] theorem State.modGrp_oldPtes (s : State) (k : Nat) (f : Group → Group) : (s.modGrp k f).oldPtes = s.oldPtes := rfl
@[simp] theorem State.modGrp_purges (s : State) (k : Nat) (f : Group → Group) : (s.modGrp k f).purges = s.purges := rfl
@[simp] theorem State.modGrp_checked (s : State) (k : Nat) (f : Group → Group) : (s.modGrp k f).checked = s.checked := rfl
@[simp] theorem State.modGrp_parts (s : State) (k : Nat) (f : Group → Group) : (s.modGrp k f).parts = s.parts := rfl
@[simp] theorem State.modGrp_tasks (s : State) (k : Nat) (f : Group → Group) : (s.modGrp k f).tasks = s.tasks := rfl
@[simp] theorem State.modGrp_cores (s : State) (k : Nat) (f : Group → Group) : (s.modGrp k f).cores = s.cores := rfl
@[simp] theorem State.modGrp_clusters (s : State) (k : Nat) (f : Group → Group) : (s.modGrp k f).clusters = s.clusters := rfl
@[simp] theorem State.modGrp_teams (s : State) (k : Nat) (f : Group → Group) : (s.modGrp k f).teams = s.teams := rfl
@[simp] theorem State.modGrp_threads (s : State) (k : Nat) (f : Group → Group) : (s.modGrp k f).threads = s.threads := rfl
@[simp] theorem State.modGrp_pairs (s : State) (k : Nat) (f : Group → Group) : (s.modGrp k f).pairs = s.pairs := rfl
@[simp] theorem State.modGrp_splits (s : State) (k : Nat) (f : Group → Group) : (s.modGrp k f).splits = s.splits := rfl
@[simp] theorem State.modGrp_copies (s : State) (k : Nat) (f : Group → Group) : (s.modGrp k f).copies = s.copies := rfl
@[simp] theorem State.modGrp_kvqs (s : State) (k : Nat) (f : Group → Group) : (s.modGrp k f).kvqs = s.kvqs := rfl
@[simp] theorem State.modGrp_sends (s : State) (k : Nat) (f : Group → Group) : (s.modGrp k f).sends = s.sends := rfl
@[simp] theorem State.modGrp_credits (s : State) (k : Nat) (f : Group → Group) : (s.modGrp k f).credits = s.credits := rfl
@[simp] theorem State.modGrp_sealed (s : State) (k : Nat) (f : Group → Group) : (s.modGrp k f).sealed = s.sealed := rfl
@[simp] theorem State.modGrp_rings (s : State) (k : Nat) (f : Group → Group) : (s.modGrp k f).rings = s.rings := rfl
@[simp] theorem State.modGrp_ctxs (s : State) (k : Nat) (f : Group → Group) : (s.modGrp k f).ctxs = s.ctxs := rfl
@[simp] theorem State.modGrp_nextId (s : State) (k : Nat) (f : Group → Group) : (s.modGrp k f).nextId = s.nextId := rfl
@[simp] theorem State.modGrp_tick (s : State) (k : Nat) (f : Group → Group) : (s.modGrp k f).tick = s.tick := rfl
@[simp] theorem State.modGrp_agenda (s : State) (k : Nat) (f : Group → Group) : (s.modGrp k f).agenda = s.agenda := rfl
@[simp] theorem State.modGrp_due (s : State) (k : Nat) (f : Group → Group) : (s.modGrp k f).due = s.due := rfl
@[simp] theorem State.modGrp_turnGtc (s : State) (k : Nat) (f : Group → Group) : (s.modGrp k f).turnGtc = s.turnGtc := rfl
@[simp] theorem State.modGrp_turn (s : State) (k : Nat) (f : Group → Group) : (s.modGrp k f).turn = s.turn := rfl
@[simp] theorem State.modGrp_plan (s : State) (k : Nat) (f : Group → Group) : (s.modGrp k f).plan = s.plan := rfl
@[simp] theorem State.modGrp_cycleOf (s : State) (k : Nat) (f : Group → Group) : (s.modGrp k f).cycleOf = s.cycleOf := rfl
@[simp] theorem State.modGrp_cur (s : State) (k : Nat) (f : Group → Group) : (s.modGrp k f).cur = s.cur := rfl
@[simp] theorem State.modGrp_thr (s : State) (k : Nat) (f : Group → Group) (n : Nat) : (s.modGrp k f).thr n = s.thr n := rfl
@[simp] theorem State.modGrp_pair (s : State) (k : Nat) (f : Group → Group) (n : Nat) : (s.modGrp k f).pair n = s.pair n := rfl
@[simp] theorem State.modGrp_team (s : State) (k : Nat) (f : Group → Group) (n : Nat) : (s.modGrp k f).team n = s.team n := rfl
@[simp] theorem State.modGrp_task (s : State) (k : Nat) (f : Group → Group) (n : Nat) : (s.modGrp k f).task n = s.task n := rfl
@[simp] theorem State.modGrp_core (s : State) (k : Nat) (f : Group → Group) (n : Nat) : (s.modGrp k f).core n = s.core n := rfl
@[simp] theorem State.modGrp_part (s : State) (k : Nat) (f : Group → Group) (n : Nat) : (s.modGrp k f).part n = s.part n := rfl

@[simp] theorem State.modTeam_power (s : State) (k : Nat) (f : Team → Team) : (s.modTeam k f).power = s.power := rfl
@[simp] theorem State.modTeam_up (s : State) (k : Nat) (f : Team → Team) : (s.modTeam k f).up = s.up := rfl
@[simp] theorem State.modTeam_recovery (s : State) (k : Nat) (f : Team → Team) : (s.modTeam k f).recovery = s.recovery := rfl
@[simp] theorem State.modTeam_gtc (s : State) (k : Nat) (f : Team → Team) : (s.modTeam k f).gtc = s.gtc := rfl
@[simp] theorem State.modTeam_gphase (s : State) (k : Nat) (f : Team → Team) : (s.modTeam k f).gphase = s.gphase := rfl
@[simp] theorem State.modTeam_cycle (s : State) (k : Nat) (f : Team → Team) : (s.modTeam k f).cycle = s.cycle := rfl
@[simp] theorem State.modTeam_cap (s : State) (k : Nat) (f : Team → Team) : (s.modTeam k f).cap = s.cap := rfl
@[simp] theorem State.modTeam_fuses (s : State) (k : Nat) (f : Team → Team) : (s.modTeam k f).fuses = s.fuses := rfl
@[simp] theorem State.modTeam_spareUsed (s : State) (k : Nat) (f : Team → Team) : (s.modTeam k f).spareUsed = s.spareUsed := rfl
@[simp] theorem State.modTeam_identSpares (s : State) (k : Nat) (f : Team → Team) : (s.modTeam k f).identSpares = s.identSpares := rfl
@[simp] theorem State.modTeam_mlog (s : State) (k : Nat) (f : Team → Team) : (s.modTeam k f).mlog = s.mlog := rfl
@[simp] theorem State.modTeam_slotB (s : State) (k : Nat) (f : Team → Team) : (s.modTeam k f).slotB = s.slotB := rfl
@[simp] theorem State.modTeam_imageA (s : State) (k : Nat) (f : Team → Team) : (s.modTeam k f).imageA = s.imageA := rfl
@[simp] theorem State.modTeam_imageB (s : State) (k : Nat) (f : Team → Team) : (s.modTeam k f).imageB = s.imageB := rfl
@[simp] theorem State.modTeam_handover (s : State) (k : Nat) (f : Team → Team) : (s.modTeam k f).handover = s.handover := rfl
@[simp] theorem State.modTeam_quotes (s : State) (k : Nat) (f : Team → Team) : (s.modTeam k f).quotes = s.quotes := rfl
@[simp] theorem State.modTeam_lanes (s : State) (k : Nat) (f : Team → Team) : (s.modTeam k f).lanes = s.lanes := rfl
@[simp] theorem State.modTeam_pcieWidth (s : State) (k : Nat) (f : Team → Team) : (s.modTeam k f).pcieWidth = s.pcieWidth := rfl
@[simp] theorem State.modTeam_channels (s : State) (k : Nat) (f : Team → Team) : (s.modTeam k f).channels = s.channels := rfl
@[simp] theorem State.modTeam_mclog (s : State) (k : Nat) (f : Team → Team) : (s.modTeam k f).mclog = s.mclog := rfl
@[simp] theorem State.modTeam_errs (s : State) (k : Nat) (f : Team → Team) : (s.modTeam k f).errs = s.errs := rfl
@[simp] theorem State.modTeam_dups (s : State) (k : Nat) (f : Team → Team) : (s.modTeam k f).dups = s.dups := rfl
@[simp] theorem State.modTeam_hostRead (s : State) (k : Nat) (f : Team → Team) : (s.modTeam k f).hostRead = s.hostRead := rfl
@[simp] theorem State.modTeam_peerRead (s : State) (k : Nat) (f : Team → Team) : (s.modTeam k f).peerRead = s.peerRead := rfl
@[simp] theorem State.modTeam_mem (s : State) (k : Nat) (f : Team → Team) : (s.modTeam k f).mem = s.mem := rfl
@[simp] theorem State.modTeam_bad (s : State) (k : Nat) (f : Team → Team) : (s.modTeam k f).bad = s.bad := rfl
@[simp] theorem State.modTeam_badL1 (s : State) (k : Nat) (f : Team → Team) : (s.modTeam k f).badL1 = s.badL1 := rfl
@[simp] theorem State.modTeam_badCode (s : State) (k : Nat) (f : Team → Team) : (s.modTeam k f).badCode = s.badCode := rfl
@[simp] theorem State.modTeam_badAcc (s : State) (k : Nat) (f : Team → Team) : (s.modTeam k f).badAcc = s.badAcc := rfl
@[simp] theorem State.modTeam_acc (s : State) (k : Nat) (f : Team → Team) : (s.modTeam k f).acc = s.acc := rfl
@[simp] theorem State.modTeam_rel (s : State) (k : Nat) (f : Team → Team) : (s.modTeam k f).rel = s.rel := rfl
@[simp] theorem State.modTeam_tlb (s : State) (k : Nat) (f : Team → Team) : (s.modTeam k f).tlb = s.tlb := rfl
@[simp] theorem State.modTeam_oldPtes (s : State) (k : Nat) (f : Team → Team) : (s.modTeam k f).oldPtes = s.oldPtes := rfl
@[simp] theorem State.modTeam_purges (s : State) (k : Nat) (f : Team → Team) : (s.modTeam k f).purges = s.purges := rfl
@[simp] theorem State.modTeam_checked (s : State) (k : Nat) (f : Team → Team) : (s.modTeam k f).checked = s.checked := rfl
@[simp] theorem State.modTeam_parts (s : State) (k : Nat) (f : Team → Team) : (s.modTeam k f).parts = s.parts := rfl
@[simp] theorem State.modTeam_tasks (s : State) (k : Nat) (f : Team → Team) : (s.modTeam k f).tasks = s.tasks := rfl
@[simp] theorem State.modTeam_cores (s : State) (k : Nat) (f : Team → Team) : (s.modTeam k f).cores = s.cores := rfl
@[simp] theorem State.modTeam_clusters (s : State) (k : Nat) (f : Team → Team) : (s.modTeam k f).clusters = s.clusters := rfl
@[simp] theorem State.modTeam_threads (s : State) (k : Nat) (f : Team → Team) : (s.modTeam k f).threads = s.threads := rfl
@[simp] theorem State.modTeam_pairs (s : State) (k : Nat) (f : Team → Team) : (s.modTeam k f).pairs = s.pairs := rfl
@[simp] theorem State.modTeam_groups (s : State) (k : Nat) (f : Team → Team) : (s.modTeam k f).groups = s.groups := rfl
@[simp] theorem State.modTeam_splits (s : State) (k : Nat) (f : Team → Team) : (s.modTeam k f).splits = s.splits := rfl
@[simp] theorem State.modTeam_copies (s : State) (k : Nat) (f : Team → Team) : (s.modTeam k f).copies = s.copies := rfl
@[simp] theorem State.modTeam_kvqs (s : State) (k : Nat) (f : Team → Team) : (s.modTeam k f).kvqs = s.kvqs := rfl
@[simp] theorem State.modTeam_sends (s : State) (k : Nat) (f : Team → Team) : (s.modTeam k f).sends = s.sends := rfl
@[simp] theorem State.modTeam_credits (s : State) (k : Nat) (f : Team → Team) : (s.modTeam k f).credits = s.credits := rfl
@[simp] theorem State.modTeam_sealed (s : State) (k : Nat) (f : Team → Team) : (s.modTeam k f).sealed = s.sealed := rfl
@[simp] theorem State.modTeam_rings (s : State) (k : Nat) (f : Team → Team) : (s.modTeam k f).rings = s.rings := rfl
@[simp] theorem State.modTeam_ctxs (s : State) (k : Nat) (f : Team → Team) : (s.modTeam k f).ctxs = s.ctxs := rfl
@[simp] theorem State.modTeam_nextId (s : State) (k : Nat) (f : Team → Team) : (s.modTeam k f).nextId = s.nextId := rfl
@[simp] theorem State.modTeam_tick (s : State) (k : Nat) (f : Team → Team) : (s.modTeam k f).tick = s.tick := rfl
@[simp] theorem State.modTeam_agenda (s : State) (k : Nat) (f : Team → Team) : (s.modTeam k f).agenda = s.agenda := rfl
@[simp] theorem State.modTeam_due (s : State) (k : Nat) (f : Team → Team) : (s.modTeam k f).due = s.due := rfl
@[simp] theorem State.modTeam_turnGtc (s : State) (k : Nat) (f : Team → Team) : (s.modTeam k f).turnGtc = s.turnGtc := rfl
@[simp] theorem State.modTeam_turn (s : State) (k : Nat) (f : Team → Team) : (s.modTeam k f).turn = s.turn := rfl
@[simp] theorem State.modTeam_plan (s : State) (k : Nat) (f : Team → Team) : (s.modTeam k f).plan = s.plan := rfl
@[simp] theorem State.modTeam_cycleOf (s : State) (k : Nat) (f : Team → Team) : (s.modTeam k f).cycleOf = s.cycleOf := rfl
@[simp] theorem State.modTeam_cur (s : State) (k : Nat) (f : Team → Team) : (s.modTeam k f).cur = s.cur := rfl
@[simp] theorem State.modTeam_thr (s : State) (k : Nat) (f : Team → Team) (n : Nat) : (s.modTeam k f).thr n = s.thr n := rfl
@[simp] theorem State.modTeam_pair (s : State) (k : Nat) (f : Team → Team) (n : Nat) : (s.modTeam k f).pair n = s.pair n := rfl
@[simp] theorem State.modTeam_grp (s : State) (k : Nat) (f : Team → Team) (n : Nat) : (s.modTeam k f).grp n = s.grp n := rfl
@[simp] theorem State.modTeam_task (s : State) (k : Nat) (f : Team → Team) (n : Nat) : (s.modTeam k f).task n = s.task n := rfl
@[simp] theorem State.modTeam_core (s : State) (k : Nat) (f : Team → Team) (n : Nat) : (s.modTeam k f).core n = s.core n := rfl
@[simp] theorem State.modTeam_part (s : State) (k : Nat) (f : Team → Team) (n : Nat) : (s.modTeam k f).part n = s.part n := rfl

@[simp] theorem State.modTask_power (s : State) (k : Nat) (f : Task → Task) : (s.modTask k f).power = s.power := rfl
@[simp] theorem State.modTask_up (s : State) (k : Nat) (f : Task → Task) : (s.modTask k f).up = s.up := rfl
@[simp] theorem State.modTask_recovery (s : State) (k : Nat) (f : Task → Task) : (s.modTask k f).recovery = s.recovery := rfl
@[simp] theorem State.modTask_gtc (s : State) (k : Nat) (f : Task → Task) : (s.modTask k f).gtc = s.gtc := rfl
@[simp] theorem State.modTask_gphase (s : State) (k : Nat) (f : Task → Task) : (s.modTask k f).gphase = s.gphase := rfl
@[simp] theorem State.modTask_cycle (s : State) (k : Nat) (f : Task → Task) : (s.modTask k f).cycle = s.cycle := rfl
@[simp] theorem State.modTask_cap (s : State) (k : Nat) (f : Task → Task) : (s.modTask k f).cap = s.cap := rfl
@[simp] theorem State.modTask_fuses (s : State) (k : Nat) (f : Task → Task) : (s.modTask k f).fuses = s.fuses := rfl
@[simp] theorem State.modTask_spareUsed (s : State) (k : Nat) (f : Task → Task) : (s.modTask k f).spareUsed = s.spareUsed := rfl
@[simp] theorem State.modTask_identSpares (s : State) (k : Nat) (f : Task → Task) : (s.modTask k f).identSpares = s.identSpares := rfl
@[simp] theorem State.modTask_mlog (s : State) (k : Nat) (f : Task → Task) : (s.modTask k f).mlog = s.mlog := rfl
@[simp] theorem State.modTask_slotB (s : State) (k : Nat) (f : Task → Task) : (s.modTask k f).slotB = s.slotB := rfl
@[simp] theorem State.modTask_imageA (s : State) (k : Nat) (f : Task → Task) : (s.modTask k f).imageA = s.imageA := rfl
@[simp] theorem State.modTask_imageB (s : State) (k : Nat) (f : Task → Task) : (s.modTask k f).imageB = s.imageB := rfl
@[simp] theorem State.modTask_handover (s : State) (k : Nat) (f : Task → Task) : (s.modTask k f).handover = s.handover := rfl
@[simp] theorem State.modTask_quotes (s : State) (k : Nat) (f : Task → Task) : (s.modTask k f).quotes = s.quotes := rfl
@[simp] theorem State.modTask_lanes (s : State) (k : Nat) (f : Task → Task) : (s.modTask k f).lanes = s.lanes := rfl
@[simp] theorem State.modTask_pcieWidth (s : State) (k : Nat) (f : Task → Task) : (s.modTask k f).pcieWidth = s.pcieWidth := rfl
@[simp] theorem State.modTask_channels (s : State) (k : Nat) (f : Task → Task) : (s.modTask k f).channels = s.channels := rfl
@[simp] theorem State.modTask_mclog (s : State) (k : Nat) (f : Task → Task) : (s.modTask k f).mclog = s.mclog := rfl
@[simp] theorem State.modTask_errs (s : State) (k : Nat) (f : Task → Task) : (s.modTask k f).errs = s.errs := rfl
@[simp] theorem State.modTask_dups (s : State) (k : Nat) (f : Task → Task) : (s.modTask k f).dups = s.dups := rfl
@[simp] theorem State.modTask_hostRead (s : State) (k : Nat) (f : Task → Task) : (s.modTask k f).hostRead = s.hostRead := rfl
@[simp] theorem State.modTask_peerRead (s : State) (k : Nat) (f : Task → Task) : (s.modTask k f).peerRead = s.peerRead := rfl
@[simp] theorem State.modTask_mem (s : State) (k : Nat) (f : Task → Task) : (s.modTask k f).mem = s.mem := rfl
@[simp] theorem State.modTask_bad (s : State) (k : Nat) (f : Task → Task) : (s.modTask k f).bad = s.bad := rfl
@[simp] theorem State.modTask_badL1 (s : State) (k : Nat) (f : Task → Task) : (s.modTask k f).badL1 = s.badL1 := rfl
@[simp] theorem State.modTask_badCode (s : State) (k : Nat) (f : Task → Task) : (s.modTask k f).badCode = s.badCode := rfl
@[simp] theorem State.modTask_badAcc (s : State) (k : Nat) (f : Task → Task) : (s.modTask k f).badAcc = s.badAcc := rfl
@[simp] theorem State.modTask_acc (s : State) (k : Nat) (f : Task → Task) : (s.modTask k f).acc = s.acc := rfl
@[simp] theorem State.modTask_rel (s : State) (k : Nat) (f : Task → Task) : (s.modTask k f).rel = s.rel := rfl
@[simp] theorem State.modTask_tlb (s : State) (k : Nat) (f : Task → Task) : (s.modTask k f).tlb = s.tlb := rfl
@[simp] theorem State.modTask_oldPtes (s : State) (k : Nat) (f : Task → Task) : (s.modTask k f).oldPtes = s.oldPtes := rfl
@[simp] theorem State.modTask_purges (s : State) (k : Nat) (f : Task → Task) : (s.modTask k f).purges = s.purges := rfl
@[simp] theorem State.modTask_checked (s : State) (k : Nat) (f : Task → Task) : (s.modTask k f).checked = s.checked := rfl
@[simp] theorem State.modTask_parts (s : State) (k : Nat) (f : Task → Task) : (s.modTask k f).parts = s.parts := rfl
@[simp] theorem State.modTask_cores (s : State) (k : Nat) (f : Task → Task) : (s.modTask k f).cores = s.cores := rfl
@[simp] theorem State.modTask_clusters (s : State) (k : Nat) (f : Task → Task) : (s.modTask k f).clusters = s.clusters := rfl
@[simp] theorem State.modTask_teams (s : State) (k : Nat) (f : Task → Task) : (s.modTask k f).teams = s.teams := rfl
@[simp] theorem State.modTask_threads (s : State) (k : Nat) (f : Task → Task) : (s.modTask k f).threads = s.threads := rfl
@[simp] theorem State.modTask_pairs (s : State) (k : Nat) (f : Task → Task) : (s.modTask k f).pairs = s.pairs := rfl
@[simp] theorem State.modTask_groups (s : State) (k : Nat) (f : Task → Task) : (s.modTask k f).groups = s.groups := rfl
@[simp] theorem State.modTask_splits (s : State) (k : Nat) (f : Task → Task) : (s.modTask k f).splits = s.splits := rfl
@[simp] theorem State.modTask_copies (s : State) (k : Nat) (f : Task → Task) : (s.modTask k f).copies = s.copies := rfl
@[simp] theorem State.modTask_kvqs (s : State) (k : Nat) (f : Task → Task) : (s.modTask k f).kvqs = s.kvqs := rfl
@[simp] theorem State.modTask_sends (s : State) (k : Nat) (f : Task → Task) : (s.modTask k f).sends = s.sends := rfl
@[simp] theorem State.modTask_credits (s : State) (k : Nat) (f : Task → Task) : (s.modTask k f).credits = s.credits := rfl
@[simp] theorem State.modTask_sealed (s : State) (k : Nat) (f : Task → Task) : (s.modTask k f).sealed = s.sealed := rfl
@[simp] theorem State.modTask_rings (s : State) (k : Nat) (f : Task → Task) : (s.modTask k f).rings = s.rings := rfl
@[simp] theorem State.modTask_ctxs (s : State) (k : Nat) (f : Task → Task) : (s.modTask k f).ctxs = s.ctxs := rfl
@[simp] theorem State.modTask_nextId (s : State) (k : Nat) (f : Task → Task) : (s.modTask k f).nextId = s.nextId := rfl
@[simp] theorem State.modTask_tick (s : State) (k : Nat) (f : Task → Task) : (s.modTask k f).tick = s.tick := rfl
@[simp] theorem State.modTask_agenda (s : State) (k : Nat) (f : Task → Task) : (s.modTask k f).agenda = s.agenda := rfl
@[simp] theorem State.modTask_due (s : State) (k : Nat) (f : Task → Task) : (s.modTask k f).due = s.due := rfl
@[simp] theorem State.modTask_turnGtc (s : State) (k : Nat) (f : Task → Task) : (s.modTask k f).turnGtc = s.turnGtc := rfl
@[simp] theorem State.modTask_turn (s : State) (k : Nat) (f : Task → Task) : (s.modTask k f).turn = s.turn := rfl
@[simp] theorem State.modTask_plan (s : State) (k : Nat) (f : Task → Task) : (s.modTask k f).plan = s.plan := rfl
@[simp] theorem State.modTask_cycleOf (s : State) (k : Nat) (f : Task → Task) : (s.modTask k f).cycleOf = s.cycleOf := rfl
@[simp] theorem State.modTask_cur (s : State) (k : Nat) (f : Task → Task) : (s.modTask k f).cur = s.cur := rfl
@[simp] theorem State.modTask_thr (s : State) (k : Nat) (f : Task → Task) (n : Nat) : (s.modTask k f).thr n = s.thr n := rfl
@[simp] theorem State.modTask_pair (s : State) (k : Nat) (f : Task → Task) (n : Nat) : (s.modTask k f).pair n = s.pair n := rfl
@[simp] theorem State.modTask_grp (s : State) (k : Nat) (f : Task → Task) (n : Nat) : (s.modTask k f).grp n = s.grp n := rfl
@[simp] theorem State.modTask_team (s : State) (k : Nat) (f : Task → Task) (n : Nat) : (s.modTask k f).team n = s.team n := rfl
@[simp] theorem State.modTask_core (s : State) (k : Nat) (f : Task → Task) (n : Nat) : (s.modTask k f).core n = s.core n := rfl
@[simp] theorem State.modTask_part (s : State) (k : Nat) (f : Task → Task) (n : Nat) : (s.modTask k f).part n = s.part n := rfl

@[simp] theorem State.modCore_power (s : State) (k : Nat) (f : Core → Core) : (s.modCore k f).power = s.power := rfl
@[simp] theorem State.modCore_up (s : State) (k : Nat) (f : Core → Core) : (s.modCore k f).up = s.up := rfl
@[simp] theorem State.modCore_recovery (s : State) (k : Nat) (f : Core → Core) : (s.modCore k f).recovery = s.recovery := rfl
@[simp] theorem State.modCore_gtc (s : State) (k : Nat) (f : Core → Core) : (s.modCore k f).gtc = s.gtc := rfl
@[simp] theorem State.modCore_gphase (s : State) (k : Nat) (f : Core → Core) : (s.modCore k f).gphase = s.gphase := rfl
@[simp] theorem State.modCore_cycle (s : State) (k : Nat) (f : Core → Core) : (s.modCore k f).cycle = s.cycle := rfl
@[simp] theorem State.modCore_cap (s : State) (k : Nat) (f : Core → Core) : (s.modCore k f).cap = s.cap := rfl
@[simp] theorem State.modCore_fuses (s : State) (k : Nat) (f : Core → Core) : (s.modCore k f).fuses = s.fuses := rfl
@[simp] theorem State.modCore_spareUsed (s : State) (k : Nat) (f : Core → Core) : (s.modCore k f).spareUsed = s.spareUsed := rfl
@[simp] theorem State.modCore_identSpares (s : State) (k : Nat) (f : Core → Core) : (s.modCore k f).identSpares = s.identSpares := rfl
@[simp] theorem State.modCore_mlog (s : State) (k : Nat) (f : Core → Core) : (s.modCore k f).mlog = s.mlog := rfl
@[simp] theorem State.modCore_slotB (s : State) (k : Nat) (f : Core → Core) : (s.modCore k f).slotB = s.slotB := rfl
@[simp] theorem State.modCore_imageA (s : State) (k : Nat) (f : Core → Core) : (s.modCore k f).imageA = s.imageA := rfl
@[simp] theorem State.modCore_imageB (s : State) (k : Nat) (f : Core → Core) : (s.modCore k f).imageB = s.imageB := rfl
@[simp] theorem State.modCore_handover (s : State) (k : Nat) (f : Core → Core) : (s.modCore k f).handover = s.handover := rfl
@[simp] theorem State.modCore_quotes (s : State) (k : Nat) (f : Core → Core) : (s.modCore k f).quotes = s.quotes := rfl
@[simp] theorem State.modCore_lanes (s : State) (k : Nat) (f : Core → Core) : (s.modCore k f).lanes = s.lanes := rfl
@[simp] theorem State.modCore_pcieWidth (s : State) (k : Nat) (f : Core → Core) : (s.modCore k f).pcieWidth = s.pcieWidth := rfl
@[simp] theorem State.modCore_channels (s : State) (k : Nat) (f : Core → Core) : (s.modCore k f).channels = s.channels := rfl
@[simp] theorem State.modCore_mclog (s : State) (k : Nat) (f : Core → Core) : (s.modCore k f).mclog = s.mclog := rfl
@[simp] theorem State.modCore_errs (s : State) (k : Nat) (f : Core → Core) : (s.modCore k f).errs = s.errs := rfl
@[simp] theorem State.modCore_dups (s : State) (k : Nat) (f : Core → Core) : (s.modCore k f).dups = s.dups := rfl
@[simp] theorem State.modCore_hostRead (s : State) (k : Nat) (f : Core → Core) : (s.modCore k f).hostRead = s.hostRead := rfl
@[simp] theorem State.modCore_peerRead (s : State) (k : Nat) (f : Core → Core) : (s.modCore k f).peerRead = s.peerRead := rfl
@[simp] theorem State.modCore_mem (s : State) (k : Nat) (f : Core → Core) : (s.modCore k f).mem = s.mem := rfl
@[simp] theorem State.modCore_bad (s : State) (k : Nat) (f : Core → Core) : (s.modCore k f).bad = s.bad := rfl
@[simp] theorem State.modCore_badL1 (s : State) (k : Nat) (f : Core → Core) : (s.modCore k f).badL1 = s.badL1 := rfl
@[simp] theorem State.modCore_badCode (s : State) (k : Nat) (f : Core → Core) : (s.modCore k f).badCode = s.badCode := rfl
@[simp] theorem State.modCore_badAcc (s : State) (k : Nat) (f : Core → Core) : (s.modCore k f).badAcc = s.badAcc := rfl
@[simp] theorem State.modCore_acc (s : State) (k : Nat) (f : Core → Core) : (s.modCore k f).acc = s.acc := rfl
@[simp] theorem State.modCore_rel (s : State) (k : Nat) (f : Core → Core) : (s.modCore k f).rel = s.rel := rfl
@[simp] theorem State.modCore_tlb (s : State) (k : Nat) (f : Core → Core) : (s.modCore k f).tlb = s.tlb := rfl
@[simp] theorem State.modCore_oldPtes (s : State) (k : Nat) (f : Core → Core) : (s.modCore k f).oldPtes = s.oldPtes := rfl
@[simp] theorem State.modCore_purges (s : State) (k : Nat) (f : Core → Core) : (s.modCore k f).purges = s.purges := rfl
@[simp] theorem State.modCore_checked (s : State) (k : Nat) (f : Core → Core) : (s.modCore k f).checked = s.checked := rfl
@[simp] theorem State.modCore_parts (s : State) (k : Nat) (f : Core → Core) : (s.modCore k f).parts = s.parts := rfl
@[simp] theorem State.modCore_tasks (s : State) (k : Nat) (f : Core → Core) : (s.modCore k f).tasks = s.tasks := rfl
@[simp] theorem State.modCore_clusters (s : State) (k : Nat) (f : Core → Core) : (s.modCore k f).clusters = s.clusters := rfl
@[simp] theorem State.modCore_teams (s : State) (k : Nat) (f : Core → Core) : (s.modCore k f).teams = s.teams := rfl
@[simp] theorem State.modCore_threads (s : State) (k : Nat) (f : Core → Core) : (s.modCore k f).threads = s.threads := rfl
@[simp] theorem State.modCore_pairs (s : State) (k : Nat) (f : Core → Core) : (s.modCore k f).pairs = s.pairs := rfl
@[simp] theorem State.modCore_groups (s : State) (k : Nat) (f : Core → Core) : (s.modCore k f).groups = s.groups := rfl
@[simp] theorem State.modCore_splits (s : State) (k : Nat) (f : Core → Core) : (s.modCore k f).splits = s.splits := rfl
@[simp] theorem State.modCore_copies (s : State) (k : Nat) (f : Core → Core) : (s.modCore k f).copies = s.copies := rfl
@[simp] theorem State.modCore_kvqs (s : State) (k : Nat) (f : Core → Core) : (s.modCore k f).kvqs = s.kvqs := rfl
@[simp] theorem State.modCore_sends (s : State) (k : Nat) (f : Core → Core) : (s.modCore k f).sends = s.sends := rfl
@[simp] theorem State.modCore_credits (s : State) (k : Nat) (f : Core → Core) : (s.modCore k f).credits = s.credits := rfl
@[simp] theorem State.modCore_sealed (s : State) (k : Nat) (f : Core → Core) : (s.modCore k f).sealed = s.sealed := rfl
@[simp] theorem State.modCore_rings (s : State) (k : Nat) (f : Core → Core) : (s.modCore k f).rings = s.rings := rfl
@[simp] theorem State.modCore_ctxs (s : State) (k : Nat) (f : Core → Core) : (s.modCore k f).ctxs = s.ctxs := rfl
@[simp] theorem State.modCore_nextId (s : State) (k : Nat) (f : Core → Core) : (s.modCore k f).nextId = s.nextId := rfl
@[simp] theorem State.modCore_tick (s : State) (k : Nat) (f : Core → Core) : (s.modCore k f).tick = s.tick := rfl
@[simp] theorem State.modCore_agenda (s : State) (k : Nat) (f : Core → Core) : (s.modCore k f).agenda = s.agenda := rfl
@[simp] theorem State.modCore_due (s : State) (k : Nat) (f : Core → Core) : (s.modCore k f).due = s.due := rfl
@[simp] theorem State.modCore_turnGtc (s : State) (k : Nat) (f : Core → Core) : (s.modCore k f).turnGtc = s.turnGtc := rfl
@[simp] theorem State.modCore_turn (s : State) (k : Nat) (f : Core → Core) : (s.modCore k f).turn = s.turn := rfl
@[simp] theorem State.modCore_plan (s : State) (k : Nat) (f : Core → Core) : (s.modCore k f).plan = s.plan := rfl
@[simp] theorem State.modCore_cycleOf (s : State) (k : Nat) (f : Core → Core) : (s.modCore k f).cycleOf = s.cycleOf := rfl
@[simp] theorem State.modCore_cur (s : State) (k : Nat) (f : Core → Core) : (s.modCore k f).cur = s.cur := rfl
@[simp] theorem State.modCore_thr (s : State) (k : Nat) (f : Core → Core) (n : Nat) : (s.modCore k f).thr n = s.thr n := rfl
@[simp] theorem State.modCore_pair (s : State) (k : Nat) (f : Core → Core) (n : Nat) : (s.modCore k f).pair n = s.pair n := rfl
@[simp] theorem State.modCore_grp (s : State) (k : Nat) (f : Core → Core) (n : Nat) : (s.modCore k f).grp n = s.grp n := rfl
@[simp] theorem State.modCore_team (s : State) (k : Nat) (f : Core → Core) (n : Nat) : (s.modCore k f).team n = s.team n := rfl
@[simp] theorem State.modCore_task (s : State) (k : Nat) (f : Core → Core) (n : Nat) : (s.modCore k f).task n = s.task n := rfl
@[simp] theorem State.modCore_part (s : State) (k : Nat) (f : Core → Core) (n : Nat) : (s.modCore k f).part n = s.part n := rfl

@[simp] theorem State.modPart_power (s : State) (k : Nat) (f : Part → Part) : (s.modPart k f).power = s.power := rfl
@[simp] theorem State.modPart_up (s : State) (k : Nat) (f : Part → Part) : (s.modPart k f).up = s.up := rfl
@[simp] theorem State.modPart_recovery (s : State) (k : Nat) (f : Part → Part) : (s.modPart k f).recovery = s.recovery := rfl
@[simp] theorem State.modPart_gtc (s : State) (k : Nat) (f : Part → Part) : (s.modPart k f).gtc = s.gtc := rfl
@[simp] theorem State.modPart_gphase (s : State) (k : Nat) (f : Part → Part) : (s.modPart k f).gphase = s.gphase := rfl
@[simp] theorem State.modPart_cycle (s : State) (k : Nat) (f : Part → Part) : (s.modPart k f).cycle = s.cycle := rfl
@[simp] theorem State.modPart_cap (s : State) (k : Nat) (f : Part → Part) : (s.modPart k f).cap = s.cap := rfl
@[simp] theorem State.modPart_fuses (s : State) (k : Nat) (f : Part → Part) : (s.modPart k f).fuses = s.fuses := rfl
@[simp] theorem State.modPart_spareUsed (s : State) (k : Nat) (f : Part → Part) : (s.modPart k f).spareUsed = s.spareUsed := rfl
@[simp] theorem State.modPart_identSpares (s : State) (k : Nat) (f : Part → Part) : (s.modPart k f).identSpares = s.identSpares := rfl
@[simp] theorem State.modPart_mlog (s : State) (k : Nat) (f : Part → Part) : (s.modPart k f).mlog = s.mlog := rfl
@[simp] theorem State.modPart_slotB (s : State) (k : Nat) (f : Part → Part) : (s.modPart k f).slotB = s.slotB := rfl
@[simp] theorem State.modPart_imageA (s : State) (k : Nat) (f : Part → Part) : (s.modPart k f).imageA = s.imageA := rfl
@[simp] theorem State.modPart_imageB (s : State) (k : Nat) (f : Part → Part) : (s.modPart k f).imageB = s.imageB := rfl
@[simp] theorem State.modPart_handover (s : State) (k : Nat) (f : Part → Part) : (s.modPart k f).handover = s.handover := rfl
@[simp] theorem State.modPart_quotes (s : State) (k : Nat) (f : Part → Part) : (s.modPart k f).quotes = s.quotes := rfl
@[simp] theorem State.modPart_lanes (s : State) (k : Nat) (f : Part → Part) : (s.modPart k f).lanes = s.lanes := rfl
@[simp] theorem State.modPart_pcieWidth (s : State) (k : Nat) (f : Part → Part) : (s.modPart k f).pcieWidth = s.pcieWidth := rfl
@[simp] theorem State.modPart_channels (s : State) (k : Nat) (f : Part → Part) : (s.modPart k f).channels = s.channels := rfl
@[simp] theorem State.modPart_mclog (s : State) (k : Nat) (f : Part → Part) : (s.modPart k f).mclog = s.mclog := rfl
@[simp] theorem State.modPart_errs (s : State) (k : Nat) (f : Part → Part) : (s.modPart k f).errs = s.errs := rfl
@[simp] theorem State.modPart_dups (s : State) (k : Nat) (f : Part → Part) : (s.modPart k f).dups = s.dups := rfl
@[simp] theorem State.modPart_hostRead (s : State) (k : Nat) (f : Part → Part) : (s.modPart k f).hostRead = s.hostRead := rfl
@[simp] theorem State.modPart_peerRead (s : State) (k : Nat) (f : Part → Part) : (s.modPart k f).peerRead = s.peerRead := rfl
@[simp] theorem State.modPart_mem (s : State) (k : Nat) (f : Part → Part) : (s.modPart k f).mem = s.mem := rfl
@[simp] theorem State.modPart_bad (s : State) (k : Nat) (f : Part → Part) : (s.modPart k f).bad = s.bad := rfl
@[simp] theorem State.modPart_badL1 (s : State) (k : Nat) (f : Part → Part) : (s.modPart k f).badL1 = s.badL1 := rfl
@[simp] theorem State.modPart_badCode (s : State) (k : Nat) (f : Part → Part) : (s.modPart k f).badCode = s.badCode := rfl
@[simp] theorem State.modPart_badAcc (s : State) (k : Nat) (f : Part → Part) : (s.modPart k f).badAcc = s.badAcc := rfl
@[simp] theorem State.modPart_acc (s : State) (k : Nat) (f : Part → Part) : (s.modPart k f).acc = s.acc := rfl
@[simp] theorem State.modPart_rel (s : State) (k : Nat) (f : Part → Part) : (s.modPart k f).rel = s.rel := rfl
@[simp] theorem State.modPart_tlb (s : State) (k : Nat) (f : Part → Part) : (s.modPart k f).tlb = s.tlb := rfl
@[simp] theorem State.modPart_oldPtes (s : State) (k : Nat) (f : Part → Part) : (s.modPart k f).oldPtes = s.oldPtes := rfl
@[simp] theorem State.modPart_purges (s : State) (k : Nat) (f : Part → Part) : (s.modPart k f).purges = s.purges := rfl
@[simp] theorem State.modPart_checked (s : State) (k : Nat) (f : Part → Part) : (s.modPart k f).checked = s.checked := rfl
@[simp] theorem State.modPart_tasks (s : State) (k : Nat) (f : Part → Part) : (s.modPart k f).tasks = s.tasks := rfl
@[simp] theorem State.modPart_cores (s : State) (k : Nat) (f : Part → Part) : (s.modPart k f).cores = s.cores := rfl
@[simp] theorem State.modPart_clusters (s : State) (k : Nat) (f : Part → Part) : (s.modPart k f).clusters = s.clusters := rfl
@[simp] theorem State.modPart_teams (s : State) (k : Nat) (f : Part → Part) : (s.modPart k f).teams = s.teams := rfl
@[simp] theorem State.modPart_threads (s : State) (k : Nat) (f : Part → Part) : (s.modPart k f).threads = s.threads := rfl
@[simp] theorem State.modPart_pairs (s : State) (k : Nat) (f : Part → Part) : (s.modPart k f).pairs = s.pairs := rfl
@[simp] theorem State.modPart_groups (s : State) (k : Nat) (f : Part → Part) : (s.modPart k f).groups = s.groups := rfl
@[simp] theorem State.modPart_splits (s : State) (k : Nat) (f : Part → Part) : (s.modPart k f).splits = s.splits := rfl
@[simp] theorem State.modPart_copies (s : State) (k : Nat) (f : Part → Part) : (s.modPart k f).copies = s.copies := rfl
@[simp] theorem State.modPart_kvqs (s : State) (k : Nat) (f : Part → Part) : (s.modPart k f).kvqs = s.kvqs := rfl
@[simp] theorem State.modPart_sends (s : State) (k : Nat) (f : Part → Part) : (s.modPart k f).sends = s.sends := rfl
@[simp] theorem State.modPart_credits (s : State) (k : Nat) (f : Part → Part) : (s.modPart k f).credits = s.credits := rfl
@[simp] theorem State.modPart_sealed (s : State) (k : Nat) (f : Part → Part) : (s.modPart k f).sealed = s.sealed := rfl
@[simp] theorem State.modPart_rings (s : State) (k : Nat) (f : Part → Part) : (s.modPart k f).rings = s.rings := rfl
@[simp] theorem State.modPart_ctxs (s : State) (k : Nat) (f : Part → Part) : (s.modPart k f).ctxs = s.ctxs := rfl
@[simp] theorem State.modPart_nextId (s : State) (k : Nat) (f : Part → Part) : (s.modPart k f).nextId = s.nextId := rfl
@[simp] theorem State.modPart_tick (s : State) (k : Nat) (f : Part → Part) : (s.modPart k f).tick = s.tick := rfl
@[simp] theorem State.modPart_agenda (s : State) (k : Nat) (f : Part → Part) : (s.modPart k f).agenda = s.agenda := rfl
@[simp] theorem State.modPart_due (s : State) (k : Nat) (f : Part → Part) : (s.modPart k f).due = s.due := rfl
@[simp] theorem State.modPart_turnGtc (s : State) (k : Nat) (f : Part → Part) : (s.modPart k f).turnGtc = s.turnGtc := rfl
@[simp] theorem State.modPart_turn (s : State) (k : Nat) (f : Part → Part) : (s.modPart k f).turn = s.turn := rfl
@[simp] theorem State.modPart_plan (s : State) (k : Nat) (f : Part → Part) : (s.modPart k f).plan = s.plan := rfl
@[simp] theorem State.modPart_cycleOf (s : State) (k : Nat) (f : Part → Part) : (s.modPart k f).cycleOf = s.cycleOf := rfl
@[simp] theorem State.modPart_cur (s : State) (k : Nat) (f : Part → Part) : (s.modPart k f).cur = s.cur := rfl
@[simp] theorem State.modPart_thr (s : State) (k : Nat) (f : Part → Part) (n : Nat) : (s.modPart k f).thr n = s.thr n := rfl
@[simp] theorem State.modPart_pair (s : State) (k : Nat) (f : Part → Part) (n : Nat) : (s.modPart k f).pair n = s.pair n := rfl
@[simp] theorem State.modPart_grp (s : State) (k : Nat) (f : Part → Part) (n : Nat) : (s.modPart k f).grp n = s.grp n := rfl
@[simp] theorem State.modPart_team (s : State) (k : Nat) (f : Part → Part) (n : Nat) : (s.modPart k f).team n = s.team n := rfl
@[simp] theorem State.modPart_task (s : State) (k : Nat) (f : Part → Part) (n : Nat) : (s.modPart k f).task n = s.task n := rfl
@[simp] theorem State.modPart_core (s : State) (k : Nat) (f : Part → Part) (n : Nat) : (s.modPart k f).core n = s.core n := rfl

end Sys2Proof.Machine
end

