-- ==== Sys2Proof/Laws/Table.lean ====
section
/-! SUPPORT. Sparse tables: what is read after a write, a change or a removal, and the accessors of the state after an update. -/

namespace Sys2Proof.Machine

@[simp] theorem kget_kput_same {α : Type} (m : KMap α) (k : Nat) (v : α) : kget (kput m k v) k = some v := by
  induction m with
  | nil => simp [kput, kget]
  | cons e t ih =>
    obtain ⟨k', v'⟩ := e
    simp only [kput]
    by_cases h : k' = k
    · simp [h, kget]
    · by_cases h2 : k < k'
      · simp [h, h2, kget]
      · simp [h, h2, kget, ih]

theorem kget_kput_ne {α : Type} (m : KMap α) (k n : Nat) (v : α) (h : n ≠ k) : kget (kput m k v) n = kget m n := by
  induction m with
  | nil => simp [kput, kget, Ne.symm h]
  | cons e t ih =>
    obtain ⟨k', v'⟩ := e
    simp only [kput]
    by_cases h1 : k' = k
    · subst h1; simp [kget, Ne.symm h]
    · by_cases h2 : k < k'
      · simp [h1, h2, kget, Ne.symm h]
      · simp [h1, h2, kget, ih]

@[simp] theorem kgetD_kput_same {α : Type} (m : KMap α) (k : Nat) (v d : α) : kgetD (kput m k v) k d = v := by simp [kgetD]

theorem kgetD_kput_ne {α : Type} (m : KMap α) (k n : Nat) (v d : α) (h : n ≠ k) : kgetD (kput m k v) n d = kgetD m n d := by
  simp [kgetD, kget_kput_ne m k n v h]

theorem kget_kdel_ne {α : Type} (m : KMap α) (k n : Nat) (h : n ≠ k) : kget (kdel m k) n = kget m n := by
  induction m with
  | nil => rfl
  | cons e t ih =>
    obtain ⟨k', v'⟩ := e
    simp only [kdel, List.filter_cons] at ih ⊢
    by_cases h1 : k' = k
    · subst h1; simp [kget, Ne.symm h, ih]
    · simp [h1, kget, ih]

theorem kget_kdel_same {α : Type} (m : KMap α) (k : Nat) : kget (kdel m k) k = none := by
  induction m with
  | nil => rfl
  | cons e t ih =>
    obtain ⟨k', v'⟩ := e
    simp only [kdel, List.filter_cons] at ih ⊢
    by_cases h1 : k' = k
    · subst h1; simp [ih]
    · simp [h1, kget, ih]

theorem kget_kmod_ne {α : Type} (m : KMap α) (k n : Nat) (f : α → α) (h : n ≠ k) : kget (kmod m k f) n = kget m n := by
  unfold kmod; split
  · exact kget_kput_ne m k n _ h
  · rfl

theorem kget_kmod_same {α : Type} (m : KMap α) (k : Nat) (f : α → α) : kget (kmod m k f) k = (kget m k).map f := by
  unfold kmod; split <;> simp_all

/-- A table in canonical form reads the default where an entry is set to it. -/
@[simp] theorem kgetD_kputD_same {α : Type} [DecidableEq α] (m : KMap α) (k : Nat) (d v : α) : kgetD (kputD m k d v) k d = v := by
  unfold kputD; split
  · simp [kgetD, kget_kdel_same, *]
  · simp

theorem kgetD_kputD_ne {α : Type} [DecidableEq α] (m : KMap α) (k n : Nat) (d v : α) (h : n ≠ k) :
    kgetD (kputD m k d v) n d = kgetD m n d := by
  unfold kputD; split
  · simp [kgetD, kget_kdel_ne m k n h]
  · exact kgetD_kput_ne m k n v d h

@[simp] theorem State.thr_modThr_same (s : State) (k : Nat) (f : Thread → Thread) : (s.modThr k f).thr k = f (s.thr k) := by
  simp [State.thr, State.modThr]

theorem State.thr_modThr_ne (s : State) (k n : Nat) (f : Thread → Thread) (h : n ≠ k) : (s.modThr k f).thr n = s.thr n := by
  simp [State.thr, State.modThr, kgetD_kput_ne _ _ _ _ _ h]

@[simp] theorem State.pair_modPair_same (s : State) (k : Nat) (f : Pair → Pair) : (s.modPair k f).pair k = f (s.pair k) := by
  simp [State.pair, State.modPair]

theorem State.pair_modPair_ne (s : State) (k n : Nat) (f : Pair → Pair) (h : n ≠ k) : (s.modPair k f).pair n = s.pair n := by
  simp [State.pair, State.modPair, kgetD_kput_ne _ _ _ _ _ h]

@[simp] theorem State.core_modCore_same (s : State) (k : Nat) (f : Core → Core) : (s.modCore k f).core k = f (s.core k) := by
  simp [State.core, State.modCore]

theorem State.core_modCore_ne (s : State) (k n : Nat) (f : Core → Core) (h : n ≠ k) : (s.modCore k f).core n = s.core n := by
  simp [State.core, State.modCore, kgetD_kput_ne _ _ _ _ _ h]

theorem State.grp_modGrp_ne (s : State) (k n : Nat) (f : Group → Group) (h : n ≠ k) : (s.modGrp k f).grp n = s.grp n := by
  simp [State.grp, State.modGrp, kgetD, kget_kmod_ne _ _ _ _ h]

theorem State.grp_modGrp_same (s : State) (k : Nat) (f : Group → Group) (h : (kget s.groups k).isSome) :
    (s.modGrp k f).grp k = f (s.grp k) := by
  obtain ⟨g, hg⟩ := Option.isSome_iff_exists.mp h
  simp [State.grp, State.modGrp, kgetD, kget_kmod_same, hg]

theorem State.team_modTeam_ne (s : State) (k n : Nat) (f : Team → Team) (h : n ≠ k) : (s.modTeam k f).team n = s.team n := by
  simp [State.team, State.modTeam, kgetD, kget_kmod_ne _ _ _ _ h]

theorem State.team_modTeam_same (s : State) (k : Nat) (f : Team → Team) (h : (kget s.teams k).isSome) :
    (s.modTeam k f).team k = f (s.team k) := by
  obtain ⟨g, hg⟩ := Option.isSome_iff_exists.mp h
  simp [State.team, State.modTeam, kgetD, kget_kmod_same, hg]

end Sys2Proof.Machine
end

