-- ==== Sys2Proof/Laws/Issue.lean ====
section
/-! SUPPORT. What the shared operations of every instruction come to: the checks before it, how its attempts settle, and going on to
the next instruction. -/

namespace Sys2Proof.Machine

open Sys2Proof.Safety

theorem mem_activeOf {s : State} {c : Cur} {p : Pfx} {u : Nat} (h : u ∈ s.activeOf c p) : u ∈ (s.grp c.gid).members :=
  (List.mem_filter.mp h).1

/-- An issue that passes its checks goes on to the body. -/
theorem checked_ok {s : State} {c : Cur} {act : List Nat} {need : SideReq} {priv : Bool} {p : Pfx} {ok : State → Cur → Bool}
    (h : Issues s c act need priv p) (hok : ok s c = true) (idle : State → Cur → State) (body : Cur → List Nat → Out) :
    checked need priv p ok idle s body = body c act := by
  obtain ⟨hp, hc, ha, hn, he, haa, hpr⟩ := h
  subst ha
  unfold checked
  rw [hp, hc]
  have h1 : (s.activeOf c p).isEmpty = false := by simpa using hn
  have h3 : (priv && !(s.grp c.gid).priv) = false := by cases hpv : priv <;> simp_all
  have h4 : ((decide (need = .eOnly) && decide (c.side = .a)) || (decide (need = .aOnly) && decide (c.side = .e))) = false := by
    simpa using And.intro (fun h1 h2 => he ⟨h1, h2⟩) (fun h1 h2 => haa ⟨h1, h2⟩)
  simp [h1, h4, h3, hok]

theorem withCur_ok {s : State} {c : Cur} {act : List Nat} {need : SideReq} {priv : Bool} {p : Pfx} {ok : State → Cur → Bool}
    (h : Issues s c act need priv p) (hok : ok s c = true) (body : Cur → List Nat → Out) : withCur need priv p ok s body = body c act := by
  unfold withCur
  exact checked_ok h hok _ body

theorem fallOr_ok {s : State} {c : Cur} (hf : Falls s c) (o : Out) : s.fallOr c o = o := by
  unfold Falls at hf
  simp [State.fallOr, hf]

/-- The same for an instruction that goes on to the next one. -/
theorem goesOn_ok {s : State} {c : Cur} {act : List Nat} {need : SideReq} {priv : Bool} {p : Pfx} {ok : State → Cur → Bool}
    (h : Issues s c act need priv p) (hf : Falls s c) (hok : ok s c = true) (idle : State → Cur → State) (body : Cur → List Nat → Out) :
    checked need priv p ok idle s (fun c act => s.fallOr c (body c act)) = body c act := by
  rw [checked_ok h hok, fallOr_ok hf]

theorem withIssue_ok {s : State} {c : Cur} {act : List Nat} {need : SideReq} {priv : Bool} {p : Pfx} {ok : State → Cur → Bool}
    (h : Issues s c act need priv p) (hf : Falls s c) (hok : ok s c = true) (body : Cur → List Nat → Out) :
    withIssue need priv p ok s body = body c act := by
  unfold withIssue withCur
  exact goesOn_ok h hf hok _ body

theorem withDst_ok {s : State} {c : Cur} {act : List Nat} {need : SideReq} {priv : Bool} {p : Pfx} {ok : State → Cur → Bool}
    {z : Side → Thread → Thread} (h : Issues s c act need priv p) (hf : Falls s c) (hok : ok s c = true) (body : Cur → List Nat → Out) :
    withDst need priv p ok z s body = body c act := by
  unfold withDst
  exact goesOn_ok h hf hok _ body

/-- Attempts that all succeed settle as the commit. -/
theorem settle_ok {α : Type} {s : State} {c : Cur} {act : List Nat} {rs : List (Nat × Try α)} (h : AllOk rs) (o : Out) :
    s.settle c act rs o = o := by
  have hits : rs.filterMap (fun e => (s.hitOf e.2).map (fun h => (e.1, h))) = [] := by
    rw [List.filterMap_eq_nil_iff]
    intro e he
    obtain ⟨v, hv⟩ := h e he
    simp [hv, State.hitOf]
  have waits : rs.filterMap (fun e => (parkOf e.2).map (fun w => (e.1, w))) = [] := by
    rw [List.filterMap_eq_nil_iff]
    intro e he
    obtain ⟨v, hv⟩ := h e he
    simp [hv, parkOf]
  unfold State.settle
  simp only [hits, waits]
  simp

theorem allOk_map {α : Type} {act : List Nat} {f : Nat → Try α} (h : ∀ u ∈ act, ∃ l, f u = .ok l) : AllOk (act.map (fun t => (t, f t))) := by
  intro e he
  obtain ⟨u, hu, rfl⟩ := List.mem_map.mp he
  exact h u hu

/-- A step of a group of threads changes only groups and split records. -/
def OnlyGroups (s t : State) : Prop := { t with groups := s.groups, splits := s.splits } = s

theorem OnlyGroups.refl (s : State) : OnlyGroups s s := rfl

theorem OnlyGroups.trans {s t u : State} (h1 : OnlyGroups s t) (h2 : OnlyGroups t u) : OnlyGroups s u := by
  unfold OnlyGroups at *
  rw [← h1, ← h2]

theorem OnlyGroups.threads {s t : State} (h : OnlyGroups s t) : t.threads = s.threads := by rw [← h]
theorem OnlyGroups.thr {s t : State} (h : OnlyGroups s t) (k : Nat) : t.thr k = s.thr k := by simp [State.thr, h.threads]
theorem OnlyGroups.pairs {s t : State} (h : OnlyGroups s t) : t.pairs = s.pairs := by rw [← h]
theorem OnlyGroups.pair {s t : State} (h : OnlyGroups s t) (k : Nat) : t.pair k = s.pair k := by simp [State.pair, h.pairs]
theorem OnlyGroups.teams {s t : State} (h : OnlyGroups s t) : t.teams = s.teams := by rw [← h]
theorem OnlyGroups.mem {s t : State} (h : OnlyGroups s t) : t.mem = s.mem := by rw [← h]

theorem foldl_only {α : Type} (f : State → α → State) (hf : ∀ s a, OnlyGroups s (f s a)) (l : List α) (s : State) :
    OnlyGroups s (l.foldl f s) := by
  induction l generalizing s with
  | nil => exact .refl s
  | cons a t ih => exact (hf s a).trans (ih (f s a))

theorem modGrp_only (s : State) (g : Nat) (f : Group → Group) : OnlyGroups s (s.modGrp g f) := rfl

theorem uniteTwo_only (s : State) (a b : Nat) : OnlyGroups s (s.uniteTwo a b) := rfl

theorem unite_only (s : State) (gs : List Nat) : OnlyGroups s (s.unite gs) := by
  refine foldl_only _ (fun s sl => ?_) _ s
  split
  · exact .refl s
  · exact foldl_only _ (fun s b => uniteTwo_only s _ b) _ s

theorem dropSplit_only (s : State) (sid : Nat) : OnlyGroups s (s.dropSplit sid) := rfl

theorem checkSplit_only (s : State) (sid : Nat) : OnlyGroups s (s.checkSplit sid) := by
  unfold State.checkSplit
  split
  · exact .refl s
  · simp only
    split
    · exact (unite_only s _).trans (dropSplit_only _ sid)
    · exact .refl s

theorem arriveHdr_only (n : Nat) : ∀ (s : State) (gid : Nat), OnlyGroups s (s.arriveHdr gid n) := by
  induction n with
  | zero => exact fun s _ => .refl s
  | succ n ih =>
    intro s gid
    unfold State.arriveHdr
    simp only
    split
    · exact .refl s
    · split
      · exact .refl s
      · have h1 : ∀ m : KMap Split, OnlyGroups s { s with splits := m } := fun _ => rfl
        split
        · exact (h1 _).trans (checkSplit_only _ _)
        · exact ((h1 _).trans (checkSplit_only _ _)).trans (foldl_only _ (fun s k => ih s k) _ _)

/-- Arriving before a header touches only groups and records; a group that stands inside a block stays as it is. -/
theorem arriveHdr_stays (s : State) (gid n : Nat) (h : (s.grp gid).entering = false) : s.arriveHdr gid n = s := by
  cases n with
  | zero => rfl
  | succ n => simp [State.arriveHdr, State.waiting, h]

/-- A fold of thread updates changes only threads. -/
theorem foldl_modThr_threads (ts : List Nat) (key : Nat → Nat) (f : Nat → Thread → Thread) (s : State) :
    ts.foldl (fun s t => s.modThr (key t) (f t)) s =
      { s with threads := (ts.foldl (fun s t => s.modThr (key t) (f t)) s).threads } := by
  induction ts generalizing s with
  | nil => rfl
  | cons t ts ih => simp only [List.foldl_cons]; rw [ih]; rfl

theorem foldl_modThr_ne (ts : List Nat) (key : Nat → Nat) (f : Nat → Thread → Thread) (s : State) (k : Nat) (h : ∀ t ∈ ts, key t ≠ k) :
    (ts.foldl (fun s t => s.modThr (key t) (f t)) s).thr k = s.thr k := by
  induction ts generalizing s with
  | nil => rfl
  | cons t ts ih =>
    simp only [List.foldl_cons]
    rw [ih _ (fun u hu => h u (List.mem_cons_of_mem _ hu))]
    exact State.thr_modThr_ne s _ _ _ (Ne.symm (h t List.mem_cons_self))

/-- A fold of one idempotent update over threads applies it once to each. -/
theorem foldl_modThr_mem (ts : List Nat) (key : Nat → Nat) (f : Thread → Thread) (hf : ∀ t, f (f t) = f t) (s : State) (k : Nat)
    (h : ∃ t ∈ ts, key t = k) : (ts.foldl (fun s t => s.modThr (key t) f) s).thr k = f (s.thr k) := by
  induction ts generalizing s with
  | nil => obtain ⟨t, ht, _⟩ := h; cases ht
  | cons t ts ih =>
    simp only [List.foldl_cons]
    by_cases hk : key t = k
    · subst hk
      by_cases hr : ∃ u ∈ ts, key u = key t
      · rw [ih _ hr]; simp [hf]
      · have hn : ∀ u ∈ ts, key u ≠ key t := fun u hu he => hr ⟨u, hu, he⟩
        rw [foldl_modThr_ne ts key (fun _ => f) _ _ hn]; simp
    · obtain ⟨u, hu, he⟩ := h
      rcases List.mem_cons.mp hu with rfl | hu
      · exact absurd he hk
      · rw [ih _ ⟨u, hu, he⟩, State.thr_modThr_ne s _ _ _ (Ne.symm hk)]

theorem doneThread_idem (priv : Bool) (t : Thread) : doneThread priv (doneThread priv t) = doneThread priv t := by
  have hk : t.park.kept.kept = t.park.kept := by cases t.park <;> rfl
  cases priv <;> simp [doneThread, hk] <;> rfl

/-- Threads that have completed an instruction. -/
theorem completed_thr (s : State) (tm : Nat) (sd : Side) (ts : List Nat) (priv : Bool) (k : Nat) :
    (s.completed tm sd ts priv).thr k = if (∃ t ∈ ts, tkey tm sd t = k) then doneThread priv (s.thr k) else s.thr k := by
  unfold State.completed
  split
  · rename_i h
    exact foldl_modThr_mem ts (tkey tm sd) (doneThread priv) (doneThread_idem priv) s k h
  · rename_i h
    exact foldl_modThr_ne ts (tkey tm sd) (fun _ => doneThread priv) s k (fun t ht he => h ⟨t, ht, he⟩)

theorem completed_eq (s : State) (tm : Nat) (sd : Side) (ts : List Nat) (priv : Bool) :
    s.completed tm sd ts priv = { s with threads := (s.completed tm sd ts priv).threads } :=
  foldl_modThr_threads ts (tkey tm sd) (fun _ => doneThread priv) s

/-- Only threads, groups and split records differ. -/
def OnlyThreads (s t : State) : Prop := { t with threads := s.threads, groups := s.groups, splits := s.splits } = s

theorem OnlyThreads.trans {s t u : State} (h1 : OnlyThreads s t) (h2 : OnlyThreads t u) : OnlyThreads s u := by
  unfold OnlyThreads at *
  rw [← h1, ← h2]

theorem OnlyGroups.only {s t : State} (h : OnlyGroups s t) : OnlyThreads s t := by
  unfold OnlyGroups at h; unfold OnlyThreads; rw [← h]

/-- Everything but threads, groups and split records stands after a retirement as before. -/
theorem retire_frame (s : State) (c : Cur) : OnlyThreads s (s.retire c) := by
  refine OnlyThreads.trans ?_ (arriveHdr_only _ _ _).only
  rw [completed_eq]
  rfl

/-- The threads after a retirement: the members of the group have completed the instruction. -/
theorem retire_thr (s : State) (c : Cur) (k : Nat) : (s.retire c).thr k =
    if (∃ t ∈ (s.grp c.gid).members, c.key t = k) then doneThread (s.grp c.gid).priv (s.thr k) else s.thr k := by
  unfold State.retire
  rw [(arriveHdr_only _ _ _).thr, State.modGrp_thr, completed_thr]
  rfl

/-- Inside a block a retirement moves the group to the next instruction. -/
theorem retire_moves (s : State) (c : Cur) : MovesOn s (s.retire c) c := by
  intro hl hg
  have hg2 : (kget (s.completed c.tm c.side (s.grp c.gid).members (s.grp c.gid).priv).groups c.gid).isSome := by
    rw [completed_eq]; exact hg
  have he : (((s.completed c.tm c.side (s.grp c.gid).members (s.grp c.gid).priv).modGrp c.gid
      (fun g => g.goto (c.after g.priv))).grp c.gid) = (s.grp c.gid).goto (c.after (s.grp c.gid).priv) := by
    rw [State.grp_modGrp_same _ _ _ hg2, completed_eq]; rfl
  have hen : ((s.grp c.gid).goto (c.after (s.grp c.gid).priv)).entering = false := by simp [Group.goto, Cur.after, hl]
  unfold State.retire
  rw [arriveHdr_stays _ _ _ (by rw [he]; exact hen), he]
  simp [Group.goto, Cur.after, hl]

/-- A byte of memory depends on teams' scratchpads and on M alone. -/
theorem readM_congr {s t : State} (h1 : t.mem = s.mem) (h2 : t.teams = s.teams) (l : Loc) : t.readM l = s.readM l := by
  cases l <;> simp [State.readM, State.mByte, State.team, h1, h2]

end Sys2Proof.Machine
end

