-- ==== Sys2Proof/Laws/Lanes.lean ====
section
/-! SUPPORT. What an instruction comes to whose threads act each on its own registers and queues, and one whose threads act in order on
the shared state, where every attempt succeeds. -/

namespace Sys2Proof.Machine

open Sys2Proof.Safety

theorem putLane_thr_same (s : State) (k : Nat) (l : Lane) : (s.putLane k l).thr k = l.th := by
  simp [State.putLane]

theorem putLane_thr_ne (s : State) (k n : Nat) (l : Lane) (h : n ≠ k) : (s.putLane k l).thr n = s.thr n := by
  simp [State.putLane, State.thr_modThr_ne s _ _ _ h]

theorem putLane_pair_same (s : State) (k : Nat) (l : Lane) : (s.putLane k l).pair (pairOf k) = l.p := by
  simp [State.putLane]

theorem putLane_pair_ne (s : State) (k n : Nat) (l : Lane) (h : n ≠ pairOf k) : (s.putLane k l).pair n = s.pair n := by
  unfold State.putLane
  rw [State.pair_modPair_ne _ _ _ _ h]
  rfl

/-- The state with the lanes of successful attempts put back. -/
def putLanes (c : Cur) (s : State) (rs : List (Nat × Try Lane)) : State :=
  rs.foldl (fun s e => match e.2 with | .ok l => s.putLane (c.key e.1) l | _ => s) s

theorem putLanes_frame (c : Cur) (rs : List (Nat × Try Lane)) (s : State) :
    putLanes c s rs = { s with threads := (putLanes c s rs).threads, pairs := (putLanes c s rs).pairs } := by
  induction rs generalizing s with
  | nil => rfl
  | cons e t ih =>
    unfold putLanes at *
    simp only [List.foldl_cons]
    rw [ih]
    cases e.2 <;> rfl

theorem putLanes_thr_ne (c : Cur) (rs : List (Nat × Try Lane)) (s : State) (k : Nat) (h : ∀ e ∈ rs, c.key e.1 ≠ k) :
    (putLanes c s rs).thr k = s.thr k := by
  induction rs generalizing s with
  | nil => rfl
  | cons e t ih =>
    unfold putLanes at *
    simp only [List.foldl_cons]
    rw [ih _ (fun x hx => h x (List.mem_cons_of_mem _ hx))]
    cases e.2 <;> simp [putLane_thr_ne _ _ _ _ (Ne.symm (h e List.mem_cons_self))]

theorem putLanes_pair_ne (c : Cur) (rs : List (Nat × Try Lane)) (s : State) (n : Nat) (h : ∀ e ∈ rs, pairOf (c.key e.1) ≠ n) :
    (putLanes c s rs).pair n = s.pair n := by
  induction rs generalizing s with
  | nil => rfl
  | cons e t ih =>
    unfold putLanes at *
    simp only [List.foldl_cons]
    rw [ih _ (fun x hx => h x (List.mem_cons_of_mem _ hx))]
    cases e.2 <;> simp [putLane_pair_ne _ _ _ _ (Ne.symm (h e List.mem_cons_self))]

/-- Attempts from one state depend on the thread alone, so one that stands twice in a list is the same both times. -/
theorem putLanes_thr (c : Cur) (act : List Nat) (f : Nat → Try Lane) (s : State) (u : Nat) (hu : u ∈ act) (l : Lane)
    (hl : f (c.key u) = .ok l) : (putLanes c s (act.map (fun t => (t, f (c.key t))))).thr (c.key u) = l.th := by
  induction act generalizing s with
  | nil => cases hu
  | cons t ts ih =>
    simp only [List.map_cons]
    by_cases hin : u ∈ ts
    · unfold putLanes at *
      simp only [List.foldl_cons]
      exact ih _ hin
    · have ht : t = u := by
        rcases List.mem_cons.mp hu with h | h
        · exact h.symm
        · exact absurd h hin
      subst ht
      by_cases hk : ∃ v ∈ ts, c.key v = c.key t
      · obtain ⟨v, hv, he⟩ := hk
        have : v = t := by unfold Cur.key tkey at he; omega
        exact absurd (this ▸ hv) hin
      · have hne : ∀ e ∈ ts.map (fun t => (t, f (c.key t))), c.key e.1 ≠ c.key t := by
          intro e he
          obtain ⟨v, hv, rfl⟩ := List.mem_map.mp he
          exact fun h => hk ⟨v, hv, h⟩
        have := putLanes_thr_ne c (ts.map (fun t => (t, f (c.key t)))) (s.putLane (c.key t) l) (c.key t) hne
        unfold putLanes at *
        simp only [List.foldl_cons, hl]
        rw [this, putLane_thr_same]

theorem putLanes_pair (c : Cur) (act : List Nat) (f : Nat → Try Lane) (s : State) (u : Nat) (hu : u ∈ act) (l : Lane)
    (hl : f (c.key u) = .ok l) (ha : Alone c act u) :
    (putLanes c s (act.map (fun t => (t, f (c.key t))))).pair (pairOf (c.key u)) = l.p := by
  induction act generalizing s with
  | nil => cases hu
  | cons t ts ih =>
    simp only [List.map_cons]
    have ha' : Alone c ts u := fun v hv => ha v (List.mem_cons_of_mem _ hv)
    by_cases hin : u ∈ ts
    · unfold putLanes at *
      simp only [List.foldl_cons]
      exact ih _ hin ha'
    · have ht : t = u := by
        rcases List.mem_cons.mp hu with h | h
        · exact h.symm
        · exact absurd h hin
      subst ht
      have hne : ∀ e ∈ ts.map (fun t => (t, f (c.key t))), pairOf (c.key e.1) ≠ pairOf (c.key t) := by
        intro e he
        obtain ⟨v, hv, rfl⟩ := List.mem_map.mp he
        intro h
        have := ha v (List.mem_cons_of_mem _ hv) h
        exact hin (this ▸ hv)
      have := putLanes_pair_ne c (ts.map (fun t => (t, f (c.key t)))) (s.putLane (c.key t) l) (pairOf (c.key t)) hne
      unfold putLanes at *
      simp only [List.foldl_cons, hl]
      rw [this, putLane_pair_same]

theorem zeroDst_eq (s : State) (c : Cur) (act : List Nat) (p : Pfx) (z : Thread → Thread) :
    s.zeroDst c act p z = { s with threads := (s.zeroDst c act p z).threads } := by
  unfold State.zeroDst
  split
  · exact foldl_modThr_threads (s.inactive c act) c.key (fun _ => z) s
  · rfl

theorem mem_inactive {s : State} {c : Cur} {act : List Nat} {u : Nat} :
    u ∈ s.inactive c act ↔ u ∈ (s.grp c.gid).members ∧ u ∉ act := by
  simp [State.inactive]

theorem key_inj {c : Cur} {u v : Nat} (h : c.key u = c.key v) : u = v := by
  unfold Cur.key tkey at h; omega

theorem zeroDst_thr (s : State) (c : Cur) (act : List Nat) (p : Pfx) (z : Thread → Thread) (hz : ∀ t, z (z t) = z t) (u : Nat) :
    (s.zeroDst c act p z).thr (c.key u) =
      if p.zeroes = true ∧ u ∈ (s.grp c.gid).members ∧ u ∉ act then z (s.thr (c.key u)) else s.thr (c.key u) := by
  unfold State.zeroDst
  by_cases hp : p.zeroes
  · simp only [hp, if_true, true_and]
    by_cases hu : u ∈ s.inactive c act
    · rw [foldl_modThr_mem (s.inactive c act) c.key z hz s (c.key u) ⟨u, hu, rfl⟩]
      simp [mem_inactive.mp hu]
    · rw [foldl_modThr_ne (s.inactive c act) c.key (fun _ => z) s (c.key u) (fun t ht he => hu (key_inj he ▸ ht))]
      rw [mem_inactive] at hu
      simp [hu]
  · simp [hp]

theorem zeroDst_outside (s : State) (c : Cur) (act : List Nat) (p : Pfx) (z : Thread → Thread) (k : Nat)
    (h : Outside s c k) : (s.zeroDst c act p z).thr k = s.thr k := by
  unfold State.zeroDst
  split
  · exact foldl_modThr_ne _ c.key (fun _ => z) s k (fun t ht => h t (mem_inactive.mp ht).1)
  · rfl

/-- An instruction of attempts from one state, all of which succeed. -/
theorem runLanes_ok {s : State} {c : Cur} {act : List Nat} {p : Pfx} {z : Thread → Thread} {f : Nat → Try Lane}
    (hf : ∀ u ∈ act, ∃ l, f (c.key u) = .ok l) : s.runLanes c act p z f =
      .next (((putLanes c s (act.map (fun t => (t, f (c.key t))))).zeroDst c act p z).retire c) := by
  unfold State.runLanes
  exact settle_ok (allOk_map (f := fun t => f (c.key t)) hf) _

/-- What it leaves: each active thread as its attempt says, the inactive ones with their destinations cleared where the prefix says
so, everything else as before. -/
theorem runLanes_spec {s : State} {c : Cur} {act : List Nat} {p : Pfx} {z : Thread → Thread} {f : Nat → Try Lane}
    (hz : ∀ t, z (z t) = z t) (hm : ∀ u ∈ act, u ∈ (s.grp c.gid).members) (hf : ∀ u ∈ act, ∃ l, f (c.key u) = .ok l) :
    ∃ t, s.runLanes c act p z f = .next t ∧ Frame s t ∧ MovesOn s t c ∧
      (∀ u ∈ act, ∀ l, f (c.key u) = .ok l →
        t.thr (c.key u) = doneThread (s.grp c.gid).priv l.th ∧ (Alone c act u → t.pair (pairOf (c.key u)) = l.p)) ∧
      (∀ u ∈ (s.grp c.gid).members, u ∉ act →
        t.thr (c.key u) = doneThread (s.grp c.gid).priv (if p.zeroes then z (s.thr (c.key u)) else s.thr (c.key u))) ∧
      (∀ k, Outside s c k → t.thr k = s.thr k) ∧ (∀ n, NoPair c act n → t.pair n = s.pair n) := by
  refine ⟨_, runLanes_ok hf, ?_⟩
  generalize hP : putLanes c s (act.map (fun t => (t, f (c.key t)))) = a
  have ha := putLanes_frame c (act.map (fun t => (t, f (c.key t)))) s
  rw [hP] at ha
  generalize hZ : a.zeroDst c act p z = b
  have hb := zeroDst_eq a c act p z
  rw [hZ] at hb
  have hr := retire_frame b c
  have ga : ∀ g, a.grp g = s.grp g := fun g => by rw [ha]; rfl
  have gb : ∀ g, b.grp g = s.grp g := fun g => by rw [hb]; exact ga g
  have gg : b.groups = s.groups := by rw [hb]; simp only; rw [ha]
  have pb : ∀ n, b.pair n = a.pair n := fun n => by rw [hb]; rfl
  have pr : ∀ n, (b.retire c).pair n = b.pair n := fun n => by
    unfold OnlyThreads at hr
    have h := congrArg State.pairs hr
    simp only at h
    simp [State.pair, h]
  have hFrame : { b.retire c with threads := s.threads, pairs := s.pairs, groups := s.groups, splits := s.splits } = s := by
    unfold OnlyThreads at hr
    have h2 := congrArg (fun x : State => { x with threads := s.threads, pairs := s.pairs, groups := s.groups, splits := s.splits }) hr
    simp only at h2
    refine h2.trans ?_
    rw [hb]; simp only; rw [ha]
  refine ⟨⟨hFrame, fun l => ?_⟩, ?_, ?_, ?_, ?_, ?_⟩
  · exact readM_congr (by have h := congrArg State.mem hFrame; simpa using h) (by have h := congrArg State.teams hFrame; simpa using h) l
  · have h := retire_moves b c
    unfold MovesOn at *
    rw [gg, gb] at h
    exact h
  · intro u hu l hl
    have hmu := hm u hu
    refine ⟨?_, fun hal => ?_⟩
    · rw [retire_thr, gb, if_pos ⟨u, hmu, rfl⟩, ← hZ, zeroDst_thr a c act p z hz, if_neg (by simp [hu]), ← hP,
        putLanes_thr c act f s u hu l hl]
    · rw [pr, pb, ← hP, putLanes_pair c act f s u hu l hl hal]
  · intro u hmu hu
    rw [retire_thr, gb, if_pos ⟨u, hmu, rfl⟩, ← hZ, zeroDst_thr a c act p z hz, ga]
    have hne : a.thr (c.key u) = s.thr (c.key u) := by
      rw [← hP]
      refine putLanes_thr_ne c _ s _ (fun e he => ?_)
      obtain ⟨v, hv, rfl⟩ := List.mem_map.mp he
      exact fun h => hu (key_inj h ▸ hv)
    rw [hne]
    simp [hmu, hu]
  · intro k hk
    rw [retire_thr, gb, if_neg (fun ⟨u, hu, he⟩ => hk u hu he), ← hZ, zeroDst_outside a c act p z k (by unfold Outside; rw [ga]; exact hk), ← hP]
    refine putLanes_thr_ne c _ s _ (fun e he => ?_)
    obtain ⟨v, hv, rfl⟩ := List.mem_map.mp he
    exact hk v (hm v hv)
  · intro n hn
    rw [pr, pb, ← hP]
    refine putLanes_pair_ne c _ s _ (fun e he => ?_)
    obtain ⟨v, hv, rfl⟩ := List.mem_map.mp he
    exact hn v hv

/-- Steps in order that all succeed: the attempts are all successful, and the state is the one after the last. -/
theorem seqTry_ok (c : Cur) (f : State → Nat → Try State) (ts : List Nat) (s s' : State) (h : inOrder c f ts s = some s') :
    AllOk (s.seqTry c ts f).1 ∧ (s.seqTry c ts f).2 = s' := by
  induction ts generalizing s with
  | nil => simp only [inOrder, Option.some.injEq] at h; subst h; exact ⟨fun e he => absurd he (by simp [State.seqTry]), rfl⟩
  | cons t ts ih =>
    unfold inOrder at h
    unfold State.seqTry
    split at h
    · rename_i s1 h1
      have hi := ih s1 h
      simp only [h1]
      refine ⟨fun e he => ?_, hi.2⟩
      rcases List.mem_cons.mp he with rfl | he
      · exact ⟨s1, rfl⟩
      · exact hi.1 e he
    · cases h

theorem seqSteps_ok (c : Cur) (f : State → Nat → Try State) (ts : List Nat) (s s' : State) (h : inOrder c f ts s = some s') :
    (s.seqSteps c ts f).2.1 = none ∧ (s.seqSteps c ts f).2.2 = s' := by
  induction ts generalizing s with
  | nil => simp only [inOrder, Option.some.injEq] at h; subst h; exact ⟨rfl, rfl⟩
  | cons t ts ih =>
    unfold inOrder at h
    unfold State.seqSteps
    split at h
    · rename_i s1 h1
      simp only [h1]
      exact ih s1 h
    · cases h

/-- An instruction of steps in order, all of which succeed. -/
theorem runSeq_ok {s s' : State} {c : Cur} {act : List Nat} {p : Pfx} {z : Thread → Thread} {f : State → Nat → Try State}
    (h : inOrder c f act s = some s') : s.runSeq c act p z f = .next ((s'.zeroDst c act p z).retire c) := by
  have h1 := seqTry_ok c f act s s' h
  unfold State.runSeq
  rw [← h1.2]
  exact settle_ok h1.1 _

/-- An instruction of R405 whose checks and steps all succeed. -/
theorem runSteps_ok {s s' : State} {c : Cur} {act : List Nat} {p : Pfx} {z : Thread → Thread} {check : Nat → Try Unit}
    {f : State → Nat → Try State} (hc : ∀ u ∈ act, check (c.key u) = .ok ()) (h : inOrder c f act s = some s') :
    s.runSteps c act p z check f = .next ((s'.zeroDst c act p z).retire c) := by
  obtain ⟨h1, h2⟩ := seqSteps_ok c f act s s' h
  have ha : AllOk (act.map (fun t => (t, check (c.key t)))) := allOk_map (f := fun t => check (c.key t)) (fun u hu => ⟨(), hc u hu⟩)
  unfold State.runSteps
  generalize hq : s.seqSteps c act f = q at h1 h2
  obtain ⟨d, x, s1⟩ := q
  subst h1 h2
  exact settle_ok ha _

/-- What follows the last step: the inactive destinations are cleared where the prefix says so, and the group moves on. -/
theorem commit_spec (s' : State) (c : Cur) (act : List Nat) (p : Pfx) (z : Thread → Thread) (hz : ∀ t, z (z t) = z t) :
    FramePairs s' ((s'.zeroDst c act p z).retire c) ∧ MovesOn s' ((s'.zeroDst c act p z).retire c) c ∧
      (∀ u ∈ (s'.grp c.gid).members, ((s'.zeroDst c act p z).retire c).thr (c.key u) = doneThread (s'.grp c.gid).priv
        (if p.zeroes = true ∧ u ∉ act then z (s'.thr (c.key u)) else s'.thr (c.key u))) ∧
      (∀ k, Outside s' c k → ((s'.zeroDst c act p z).retire c).thr k = s'.thr k) := by
  generalize hZ : s'.zeroDst c act p z = b
  have hb := zeroDst_eq s' c act p z
  rw [hZ] at hb
  have gb : ∀ g, b.grp g = s'.grp g := fun g => by rw [hb]; rfl
  have gg : b.groups = s'.groups := by rw [hb]
  have hr := retire_frame b c
  have hFrame : { b.retire c with threads := s'.threads, groups := s'.groups, splits := s'.splits } = s' := by
    unfold OnlyThreads at hr
    have h2 := congrArg (fun x : State => { x with threads := s'.threads, groups := s'.groups, splits := s'.splits }) hr
    simp only at h2
    refine h2.trans ?_
    rw [hb]
  refine ⟨⟨hFrame, fun l => ?_⟩, ?_, ?_, ?_⟩
  · exact readM_congr (by have h := congrArg State.mem hFrame; simpa using h) (by have h := congrArg State.teams hFrame; simpa using h) l
  · have h := retire_moves b c
    unfold MovesOn at *
    rw [gg, gb] at h
    exact h
  · intro u hu
    rw [retire_thr, gb, if_pos ⟨u, hu, rfl⟩, ← hZ, zeroDst_thr s' c act p z hz]
    simp [hu]
  · intro k hk
    rw [retire_thr, gb, if_neg (fun ⟨u, hu, he⟩ => hk u hu he), ← hZ, zeroDst_outside s' c act p z k hk]

end Sys2Proof.Machine
end

