-- ==== Sys2Proof/Laws/Memory.lean ====
section
/-! SUPPORT. Memory: every operation that writes a byte keeps the canonical form, and what is read after a write. -/

namespace Sys2Proof.Machine

/-- The addresses listed are above a bound. -/
def Above (k : Nat) (m : List Host.Cell) : Prop := ∀ c ∈ m, k < c.1

theorem sorted_cons {c : Host.Cell} {m : List Host.Cell} (h : Above c.1 m) (hs : Memory.sorted m = true) :
    Memory.sorted (c :: m) = true := by
  cases m with
  | nil => rfl
  | cons d t =>
    have hd : c.1 < d.1 := h d List.mem_cons_self
    simp [Memory.sorted, hd, hs]

theorem sorted_tail {c : Host.Cell} {m : List Host.Cell} (h : Memory.sorted (c :: m) = true) : Memory.sorted m = true := by
  cases m with
  | nil => rfl
  | cons d t => simp [Memory.sorted] at h; exact h.2

theorem sorted_above {c : Host.Cell} {m : List Host.Cell} (h : Memory.sorted (c :: m) = true) : Above c.1 m := by
  induction m generalizing c with
  | nil => intro d hd; cases hd
  | cons d t ih =>
    have h2 := h
    simp only [Memory.sorted, Bool.and_eq_true, decide_eq_true_eq] at h2
    intro e he
    rcases List.mem_cons.mp he with rfl | he
    · exact h2.1
    · exact Nat.lt_trans h2.1 (ih h2.2 e he)

theorem above_kput {k n : Nat} {m : List Host.Cell} {v : Byte} (h : Above k m) (hn : k < n) : Above k (kput m n v) := by
  induction m with
  | nil => intro c hc; simp only [kput, List.mem_singleton] at hc; subst hc; exact hn
  | cons d t ih =>
    intro c hc
    simp only [kput] at hc
    split at hc
    · rcases List.mem_cons.mp hc with rfl | hc
      · exact hn
      · exact h c (List.mem_cons_of_mem _ hc)
    · split at hc
      · rcases List.mem_cons.mp hc with rfl | hc
        · exact hn
        · exact h c hc
      · rcases List.mem_cons.mp hc with rfl | hc
        · exact h _ List.mem_cons_self
        · exact ih (fun x hx => h x (List.mem_cons_of_mem _ hx)) c hc

theorem sorted_kput {n : Nat} {m : List Host.Cell} {v : Byte} (h : Memory.sorted m = true) : Memory.sorted (kput m n v) = true := by
  induction m with
  | nil => rfl
  | cons d t ih =>
    have ha := sorted_above h
    simp only [kput]
    split
    · rename_i he
      exact sorted_cons (fun c hc => he ▸ ha c hc) (sorted_tail h)
    · split
      · rename_i hlt
        refine sorted_cons (fun c hc => ?_) h
        rcases List.mem_cons.mp hc with rfl | hc
        · exact hlt
        · exact Nat.lt_trans hlt (ha c hc)
      · rename_i hne hnl
        exact sorted_cons (above_kput ha (by simp only at hne hnl ⊢; omega)) (ih (sorted_tail h))

theorem sorted_kdel {n : Nat} {m : List Host.Cell} (h : Memory.sorted m = true) : Memory.sorted (kdel m n) = true := by
  induction m with
  | nil => rfl
  | cons d t ih =>
    unfold kdel at *
    simp only [List.filter_cons]
    split
    · exact sorted_cons (fun c hc => sorted_above h c (List.mem_filter.mp hc).1) (ih (sorted_tail h))
    · exact ih (sorted_tail h)

theorem mem_kput {n : Nat} {m : List Host.Cell} {v : Byte} {c : Host.Cell} (h : c ∈ kput m n v) : c = (n, v) ∨ c ∈ m := by
  induction m with
  | nil => simpa [kput] using h
  | cons d t ih =>
    simp only [kput] at h
    split at h
    · rcases List.mem_cons.mp h with h | h
      · exact .inl h
      · exact .inr (List.mem_cons_of_mem _ h)
    · split at h
      · rcases List.mem_cons.mp h with h | h
        · exact .inl h
        · exact .inr h
      · rcases List.mem_cons.mp h with h | h
        · exact .inr (h ▸ List.mem_cons_self)
        · rcases ih h with h | h
          · exact .inl h
          · exact .inr (List.mem_cons_of_mem _ h)

/-- Setting one byte keeps the canonical form. -/
theorem wf_kputD {n : Nat} {m : List Host.Cell} {v : Byte} (h : Memory.wf m = true) : Memory.wf (kputD m n 0 v) = true := by
  simp only [Memory.wf, Bool.and_eq_true, List.all_eq_true] at h ⊢
  unfold kputD
  split
  · exact ⟨sorted_kdel h.1, fun c hc => h.2 c (List.mem_filter.mp hc).1⟩
  · rename_i hv
    refine ⟨sorted_kput h.1, fun c hc => ?_⟩
    rcases mem_kput hc with rfl | hc
    · simpa using hv
    · exact h.2 c hc

/-- A write of one byte keeps the canonical form of memory. -/
theorem State.writeByte_wf {s : State} (l : Loc) (b : Byte) (by_ : Option Nat) (h : Memory.wf s.mem = true) :
    Memory.wf (s.writeByte l b by_).mem = true := by
  cases l
  · exact h
  · exact wf_kputD h
  · exact wf_kputD h

/-- So does a write of several bytes. -/
theorem State.writeBytes_wf {s : State} (l : Loc) (bs : List Byte) (by_ : Option Nat) (h : Memory.wf s.mem = true) :
    Memory.wf (s.writeBytes l bs by_).mem = true := by
  induction bs generalizing s l with
  | nil => exact h
  | cons b t ih => exact ih _ (State.writeByte_wf l b by_ h)

theorem State.dirtyNow_mem (s : State) (l : Loc) : (s.dirtyNow l).mem = s.mem := by
  unfold State.dirtyNow
  split
  · split <;> rfl
  · rfl

theorem State.dirtyL2_mem (s : State) (l : Loc) : (s.dirtyL2 l).mem = s.mem := by
  unfold State.dirtyL2
  split
  · split <;> rfl
  · rfl

/-- So does a write of a unit. -/
theorem State.unitWrite_wf {s : State} (l : Loc) (bs : List Byte) (tag : Option RelTag) (h : Memory.wf s.mem = true) :
    Memory.wf (s.unitWrite l bs tag).mem = true := by
  unfold State.unitWrite
  rw [State.dirtyNow_mem]
  exact State.writeBytes_wf l bs none h

/-- So does placing bytes before anything runs. -/
theorem State.poke_wf {s : State} (pa : Nat) (bs : List Byte) (h : Memory.wf s.mem = true) : Memory.wf (s.poke pa bs).mem = true := by
  unfold State.poke
  generalize (List.range bs.length).zip bs = l
  have : ∀ m : List Host.Cell, Memory.wf m = true → Memory.wf (l.foldl (fun m e => kputD m (pa + e.1) 0 e.2) m) = true := by
    induction l with
    | nil => exact fun _ h => h
    | cons e t ih => exact fun m h => ih _ (wf_kputD h)
  exact this _ h

/-- A byte of HBM reads as it was written, and every other byte as before. -/
theorem State.mByte_writeByte_hbm (s : State) (pa n : Nat) (b : Byte) (by_ : Option Nat) :
    (s.writeByte (.hbm pa) b by_).mByte n = if n = pa then b else s.mByte n := by
  split
  · rename_i h; subst h
    simp [State.mByte, State.writeByte]
  · rename_i h
    simp [State.mByte, State.writeByte, kgetD_kputD_ne _ _ _ _ _ h]

theorem State.mByte_writeByte_host (s : State) (pa n : Nat) (b : Byte) (by_ : Option Nat) :
    (s.writeByte (.host pa) b by_).mByte n = if n = pa then b else s.mByte n := by
  split
  · rename_i h; subst h
    simp [State.mByte, State.writeByte]
  · rename_i h
    simp [State.mByte, State.writeByte, kgetD_kputD_ne _ _ _ _ _ h]

end Sys2Proof.Machine
end

