-- ==== Sys2Proof/Laws/Moves.lean ====
section
/-! SUPPORT. Operations that move groups of threads about: they change threads, groups, split records and the next number, and nothing
else of the device. -/

namespace Sys2Proof.Machine

/-- Only threads, groups, split records and the next number differ. -/
def OnlyMoves (s t : State) : Prop :=
  { t with threads := s.threads, groups := s.groups, splits := s.splits, nextId := s.nextId } = s

theorem OnlyMoves.refl (s : State) : OnlyMoves s s := rfl

theorem OnlyMoves.trans {s t u : State} (h1 : OnlyMoves s t) (h2 : OnlyMoves t u) : OnlyMoves s u := by
  unfold OnlyMoves at *
  rw [← h1, ← h2]

theorem OnlyGroups.moves {s t : State} (h : OnlyGroups s t) : OnlyMoves s t := by
  unfold OnlyGroups at h; unfold OnlyMoves; rw [← h]

theorem OnlyMoves.pairs {s t : State} (h : OnlyMoves s t) : t.pairs = s.pairs := by rw [← h]
theorem OnlyMoves.mem {s t : State} (h : OnlyMoves s t) : t.mem = s.mem := by rw [← h]
theorem OnlyMoves.teams {s t : State} (h : OnlyMoves s t) : t.teams = s.teams := by rw [← h]
theorem OnlyMoves.team {s t : State} (h : OnlyMoves s t) (n : Nat) : t.team n = s.team n := by simp [State.team, h.teams]
theorem OnlyMoves.cores {s t : State} (h : OnlyMoves s t) : t.cores = s.cores := by rw [← h]
theorem OnlyMoves.core {s t : State} (h : OnlyMoves s t) (n : Nat) : t.core n = s.core n := by simp [State.core, h.cores]
theorem OnlyMoves.parts {s t : State} (h : OnlyMoves s t) : t.parts = s.parts := by rw [← h]
theorem OnlyMoves.tasks {s t : State} (h : OnlyMoves s t) : t.tasks = s.tasks := by rw [← h]
theorem OnlyMoves.agenda {s t : State} (h : OnlyMoves s t) : t.agenda = s.agenda := by rw [← h]
theorem OnlyMoves.clusters {s t : State} (h : OnlyMoves s t) : t.clusters = s.clusters := by rw [← h]
theorem OnlyMoves.readM {s t : State} (h : OnlyMoves s t) (l : Loc) : t.readM l = s.readM l := readM_congr h.mem h.teams l

theorem foldl_moves {α : Type} (f : State → α → State) (hf : ∀ s a, OnlyMoves s (f s a)) (l : List α) (s : State) :
    OnlyMoves s (l.foldl f s) := by
  induction l generalizing s with
  | nil => exact .refl s
  | cons a t ih => exact (hf s a).trans (ih (f s a))

theorem modThr_moves (s : State) (k : Nat) (f : Thread → Thread) : OnlyMoves s (s.modThr k f) := rfl
theorem modGrp_moves (s : State) (g : Nat) (f : Group → Group) : OnlyMoves s (s.modGrp g f) := rfl
theorem splits_moves (s : State) (m : KMap Split) : OnlyMoves s { s with splits := m } := rfl
theorem newGroup_moves (s : State) (g : Group) : OnlyMoves s (s.newGroup g) := rfl
theorem modSince_moves (s : State) (tm : Nat) (p : Nat → Bool) (f : Timer → Timer) : OnlyMoves s (s.modSince tm p f) := rfl

theorem pushSplit_moves (s : State) (st ms : List Nat) (rcv : Option DWord) : OnlyMoves s (s.pushSplit st ms rcv).2 := by
  unfold State.pushSplit
  split
  · exact .refl s
  · simp only; split <;> rfl

theorem splitTo_moves (s : State) (gid : Nat) (dest : Nat → Dest) (rcv : Option DWord) : OnlyMoves s (s.splitTo gid dest rcv) := by
  unfold State.splitTo
  simp only
  split
  · exact .refl s
  · rfl
  · exact ((pushSplit_moves s (s.grp gid).stack (s.grp gid).members rcv).trans (modGrp_moves _ gid _)).trans
      (foldl_moves _ (fun s e => newGroup_moves s _) _ _)

theorem takeOut_moves (s : State) (gid : Nat) (ts : List Nat) : OnlyMoves s (s.takeOut gid ts) := by
  unfold State.takeOut; simp only; split <;> rfl

theorem moveThread_moves (s : State) (k slot lane : Nat) (h : DWord) : OnlyMoves s (s.moveThread k slot lane h) := by
  unfold State.moveThread; simp only; split <;> rfl

theorem displace_moves (s : State) (m : List ((Nat × Nat) × Nat)) (tm t slot lane : Nat) : OnlyMoves s (s.displace m tm t slot lane).2 := by
  unfold State.displace; simp only
  split
  · exact moveThread_moves _ _ _ _ _
  · split
    · exact (moveThread_moves _ _ _ _ _).trans (modGrp_only _ _ _).moves
    · split
      · exact ((moveThread_moves _ _ _ _ _).trans (takeOut_moves _ _ _)).trans (modGrp_only _ _ _).moves
      · exact ((moveThread_moves _ _ _ _ _).trans (takeOut_moves _ _ _)).trans (newGroup_moves _ _)

theorem delayMoved_moves (s : State) (tm : Nat) (ts : List Nat) : OnlyMoves s (s.delayMoved tm ts) :=
  foldl_moves _ (fun _ _ => modGrp_moves _ _ _) _ _

theorem drawThreads_moves (s : State) (tm : Nat) (key : DWord) (priv : Bool) (ts : List Nat) : OnlyMoves s (s.drawThreads tm key priv ts) := by
  unfold State.drawThreads
  simp only
  refine OnlyMoves.trans (OnlyMoves.trans ?_ (foldl_moves _ (fun s e => moveThread_moves s _ _ _ _) _ _)) (newGroup_moves _ _)
  suffices H : ∀ (l : List (Nat × Nat × Nat)) (m : List ((Nat × Nat) × Nat) × State), OnlyMoves m.2 (l.foldl (fun x e => x.2.displace x.1 tm e.1 e.2.1 e.2.2) m).2 from
    (H _ ([], s)).trans (delayMoved_moves _ _ _)
  intro l
  induction l with
  | nil => exact fun m => .refl _
  | cons a l ih => exact fun m => (displace_moves _ _ _ _ _ _).trans (ih _)

theorem checkSplit_moves (s : State) (sid : Nat) : OnlyMoves s (s.checkSplit sid) := (checkSplit_only s sid).moves

theorem arriveAll_only (s : State) (tm : Nat) (sd : Side) : OnlyGroups s (s.arriveAll tm sd) := by
  unfold State.arriveAll; exact foldl_only _ (fun s k => arriveHdr_only _ _ _) _ _

theorem leaveRecords_moves (s : State) (tm : Nat) (sd : Side) (stack ts : List Nat) : OnlyMoves s (s.leaveRecords tm sd stack ts) := by
  unfold State.leaveRecords
  refine OnlyMoves.trans (foldl_moves _ (fun s sid => ?_) _ _) (arriveAll_only _ _ _).moves
  exact (splits_moves s _).trans (checkSplit_moves _ _)

theorem retire_moves_only (s : State) (c : Cur) : OnlyMoves s (s.retire c) := by
  unfold State.retire
  refine OnlyMoves.trans ?_ (arriveHdr_only _ _ _).moves
  rw [completed_eq]; rfl

theorem commitArrive_moves (s : State) (gid : Nat) (dest : Nat → Dest) (rcv : Option DWord) (n : Nat) :
    OnlyMoves s ((s.splitTo gid dest rcv).arriveHdr gid n) := (splitTo_moves _ _ _ _).trans (arriveHdr_only _ _ _).moves

/-- A split record that is gone stays gone while groups arrive. -/
theorem unite_splits (s : State) (gs : List Nat) : (s.unite gs).splits = s.splits := by
  unfold State.unite
  simp only
  generalize distinct (gs.map (fun k => ((s.grp k).slot, (s.grp k).priv, (s.grp k).saved))) = sl
  suffices H : ∀ (sl : List (Nat × Bool × Bool)) (u : State), u.splits = s.splits →
      (sl.foldl (fun v x => match gs.filter (fun k => ((v.grp k).slot, (v.grp k).priv, (v.grp k).saved) == x && (kget v.groups k).isSome) with
        | [] => v
        | a :: rest => rest.foldl (fun s b => s.uniteTwo a b) v) u).splits = s.splits from H _ _ rfl
  intro sl
  induction sl with
  | nil => exact fun u h => h
  | cons a t ih =>
    intro u h
    apply ih
    simp only
    split
    · exact h
    · rename_i a rest _
      have : ∀ (l : List Nat) (v : State), (l.foldl (fun s b => s.uniteTwo a b) v).splits = v.splits := by
        intro l
        induction l with
        | nil => exact fun _ => rfl
        | cons b l ih => exact fun v => (ih _).trans rfl
      rw [this]; exact h

theorem dropSplit_gone (s : State) (sid n : Nat) (h : kget s.splits n = none) : kget (s.dropSplit sid).splits n = none := by
  show kget (kdel s.splits sid) n = none
  by_cases e : n = sid
  · subst e; exact kget_kdel_same _ _
  · rw [kget_kdel_ne _ _ _ e]; exact h

theorem checkSplit_gone (s : State) (sid n : Nat) (h : kget s.splits n = none) : kget (s.checkSplit sid).splits n = none := by
  unfold State.checkSplit
  split
  · exact h
  · simp only
    split
    · exact dropSplit_gone _ _ _ (by rw [unite_splits]; exact h)
    · exact h

theorem arriveHdr_gone (k n : Nat) : ∀ (s : State) (gid : Nat), kget s.splits n = none → kget (s.arriveHdr gid k).splits n = none := by
  induction k with
  | zero => exact fun _ _ h => h
  | succ k ih =>
    intro s gid h
    unfold State.arriveHdr
    simp only
    split
    · exact h
    · split
      · exact h
      · rename_i sid _ _
        have h2 : kget ({ s with splits := kmod s.splits sid (fun r => { r with first := some (r.first.getD s.cycle) }) } : State).splits n = none := by
          show kget (kmod s.splits sid _) n = none
          by_cases e : n = sid
          · subst e; rw [kget_kmod_same, h]; rfl
          · rw [kget_kmod_ne _ _ _ _ e]; exact h
        have h3 := checkSplit_gone _ sid n h2
        split
        · exact h3
        · generalize hu : State.checkSplit _ sid = u at h3 ⊢
          generalize List.filter _ _ = l
          clear hu h2
          induction l generalizing u with
          | nil => exact h3
          | cons a l ih2 => exact ih2 _ (ih _ _ h3)

theorem arriveAll_gone (s : State) (tm : Nat) (sd : Side) (n : Nat) (h : kget s.splits n = none) :
    kget (s.arriveAll tm sd).splits n = none := by
  unfold State.arriveAll
  generalize List.filter _ _ = l
  induction l generalizing s with
  | nil => exact h
  | cons a l ih => exact ih _ (arriveHdr_gone _ _ _ _ h)

end Sys2Proof.Machine
end

