-- ==== Sys2Proof/Laws/PerInstr.lean ====
section
/-! SUPPORT. For every instruction, decoding its fields: the fields of a well-formed instruction of any constructor decode to that
instruction, and Table 2-13 assigns their opcode. -/

namespace Sys2Proof.Laws.Fields

open Sys2Proof

set_option Elab.async false

/-- The fields of a well-formed instruction decode to it. -/
def Statement (i : Instr) : Prop :=
  ∀ r, toRaw i = some r → i.wf = true → assigned r.m.toNat r.f.toNat = true ∧ ofRaw r = .ok i

theorem srcOf_small (w : Nat) (f : BitVec w → Src) (g : BitVec w → BitVec 8) (h : ∀ n, srcOf (g n) none = some (f n)) (n : BitVec w)
    (im : Option (BitVec 24)) (hn : (g n).toNat ≠ 0xFF) : srcOf (g n) im = some (f n) := by
  rw [← h n]
  unfold srcOf
  simp only [hn, if_false]

/-- A source operand that is no IMX value is read from its code. -/
theorem srcOf_code (a : Src) (im : Option (BitVec 24)) (h : a.noImx = true) : srcOf a.code im = some a := by
  cases a with
  | reg n => exact srcOf_small 7 .reg (fun n => 0#1 ++ n) (by decide) n im (by revert n; decide)
  | sreg n => exact srcOf_small 5 .sreg (fun n => 4#3 ++ n) (by decide) n im (by revert n; decide)
  | pop n => exact srcOf_small 4 .pop (fun n => 0xA#4 ++ n) (by decide) n im (by revert n; decide)
  | peek n => exact srcOf_small 4 .peek (fun n => 0xB#4 ++ n) (by decide) n im (by revert n; decide)
  | imm n => exact srcOf_small 5 .imm (fun n => 6#3 ++ n) (by decide) n im (by revert n; decide)
  | tr n => exact srcOf_small 4 .tr (fun n => 0xE#4 ++ n) (by decide) n im (by revert n; decide)
  | imx v => cases h
  | _ => rfl

/-- An operand B is read from its code and its IMX prefix. -/
theorem srcOf_imm24 (b : Src) : srcOf b.code b.imm24 = some b := by
  cases b with
  | imx v => rfl
  | _ => exact srcOf_code _ _ rfl

/-- A prefix stands only where B has the code that reads it. -/
theorem imm24_code (b : Src) : (b.imm24.isNone || b.code == 0xFF#8) = true := by cases b <;> rfl

theorem off_bytes (x : BitVec 16) : x.extractLsb' 8 8 ++ x.extractLsb' 0 8 = x := by
  apply BitVec.eq_of_getLsbD_eq
  intro i hi
  simp only [BitVec.getLsbD_append, BitVec.getLsbD_extractLsb']
  split
  · simp [*]
  · have : i - 8 < 8 := by omega
    simp [this, show 8 + (i - 8) = i by omega]

theorem hi1_7 : ∀ x : BitVec 7, (0#1 ++ x : BitVec 8).extractLsb' 0 7 = x ∧ (0#1 ++ x : BitVec 8).getLsbD 7 = false := by decide
theorem hi2_6 : ∀ x : BitVec 6, (0#2 ++ x : BitVec 8).extractLsb' 0 6 = x ∧ (0#2 ++ x : BitVec 8).extractLsb' 6 2 = 0#2 := by decide
theorem hi4_4 : ∀ x : BitVec 4, (0#4 ++ x : BitVec 8).extractLsb' 0 4 = x ∧ (0#4 ++ x : BitVec 8).extractLsb' 4 4 = 0#4 ∧
    (0#4 ++ x : BitVec 8).extractLsb' 5 3 = 0#3 ∧ (0#4 ++ x : BitVec 8).getLsbD 4 = false ∧
    (1#4 ++ x : BitVec 8).extractLsb' 0 4 = x ∧ (1#4 ++ x : BitVec 8).extractLsb' 5 3 = 0#3 ∧ (1#4 ++ x : BitVec 8).getLsbD 4 = true := by decide
theorem hi5_3 : ∀ x : BitVec 3, (0#5 ++ x : BitVec 8).extractLsb' 0 3 = x ∧ (0#5 ++ x : BitVec 8).extractLsb' 3 5 = 0#5 := by decide
theorem hi6_2 : ∀ x : BitVec 2, (0#6 ++ x : BitVec 8).extractLsb' 0 2 = x ∧ (0#6 ++ x : BitVec 8).extractLsb' 2 6 = 0#6 := by decide
theorem redBits : ∀ x : BitVec 2, (0#4 ++ x ++ 0#2 : BitVec 8).extractLsb' 0 2 = 0#2 ∧ (0#4 ++ x ++ 0#2 : BitVec 8).extractLsb' 4 4 = 0#4 ∧
    (0#4 ++ x ++ 0#2 : BitVec 8).extractLsb' 2 2 = x := by decide
theorem scanBits : ∀ (e : Bool) (x y : BitVec 2), (0#3 ++ BitVec.ofBool e ++ x ++ y : BitVec 8).extractLsb' 0 2 = y ∧
    (0#3 ++ BitVec.ofBool e ++ x ++ y : BitVec 8).extractLsb' 5 3 = 0#3 ∧ (0#3 ++ BitVec.ofBool e ++ x ++ y : BitVec 8).extractLsb' 2 2 = x ∧
    (0#3 ++ BitVec.ofBool e ++ x ++ y : BitVec 8).getLsbD 4 = e := by decide
theorem atomBits : ∀ (w : Bool) (o : BitVec 1) (x : BitVec 5), (BitVec.ofBool w ++ o ++ x : BitVec 7).extractLsb' 0 5 = x ∧
    (BitVec.ofBool w ++ o ++ x : BitVec 7).getLsbD 5 = o.getLsbD 0 ∧ (BitVec.ofBool w ++ o ++ x : BitVec 7).getLsbD 6 = w := by decide
theorem readBits : ∀ (i h : Bool) (t : BitVec 3), (0#3 ++ BitVec.ofBool i ++ BitVec.ofBool h ++ t : BitVec 8).extractLsb' 0 3 = t ∧
    (0#3 ++ BitVec.ofBool i ++ BitVec.ofBool h ++ t : BitVec 8).extractLsb' 6 2 = 0#2 ∧
    (0#3 ++ BitVec.ofBool i ++ BitVec.ofBool h ++ t : BitVec 8).getLsbD 5 = false ∧
    (0#3 ++ BitVec.ofBool i ++ BitVec.ofBool h ++ t : BitVec 8).getLsbD 4 = i ∧
    (0#3 ++ BitVec.ofBool i ++ BitVec.ofBool h ++ t : BitVec 8).getLsbD 3 = h := by decide
theorem stateBits : ∀ (i : Bool) (t : BitVec 3), (1#3 ++ BitVec.ofBool i ++ 0#1 ++ t : BitVec 8).extractLsb' 0 3 = t ∧
    (1#3 ++ BitVec.ofBool i ++ 0#1 ++ t : BitVec 8).extractLsb' 6 2 = 0#2 ∧ (1#3 ++ BitVec.ofBool i ++ 0#1 ++ t : BitVec 8).getLsbD 5 = true ∧
    (1#3 ++ BitVec.ofBool i ++ 0#1 ++ t : BitVec 8).getLsbD 4 = i ∧ (1#3 ++ BitVec.ofBool i ++ 0#1 ++ t : BitVec 8).getLsbD 3 = false := by decide
theorem mmaD : ∀ (b k : BitVec 2) (a : BitVec 3), (b ++ k ++ a : BitVec 7).extractLsb' 5 2 = b ∧ (b ++ k ++ a : BitVec 7).extractLsb' 3 2 = k ∧
    (b ++ k ++ a : BitVec 7).extractLsb' 0 3 = a := by decide
theorem mmaA : ∀ (x : BitVec 2) (t : BitVec 6), (x ++ t : BitVec 8).extractLsb' 6 2 = x ∧ (x ++ t : BitVec 8).extractLsb' 0 6 = t := by decide
theorem mmaB : ∀ (g h : Bool) (c : BitVec 3), (0#3 ++ BitVec.ofBool g ++ BitVec.ofBool h ++ c : BitVec 8).extractLsb' 5 3 = 0#3 := by decide
theorem third (x y z : BitVec 8) : (x ++ y ++ z : BitVec 24).extractLsb' 16 8 = x ∧ (x ++ y ++ z : BitVec 24).extractLsb' 8 8 = y ∧
    (x ++ y ++ z : BitVec 24).extractLsb' 0 8 = z := by
  refine ⟨?_, ?_, ?_⟩ <;> apply BitVec.eq_of_getLsbD_eq <;> intro i hi <;>
    simp only [BitVec.getLsbD_append, BitVec.getLsbD_extractLsb', hi, decide_true, Bool.true_and]
  · simp [show ¬ 16 + i < 8 by omega, show ¬ 16 + i - 8 < 8 by omega, show 16 + i - 8 - 8 = i by omega]
  · simp [show ¬ 8 + i < 8 by omega, show 8 + i - 8 = i by omega, hi]
  · simp [hi]
theorem mmaBits : ∀ (g h : Bool) (c : BitVec 3), (0#3 ++ BitVec.ofBool g ++ BitVec.ofBool h ++ c : BitVec 8).getLsbD 4 = g ∧
    (0#3 ++ BitVec.ofBool g ++ BitVec.ofBool h ++ c : BitVec 8).getLsbD 3 = h ∧
    (0#3 ++ BitVec.ofBool g ++ BitVec.ofBool h ++ c : BitVec 8).extractLsb' 0 3 = c := by decide

theorem pfx_none {p : Pfx} {k : VxKind} {mk : MxaKind} (m : BitVec 6) (f : BitVec 3) (d : BitVec 7) (a b : BitVec 8) (im : Bool)
    (h : p.ok k mk = true) : (mkRaw p none m f d a b).pfx k im mk = some p := by
  simp [Raw.pfx, mkRaw, h]

theorem pfx_imx {p : Pfx} {k : VxKind} {mk : MxaKind} (m : BitVec 6) (f : BitVec 3) (d : BitVec 7) (a : BitVec 8) (b : Src)
    (h : p.ok k mk = true) : (mkRaw p b.imm24 m f d a b.code).pfx k true mk = some p := by
  have := imm24_code b
  simp only [Raw.pfx, mkRaw, h]
  simp_all

theorem pfx_bare (k : VxKind) : Pfx.ok k .none { vx := none, mxa := none } = true := rfl

/-- Accepted prefixes go on. -/
theorem with_ok {r : Raw} {k : VxKind} {im : Bool} {mk : MxaKind} {p : Pfx} (h : r.pfx k im mk = some p) (go : Pfx → Except DecErr Instr) :
    r.with k im mk go = go p := by
  simp only [Raw.with, h]

/-- A well-formed instruction of M 12 has no C. -/
theorem withC_ok (p : Pfx) (im : Option (BitVec 24)) (f : BitVec 3) (d : BitVec 7) (a : BitVec 8) {b : BitVec 8} (hb : (im.isNone || b == 0xFF#8) = true)
    (h : p.ok .gz .none = true) (go : Pfx → Except DecErr Instr) : (mkRaw p im 12 f d a b).withC go = go p := by
  have hc : (mkRaw p im 12 f d a b).c = 0 := by
    rcases p with ⟨_ | v, mxa⟩
    · rfl
    · have h1 := ((Bool.and_eq_true _ _).mp h).1
      exact eq_of_beq ((Bool.and_eq_true _ _).mp h1).2
  have hp : (mkRaw p im 12 f d a b).pfx .gzc true .none = some p := by
    have hk : p.ok .gzc .none = true := by
      rcases p with ⟨_ | v, mxa⟩
      · exact h
      · have h1 := ((Bool.and_eq_true _ _).mp h)
        exact (Bool.and_eq_true _ _).mpr ⟨((Bool.and_eq_true _ _).mp h1.1).1, h1.2⟩
    show (if (p.ok .gzc .none && (im.isNone || (true && b == 0xFF#8))) = true then some p else none) = some p
    rw [hk, Bool.true_and, Bool.true_and, hb, if_pos rfl]
  simp only [Raw.withC, with_ok hp, hc, beq_self_eq_true, if_true]

/-- No bad field of a special register's number: nothing to refuse. -/
theorem srField_ok (e : Bool) (i : Instr) : srField e (.ok i) = .ok i := rfl

theorem withSrc_ok {s : SideReq} {pv : Bool} {c : BitVec 8} {im : Option (BitVec 24)} {v : Src} (h : srcOf c im = some v)
    (go : Src → Except DecErr Instr) : withSrc s pv c im go = go v := by
  simp only [withSrc, h]

theorem withPair_ok {b : Src} (h : b.pairImx = true) (go : Src → Except DecErr Instr) : withPair b.code b.imm24 go = go b := by
  simp only [withPair, withSrc, srcOf_imm24, h, if_true]

theorem br (off : BitVec 16) : Statement (.br off) := by
  intro r hr hw
  obtain rfl : mkRaw { vx := none, mxa := none } none 0 0 0 (off.extractLsb' 8 8) (off.extractLsb' 0 8) = r := Option.some.inj hr
  refine ⟨rfl, ?_⟩
  show (fun r : Raw => r.with .no false .none fun _ => check .both false r.dz (.br (r.a ++ r.b))) (mkRaw { vx := none, mxa := none } none 0 0 0 (off.extractLsb' 8 8) (off.extractLsb' 0 8)) = _
  refine (with_ok (pfx_none _ _ _ _ _ _ (pfx_bare _)) _).trans ?_
  simp [check, mkRaw, Raw.dz, off_bytes]

theorem brp (pr : BitVec 7) (off : BitVec 16) : Statement (.brp pr off) := by
  intro r hr hw
  obtain rfl : mkRaw { vx := none, mxa := none } none 0 1 pr (off.extractLsb' 8 8) (off.extractLsb' 0 8) = r := Option.some.inj hr
  refine ⟨rfl, ?_⟩
  show (fun r : Raw => r.with .no false .none fun _ => .ok (.brp r.d (r.a ++ r.b))) (mkRaw { vx := none, mxa := none } none 0 1 pr (off.extractLsb' 8 8) (off.extractLsb' 0 8)) = _
  refine (with_ok (pfx_none _ _ _ _ _ _ (pfx_bare _)) _).trans ?_
  simp [mkRaw, off_bytes]

theorem brpNot (pr : BitVec 7) (off : BitVec 16) : Statement (.brpNot pr off) := by
  intro r hr hw
  obtain rfl : mkRaw { vx := none, mxa := none } none 0 2 pr (off.extractLsb' 8 8) (off.extractLsb' 0 8) = r := Option.some.inj hr
  refine ⟨rfl, ?_⟩
  show (fun r : Raw => r.with .no false .none fun _ => .ok (.brpNot r.d (r.a ++ r.b))) (mkRaw { vx := none, mxa := none } none 0 2 pr (off.extractLsb' 8 8) (off.extractLsb' 0 8)) = _
  refine (with_ok (pfx_none _ _ _ _ _ _ (pfx_bare _)) _).trans ?_
  simp [mkRaw, off_bytes]

theorem call (off : BitVec 16) : Statement (.call off) := by
  intro r hr hw
  obtain rfl : mkRaw { vx := none, mxa := none } none 0 3 0 (off.extractLsb' 8 8) (off.extractLsb' 0 8) = r := Option.some.inj hr
  refine ⟨rfl, ?_⟩
  show (fun r : Raw => r.with .no false .none fun _ => check .both false r.dz (.call (r.a ++ r.b))) (mkRaw { vx := none, mxa := none } none 0 3 0 (off.extractLsb' 8 8) (off.extractLsb' 0 8)) = _
  refine (with_ok (pfx_none _ _ _ _ _ _ (pfx_bare _)) _).trans ?_
  simp [check, mkRaw, Raw.dz, off_bytes]

theorem ret : Statement (.ret) := by
  intro r hr hw
  obtain rfl : mkRaw { vx := none, mxa := none } none 1 0 0 0 0 = r := Option.some.inj hr
  refine ⟨rfl, ?_⟩
  show (fun r : Raw => r.with .no false .none fun _ => check .both false (r.dz && r.az && r.bz) .ret) (mkRaw { vx := none, mxa := none } none 1 0 0 0 0) = _
  refine (with_ok (pfx_none _ _ _ _ _ _ (pfx_bare _)) _).trans ?_
  rfl

theorem brx (a : Src) : Statement (.brx a) := by
  intro r hr hw
  obtain rfl : mkRaw { vx := none, mxa := none } none 1 1 0 a.code 0 = r := Option.some.inj hr
  simp only [Instr.wf] at hw
  refine ⟨rfl, ?_⟩
  show (fun r : Raw => r.with .no false .none fun _ => withSrc .both false r.a none fun a => check .both false (r.dz && r.bz) (.brx a)) (mkRaw { vx := none, mxa := none } none 1 1 0 a.code 0) = _
  refine (with_ok (pfx_none _ _ _ _ _ _ (pfx_bare _)) _).trans ?_
  refine (withSrc_ok (srcOf_code _ _ (hw)) _).trans ?_
  rfl

theorem exit : Statement (.exit) := by
  intro r hr hw
  obtain rfl : mkRaw { vx := none, mxa := none } none 1 2 0 0 0 = r := Option.some.inj hr
  refine ⟨rfl, ?_⟩
  show (fun r : Raw => r.with .no false .none fun _ => check .both false (r.dz && r.az && r.bz) .exit) (mkRaw { vx := none, mxa := none } none 1 2 0 0 0) = _
  refine (with_ok (pfx_none _ _ _ _ _ _ (pfx_bare _)) _).trans ?_
  rfl

theorem nop : Statement (.nop) := by
  intro r hr hw
  obtain rfl : mkRaw { vx := none, mxa := none } none 1 3 0 0 0 = r := Option.some.inj hr
  refine ⟨rfl, ?_⟩
  show (fun r : Raw => r.with .no false .none fun _ => check .both false (r.dz && r.az && r.bz) .nop) (mkRaw { vx := none, mxa := none } none 1 3 0 0 0) = _
  refine (with_ok (pfx_none _ _ _ _ _ _ (pfx_bare _)) _).trans ?_
  rfl

theorem yield : Statement (.yield) := by
  intro r hr hw
  obtain rfl : mkRaw { vx := none, mxa := none } none 1 4 0 0 0 = r := Option.some.inj hr
  refine ⟨rfl, ?_⟩
  show (fun r : Raw => r.with .no false .none fun _ => check .both false (r.dz && r.az && r.bz) .yield) (mkRaw { vx := none, mxa := none } none 1 4 0 0 0) = _
  refine (with_ok (pfx_none _ _ _ _ _ _ (pfx_bare _)) _).trans ?_
  rfl

theorem brk : Statement (.brk) := by
  intro r hr hw
  obtain rfl : mkRaw { vx := none, mxa := none } none 1 5 0 0 0 = r := Option.some.inj hr
  refine ⟨rfl, ?_⟩
  show (fun r : Raw => r.with .no false .none fun _ => check .both false (r.dz && r.az && r.bz) .brk) (mkRaw { vx := none, mxa := none } none 1 5 0 0 0) = _
  refine (with_ok (pfx_none _ _ _ _ _ _ (pfx_bare _)) _).trans ?_
  rfl

theorem trap (n : BitVec 3) : Statement (.trap n) := by
  intro r hr hw
  obtain rfl : mkRaw { vx := none, mxa := none } none 1 6 0 0 (0#5 ++ n) = r := Option.some.inj hr
  refine ⟨rfl, ?_⟩
  show (fun r : Raw => r.with .no false .none fun _ => check .both false (r.dz && r.az && r.b.extractLsb' 3 5 == 0) (.trap (r.b.extractLsb' 0 3))) (mkRaw { vx := none, mxa := none } none 1 6 0 0 (0#5 ++ n)) = _
  refine (with_ok (pfx_none _ _ _ _ _ _ (pfx_bare _)) _).trans ?_
  simp [check, mkRaw, Raw.dz, Raw.az, hi5_3, -BitVec.getLsbD_eq_getElem]

theorem rfhRetry (p : Pfx) : Statement (.rfhRetry p) := by
  intro r hr hw
  obtain rfl : mkRaw p none 1 7 0 0 0 = r := Option.some.inj hr
  simp only [Instr.wf] at hw
  refine ⟨rfl, ?_⟩
  show (fun r : Raw => r.with .g false .none fun p => check .both true (r.dz && r.bz && decide (r.a.toNat < 3)) (if r.a == 0 then .rfhRetry p else if r.a == 1 then .rfhSkip p else .rfhEnd p)) (mkRaw p none 1 7 0 0 0) = _
  refine (with_ok (pfx_none _ _ _ _ _ _ (hw)) _).trans ?_
  rfl

theorem rfhSkip (p : Pfx) : Statement (.rfhSkip p) := by
  intro r hr hw
  obtain rfl : mkRaw p none 1 7 0 1 0 = r := Option.some.inj hr
  simp only [Instr.wf] at hw
  refine ⟨rfl, ?_⟩
  show (fun r : Raw => r.with .g false .none fun p => check .both true (r.dz && r.bz && decide (r.a.toNat < 3)) (if r.a == 0 then .rfhRetry p else if r.a == 1 then .rfhSkip p else .rfhEnd p)) (mkRaw p none 1 7 0 1 0) = _
  refine (with_ok (pfx_none _ _ _ _ _ _ (hw)) _).trans ?_
  rfl

theorem rfhEnd (p : Pfx) : Statement (.rfhEnd p) := by
  intro r hr hw
  obtain rfl : mkRaw p none 1 7 0 2 0 = r := Option.some.inj hr
  simp only [Instr.wf] at hw
  refine ⟨rfl, ?_⟩
  show (fun r : Raw => r.with .g false .none fun p => check .both true (r.dz && r.bz && decide (r.a.toNat < 3)) (if r.a == 0 then .rfhRetry p else if r.a == 1 then .rfhSkip p else .rfhEnd p)) (mkRaw p none 1 7 0 2 0) = _
  refine (with_ok (pfx_none _ _ _ _ _ _ (hw)) _).trans ?_
  rfl

theorem enrol (p : Pfx) (j : BitVec 4) : Statement (.enrol p j) := by
  intro r hr hw
  obtain rfl : mkRaw p none 2 0 0 (0#4 ++ j) 0 = r := Option.some.inj hr
  simp only [Instr.wf] at hw
  refine ⟨rfl, ?_⟩
  show (fun r : Raw => r.with .g false .none fun p => check .eOnly false (r.dz && r.bz && r.a.extractLsb' 4 4 == 0) (.enrol p (r.a.extractLsb' 0 4))) (mkRaw p none 2 0 0 (0#4 ++ j) 0) = _
  refine (with_ok (pfx_none _ _ _ _ _ _ (hw)) _).trans ?_
  simp [check, mkRaw, Raw.dz, Raw.bz, hi4_4, -BitVec.getLsbD_eq_getElem]

theorem join (p : Pfx) (j : BitVec 4) : Statement (.join p j) := by
  intro r hr hw
  obtain rfl : mkRaw p none 2 1 0 (0#4 ++ j) 0 = r := Option.some.inj hr
  simp only [Instr.wf] at hw
  refine ⟨rfl, ?_⟩
  show (fun r : Raw => r.with .g false .none fun p => check .eOnly false (r.dz && r.bz && r.a.extractLsb' 4 4 == 0) (.join p (r.a.extractLsb' 0 4))) (mkRaw p none 2 1 0 (0#4 ++ j) 0) = _
  refine (with_ok (pfx_none _ _ _ _ _ _ (hw)) _).trans ?_
  simp [check, mkRaw, Raw.dz, Raw.bz, hi4_4, -BitVec.getLsbD_eq_getElem]

theorem strike (p : Pfx) (j : BitVec 4) : Statement (.strike p j) := by
  intro r hr hw
  obtain rfl : mkRaw p none 2 2 0 (0#4 ++ j) 0 = r := Option.some.inj hr
  simp only [Instr.wf] at hw
  refine ⟨rfl, ?_⟩
  show (fun r : Raw => r.with .g false .none fun p => check .eOnly false (r.dz && r.bz && r.a.extractLsb' 4 4 == 0) (.strike p (r.a.extractLsb' 0 4))) (mkRaw p none 2 2 0 (0#4 ++ j) 0) = _
  refine (with_ok (pfx_none _ _ _ _ _ _ (hw)) _).trans ?_
  simp [check, mkRaw, Raw.dz, Raw.bz, hi4_4, -BitVec.getLsbD_eq_getElem]

theorem reform (p : Pfx) : Statement (.reform p) := by
  intro r hr hw
  obtain rfl : mkRaw p none 2 3 0 0 0 = r := Option.some.inj hr
  simp only [Instr.wf] at hw
  refine ⟨rfl, ?_⟩
  show (fun r : Raw => r.with .g false .none fun p => check .eOnly false (r.dz && r.az && r.bz) (.reform p)) (mkRaw p none 2 3 0 0 0) = _
  refine (with_ok (pfx_none _ _ _ _ _ _ (hw)) _).trans ?_
  rfl

theorem jmask (p : Pfx) (d : BitVec 7) (j : BitVec 4) (b : Src) : Statement (.jmask p d j b) := by
  intro r hr hw
  obtain rfl : mkRaw p b.imm24 2 4 d (0#4 ++ j) b.code = r := Option.some.inj hr
  simp only [Instr.wf] at hw
  refine ⟨rfl, ?_⟩
  show (fun r : Raw => r.with .gz true .none fun p => withSrc .eOnly false r.b r.imx fun b => check .eOnly false (r.a.extractLsb' 5 3 == 0) (if r.a.getLsbD 4 then .jmaskArr p r.d (r.a.extractLsb' 0 4) b else .jmask p r.d (r.a.extractLsb' 0 4) b)) (mkRaw p b.imm24 2 4 d (0#4 ++ j) b.code) = _
  refine (with_ok (pfx_imx _ _ _ _ _ (hw)) _).trans ?_
  refine (withSrc_ok (srcOf_imm24 _) _).trans ?_
  simp [check, mkRaw, hi4_4, -BitVec.getLsbD_eq_getElem]

theorem jmaskArr (p : Pfx) (d : BitVec 7) (j : BitVec 4) (b : Src) : Statement (.jmaskArr p d j b) := by
  intro r hr hw
  obtain rfl : mkRaw p b.imm24 2 4 d (1#4 ++ j) b.code = r := Option.some.inj hr
  simp only [Instr.wf] at hw
  refine ⟨rfl, ?_⟩
  show (fun r : Raw => r.with .gz true .none fun p => withSrc .eOnly false r.b r.imx fun b => check .eOnly false (r.a.extractLsb' 5 3 == 0) (if r.a.getLsbD 4 then .jmaskArr p r.d (r.a.extractLsb' 0 4) b else .jmask p r.d (r.a.extractLsb' 0 4) b)) (mkRaw p b.imm24 2 4 d (1#4 ++ j) b.code) = _
  refine (with_ok (pfx_imx _ _ _ _ _ (hw)) _).trans ?_
  refine (withSrc_ok (srcOf_imm24 _) _).trans ?_
  simp [check, mkRaw, hi4_4, -BitVec.getLsbD_eq_getElem]

theorem plogAnd (p : Pfx) (d : BitVec 7) (a b : BitVec 8) : Statement (.plogAnd p d a b) := by
  intro r hr hw
  obtain rfl : mkRaw p none 3 0 d a b = r := Option.some.inj hr
  simp only [Instr.wf] at hw
  refine ⟨rfl, ?_⟩
  show (fun r : Raw => r.with .gz false .none fun p => .ok (.plogAnd p r.d r.a r.b)) (mkRaw p none 3 0 d a b) = _
  refine (with_ok (pfx_none _ _ _ _ _ _ (hw)) _).trans ?_
  rfl

theorem plogOr (p : Pfx) (d : BitVec 7) (a b : BitVec 8) : Statement (.plogOr p d a b) := by
  intro r hr hw
  obtain rfl : mkRaw p none 3 1 d a b = r := Option.some.inj hr
  simp only [Instr.wf] at hw
  refine ⟨rfl, ?_⟩
  show (fun r : Raw => r.with .gz false .none fun p => .ok (.plogOr p r.d r.a r.b)) (mkRaw p none 3 1 d a b) = _
  refine (with_ok (pfx_none _ _ _ _ _ _ (hw)) _).trans ?_
  rfl

theorem plogXor (p : Pfx) (d : BitVec 7) (a b : BitVec 8) : Statement (.plogXor p d a b) := by
  intro r hr hw
  obtain rfl : mkRaw p none 3 2 d a b = r := Option.some.inj hr
  simp only [Instr.wf] at hw
  refine ⟨rfl, ?_⟩
  show (fun r : Raw => r.with .gz false .none fun p => .ok (.plogXor p r.d r.a r.b)) (mkRaw p none 3 2 d a b) = _
  refine (with_ok (pfx_none _ _ _ _ _ _ (hw)) _).trans ?_
  rfl

theorem plogAndn (p : Pfx) (d : BitVec 7) (a b : BitVec 8) : Statement (.plogAndn p d a b) := by
  intro r hr hw
  obtain rfl : mkRaw p none 3 3 d a b = r := Option.some.inj hr
  simp only [Instr.wf] at hw
  refine ⟨rfl, ?_⟩
  show (fun r : Raw => r.with .gz false .none fun p => .ok (.plogAndn p r.d r.a r.b)) (mkRaw p none 3 3 d a b) = _
  refine (with_ok (pfx_none _ _ _ _ _ _ (hw)) _).trans ?_
  rfl

theorem pmov (p : Pfx) (d : BitVec 7) (a : BitVec 8) : Statement (.pmov p d a) := by
  intro r hr hw
  obtain rfl : mkRaw p none 3 4 d a 0 = r := Option.some.inj hr
  simp only [Instr.wf] at hw
  refine ⟨rfl, ?_⟩
  show (fun r : Raw => r.with .gz false .none fun p => check .both false r.bz (.pmov p r.d r.a)) (mkRaw p none 3 4 d a 0) = _
  refine (with_ok (pfx_none _ _ _ _ _ _ (hw)) _).trans ?_
  rfl

theorem pset (p : Pfx) (d : BitVec 7) (b : Src) : Statement (.pset p d b) := by
  intro r hr hw
  obtain rfl : mkRaw p b.imm24 3 5 d 0 b.code = r := Option.some.inj hr
  simp only [Instr.wf] at hw
  refine ⟨rfl, ?_⟩
  show (fun r : Raw => r.with .gz true .none fun p => withSrc .both false r.b r.imx fun b => check .both false r.az (.pset p r.d b)) (mkRaw p b.imm24 3 5 d 0 b.code) = _
  refine (with_ok (pfx_imx _ _ _ _ _ (hw)) _).trans ?_
  refine (withSrc_ok (srcOf_imm24 _) _).trans ?_
  rfl

theorem ballot (p : Pfx) (d : BitVec 7) (pr : BitVec 7) : Statement (.ballot p d pr) := by
  intro r hr hw
  obtain rfl : mkRaw p none 3 6 d (0#1 ++ pr) 0 = r := Option.some.inj hr
  simp only [Instr.wf] at hw
  refine ⟨rfl, ?_⟩
  show (fun r : Raw => r.with .g false .none fun p => check .both false (r.bz && !r.a.getLsbD 7) (.ballot p r.d (r.a.extractLsb' 0 7))) (mkRaw p none 3 6 d (0#1 ++ pr) 0) = _
  refine (with_ok (pfx_none _ _ _ _ _ _ (hw)) _).trans ?_
  simp [check, mkRaw, Raw.bz, hi1_7, -BitVec.getLsbD_eq_getElem]

theorem cmpEq (p : Pfx) (d : BitVec 7) (a b : Src) : Statement (.cmpEq p d a b) := by
  intro r hr hw
  obtain rfl : mkRaw p b.imm24 4 0 d a.code b.code = r := Option.some.inj hr
  simp only [Instr.wf, Bool.and_eq_true] at hw
  refine ⟨rfl, ?_⟩
  show (fun r : Raw => r.with .gz true .none fun p => withSrc .both false r.a none fun a => withSrc .both false r.b r.imx fun b => .ok (.cmpEq p r.d a b)) (mkRaw p b.imm24 4 0 d a.code b.code) = _
  refine (with_ok (pfx_imx _ _ _ _ _ (hw.1)) _).trans ?_
  refine (withSrc_ok (srcOf_code _ _ (hw.2)) _).trans ?_
  refine (withSrc_ok (srcOf_imm24 _) _).trans ?_
  rfl

theorem cmpNe (p : Pfx) (d : BitVec 7) (a b : Src) : Statement (.cmpNe p d a b) := by
  intro r hr hw
  obtain rfl : mkRaw p b.imm24 4 1 d a.code b.code = r := Option.some.inj hr
  simp only [Instr.wf, Bool.and_eq_true] at hw
  refine ⟨rfl, ?_⟩
  show (fun r : Raw => r.with .gz true .none fun p => withSrc .both false r.a none fun a => withSrc .both false r.b r.imx fun b => .ok (.cmpNe p r.d a b)) (mkRaw p b.imm24 4 1 d a.code b.code) = _
  refine (with_ok (pfx_imx _ _ _ _ _ (hw.1)) _).trans ?_
  refine (withSrc_ok (srcOf_code _ _ (hw.2)) _).trans ?_
  refine (withSrc_ok (srcOf_imm24 _) _).trans ?_
  rfl

theorem cmpLt (p : Pfx) (d : BitVec 7) (a b : Src) : Statement (.cmpLt p d a b) := by
  intro r hr hw
  obtain rfl : mkRaw p b.imm24 4 2 d a.code b.code = r := Option.some.inj hr
  simp only [Instr.wf, Bool.and_eq_true] at hw
  refine ⟨rfl, ?_⟩
  show (fun r : Raw => r.with .gz true .none fun p => withSrc .both false r.a none fun a => withSrc .both false r.b r.imx fun b => .ok (.cmpLt p r.d a b)) (mkRaw p b.imm24 4 2 d a.code b.code) = _
  refine (with_ok (pfx_imx _ _ _ _ _ (hw.1)) _).trans ?_
  refine (withSrc_ok (srcOf_code _ _ (hw.2)) _).trans ?_
  refine (withSrc_ok (srcOf_imm24 _) _).trans ?_
  rfl

theorem cmpLe (p : Pfx) (d : BitVec 7) (a b : Src) : Statement (.cmpLe p d a b) := by
  intro r hr hw
  obtain rfl : mkRaw p b.imm24 4 3 d a.code b.code = r := Option.some.inj hr
  simp only [Instr.wf, Bool.and_eq_true] at hw
  refine ⟨rfl, ?_⟩
  show (fun r : Raw => r.with .gz true .none fun p => withSrc .both false r.a none fun a => withSrc .both false r.b r.imx fun b => .ok (.cmpLe p r.d a b)) (mkRaw p b.imm24 4 3 d a.code b.code) = _
  refine (with_ok (pfx_imx _ _ _ _ _ (hw.1)) _).trans ?_
  refine (withSrc_ok (srcOf_code _ _ (hw.2)) _).trans ?_
  refine (withSrc_ok (srcOf_imm24 _) _).trans ?_
  rfl

theorem cmpGt (p : Pfx) (d : BitVec 7) (a b : Src) : Statement (.cmpGt p d a b) := by
  intro r hr hw
  obtain rfl : mkRaw p b.imm24 4 4 d a.code b.code = r := Option.some.inj hr
  simp only [Instr.wf, Bool.and_eq_true] at hw
  refine ⟨rfl, ?_⟩
  show (fun r : Raw => r.with .gz true .none fun p => withSrc .both false r.a none fun a => withSrc .both false r.b r.imx fun b => .ok (.cmpGt p r.d a b)) (mkRaw p b.imm24 4 4 d a.code b.code) = _
  refine (with_ok (pfx_imx _ _ _ _ _ (hw.1)) _).trans ?_
  refine (withSrc_ok (srcOf_code _ _ (hw.2)) _).trans ?_
  refine (withSrc_ok (srcOf_imm24 _) _).trans ?_
  rfl

theorem cmpGe (p : Pfx) (d : BitVec 7) (a b : Src) : Statement (.cmpGe p d a b) := by
  intro r hr hw
  obtain rfl : mkRaw p b.imm24 4 5 d a.code b.code = r := Option.some.inj hr
  simp only [Instr.wf, Bool.and_eq_true] at hw
  refine ⟨rfl, ?_⟩
  show (fun r : Raw => r.with .gz true .none fun p => withSrc .both false r.a none fun a => withSrc .both false r.b r.imx fun b => .ok (.cmpGe p r.d a b)) (mkRaw p b.imm24 4 5 d a.code b.code) = _
  refine (with_ok (pfx_imx _ _ _ _ _ (hw.1)) _).trans ?_
  refine (withSrc_ok (srcOf_code _ _ (hw.2)) _).trans ?_
  refine (withSrc_ok (srcOf_imm24 _) _).trans ?_
  rfl

theorem cmpLtn (p : Pfx) (d : BitVec 7) (a b : Src) : Statement (.cmpLtn p d a b) := by
  intro r hr hw
  obtain rfl : mkRaw p b.imm24 4 6 d a.code b.code = r := Option.some.inj hr
  simp only [Instr.wf, Bool.and_eq_true] at hw
  refine ⟨rfl, ?_⟩
  show (fun r : Raw => r.with .gz true .none fun p => withSrc .both false r.a none fun a => withSrc .both false r.b r.imx fun b => .ok (.cmpLtn p r.d a b)) (mkRaw p b.imm24 4 6 d a.code b.code) = _
  refine (with_ok (pfx_imx _ _ _ _ _ (hw.1)) _).trans ?_
  refine (withSrc_ok (srcOf_code _ _ (hw.2)) _).trans ?_
  refine (withSrc_ok (srcOf_imm24 _) _).trans ?_
  rfl

theorem cmpGen (p : Pfx) (d : BitVec 7) (a b : Src) : Statement (.cmpGen p d a b) := by
  intro r hr hw
  obtain rfl : mkRaw p b.imm24 4 7 d a.code b.code = r := Option.some.inj hr
  simp only [Instr.wf, Bool.and_eq_true] at hw
  refine ⟨rfl, ?_⟩
  show (fun r : Raw => r.with .gz true .none fun p => withSrc .both false r.a none fun a => withSrc .both false r.b r.imx fun b => .ok (.cmpGen p r.d a b)) (mkRaw p b.imm24 4 7 d a.code b.code) = _
  refine (with_ok (pfx_imx _ _ _ _ _ (hw.1)) _).trans ?_
  refine (withSrc_ok (srcOf_code _ _ (hw.2)) _).trans ?_
  refine (withSrc_ok (srcOf_imm24 _) _).trans ?_
  rfl

theorem fcmpF32Eq (p : Pfx) (d : BitVec 7) (a b : Src) : Statement (.fcmpF32Eq p d a b) := by
  intro r hr hw
  obtain rfl : mkRaw p b.imm24 5 0 d a.code b.code = r := Option.some.inj hr
  simp only [Instr.wf, Bool.and_eq_true] at hw
  refine ⟨rfl, ?_⟩
  show (fun r : Raw => r.with .gz true .none fun p => withSrc .eOnly false r.a none fun a => withSrc .eOnly false r.b r.imx fun b => .ok (.fcmpF32Eq p r.d a b)) (mkRaw p b.imm24 5 0 d a.code b.code) = _
  refine (with_ok (pfx_imx _ _ _ _ _ (hw.1)) _).trans ?_
  refine (withSrc_ok (srcOf_code _ _ (hw.2)) _).trans ?_
  refine (withSrc_ok (srcOf_imm24 _) _).trans ?_
  rfl

theorem fcmpF32Ne (p : Pfx) (d : BitVec 7) (a b : Src) : Statement (.fcmpF32Ne p d a b) := by
  intro r hr hw
  obtain rfl : mkRaw p b.imm24 5 1 d a.code b.code = r := Option.some.inj hr
  simp only [Instr.wf, Bool.and_eq_true] at hw
  refine ⟨rfl, ?_⟩
  show (fun r : Raw => r.with .gz true .none fun p => withSrc .eOnly false r.a none fun a => withSrc .eOnly false r.b r.imx fun b => .ok (.fcmpF32Ne p r.d a b)) (mkRaw p b.imm24 5 1 d a.code b.code) = _
  refine (with_ok (pfx_imx _ _ _ _ _ (hw.1)) _).trans ?_
  refine (withSrc_ok (srcOf_code _ _ (hw.2)) _).trans ?_
  refine (withSrc_ok (srcOf_imm24 _) _).trans ?_
  rfl

theorem fcmpF32Lt (p : Pfx) (d : BitVec 7) (a b : Src) : Statement (.fcmpF32Lt p d a b) := by
  intro r hr hw
  obtain rfl : mkRaw p b.imm24 5 2 d a.code b.code = r := Option.some.inj hr
  simp only [Instr.wf, Bool.and_eq_true] at hw
  refine ⟨rfl, ?_⟩
  show (fun r : Raw => r.with .gz true .none fun p => withSrc .eOnly false r.a none fun a => withSrc .eOnly false r.b r.imx fun b => .ok (.fcmpF32Lt p r.d a b)) (mkRaw p b.imm24 5 2 d a.code b.code) = _
  refine (with_ok (pfx_imx _ _ _ _ _ (hw.1)) _).trans ?_
  refine (withSrc_ok (srcOf_code _ _ (hw.2)) _).trans ?_
  refine (withSrc_ok (srcOf_imm24 _) _).trans ?_
  rfl

theorem fcmpF32Le (p : Pfx) (d : BitVec 7) (a b : Src) : Statement (.fcmpF32Le p d a b) := by
  intro r hr hw
  obtain rfl : mkRaw p b.imm24 5 3 d a.code b.code = r := Option.some.inj hr
  simp only [Instr.wf, Bool.and_eq_true] at hw
  refine ⟨rfl, ?_⟩
  show (fun r : Raw => r.with .gz true .none fun p => withSrc .eOnly false r.a none fun a => withSrc .eOnly false r.b r.imx fun b => .ok (.fcmpF32Le p r.d a b)) (mkRaw p b.imm24 5 3 d a.code b.code) = _
  refine (with_ok (pfx_imx _ _ _ _ _ (hw.1)) _).trans ?_
  refine (withSrc_ok (srcOf_code _ _ (hw.2)) _).trans ?_
  refine (withSrc_ok (srcOf_imm24 _) _).trans ?_
  rfl

theorem fcmpF32Gt (p : Pfx) (d : BitVec 7) (a b : Src) : Statement (.fcmpF32Gt p d a b) := by
  intro r hr hw
  obtain rfl : mkRaw p b.imm24 5 4 d a.code b.code = r := Option.some.inj hr
  simp only [Instr.wf, Bool.and_eq_true] at hw
  refine ⟨rfl, ?_⟩
  show (fun r : Raw => r.with .gz true .none fun p => withSrc .eOnly false r.a none fun a => withSrc .eOnly false r.b r.imx fun b => .ok (.fcmpF32Gt p r.d a b)) (mkRaw p b.imm24 5 4 d a.code b.code) = _
  refine (with_ok (pfx_imx _ _ _ _ _ (hw.1)) _).trans ?_
  refine (withSrc_ok (srcOf_code _ _ (hw.2)) _).trans ?_
  refine (withSrc_ok (srcOf_imm24 _) _).trans ?_
  rfl

theorem fcmpF32Ge (p : Pfx) (d : BitVec 7) (a b : Src) : Statement (.fcmpF32Ge p d a b) := by
  intro r hr hw
  obtain rfl : mkRaw p b.imm24 5 5 d a.code b.code = r := Option.some.inj hr
  simp only [Instr.wf, Bool.and_eq_true] at hw
  refine ⟨rfl, ?_⟩
  show (fun r : Raw => r.with .gz true .none fun p => withSrc .eOnly false r.a none fun a => withSrc .eOnly false r.b r.imx fun b => .ok (.fcmpF32Ge p r.d a b)) (mkRaw p b.imm24 5 5 d a.code b.code) = _
  refine (with_ok (pfx_imx _ _ _ _ _ (hw.1)) _).trans ?_
  refine (withSrc_ok (srcOf_code _ _ (hw.2)) _).trans ?_
  refine (withSrc_ok (srcOf_imm24 _) _).trans ?_
  rfl

theorem fcmpF32Un (p : Pfx) (d : BitVec 7) (a b : Src) : Statement (.fcmpF32Un p d a b) := by
  intro r hr hw
  obtain rfl : mkRaw p b.imm24 5 6 d a.code b.code = r := Option.some.inj hr
  simp only [Instr.wf, Bool.and_eq_true] at hw
  refine ⟨rfl, ?_⟩
  show (fun r : Raw => r.with .gz true .none fun p => withSrc .eOnly false r.a none fun a => withSrc .eOnly false r.b r.imx fun b => .ok (.fcmpF32Un p r.d a b)) (mkRaw p b.imm24 5 6 d a.code b.code) = _
  refine (with_ok (pfx_imx _ _ _ _ _ (hw.1)) _).trans ?_
  refine (withSrc_ok (srcOf_code _ _ (hw.2)) _).trans ?_
  refine (withSrc_ok (srcOf_imm24 _) _).trans ?_
  rfl

theorem fcmpF32Or (p : Pfx) (d : BitVec 7) (a b : Src) : Statement (.fcmpF32Or p d a b) := by
  intro r hr hw
  obtain rfl : mkRaw p b.imm24 5 7 d a.code b.code = r := Option.some.inj hr
  simp only [Instr.wf, Bool.and_eq_true] at hw
  refine ⟨rfl, ?_⟩
  show (fun r : Raw => r.with .gz true .none fun p => withSrc .eOnly false r.a none fun a => withSrc .eOnly false r.b r.imx fun b => .ok (.fcmpF32Or p r.d a b)) (mkRaw p b.imm24 5 7 d a.code b.code) = _
  refine (with_ok (pfx_imx _ _ _ _ _ (hw.1)) _).trans ?_
  refine (withSrc_ok (srcOf_code _ _ (hw.2)) _).trans ?_
  refine (withSrc_ok (srcOf_imm24 _) _).trans ?_
  rfl

theorem fcmpF64Eq (p : Pfx) (d : BitVec 7) (a b : Src) : Statement (.fcmpF64Eq p d a b) := by
  intro r hr hw
  obtain rfl : mkRaw p b.imm24 6 0 d a.code b.code = r := Option.some.inj hr
  simp only [Instr.wf, Bool.and_eq_true] at hw
  refine ⟨rfl, ?_⟩
  show (fun r : Raw => r.with .gz true .none fun p => withSrc .eOnly false r.a none fun a => withSrc .eOnly false r.b r.imx fun b => .ok (.fcmpF64Eq p r.d a b)) (mkRaw p b.imm24 6 0 d a.code b.code) = _
  refine (with_ok (pfx_imx _ _ _ _ _ (hw.1)) _).trans ?_
  refine (withSrc_ok (srcOf_code _ _ (hw.2)) _).trans ?_
  refine (withSrc_ok (srcOf_imm24 _) _).trans ?_
  rfl

theorem fcmpF64Ne (p : Pfx) (d : BitVec 7) (a b : Src) : Statement (.fcmpF64Ne p d a b) := by
  intro r hr hw
  obtain rfl : mkRaw p b.imm24 6 1 d a.code b.code = r := Option.some.inj hr
  simp only [Instr.wf, Bool.and_eq_true] at hw
  refine ⟨rfl, ?_⟩
  show (fun r : Raw => r.with .gz true .none fun p => withSrc .eOnly false r.a none fun a => withSrc .eOnly false r.b r.imx fun b => .ok (.fcmpF64Ne p r.d a b)) (mkRaw p b.imm24 6 1 d a.code b.code) = _
  refine (with_ok (pfx_imx _ _ _ _ _ (hw.1)) _).trans ?_
  refine (withSrc_ok (srcOf_code _ _ (hw.2)) _).trans ?_
  refine (withSrc_ok (srcOf_imm24 _) _).trans ?_
  rfl

theorem fcmpF64Lt (p : Pfx) (d : BitVec 7) (a b : Src) : Statement (.fcmpF64Lt p d a b) := by
  intro r hr hw
  obtain rfl : mkRaw p b.imm24 6 2 d a.code b.code = r := Option.some.inj hr
  simp only [Instr.wf, Bool.and_eq_true] at hw
  refine ⟨rfl, ?_⟩
  show (fun r : Raw => r.with .gz true .none fun p => withSrc .eOnly false r.a none fun a => withSrc .eOnly false r.b r.imx fun b => .ok (.fcmpF64Lt p r.d a b)) (mkRaw p b.imm24 6 2 d a.code b.code) = _
  refine (with_ok (pfx_imx _ _ _ _ _ (hw.1)) _).trans ?_
  refine (withSrc_ok (srcOf_code _ _ (hw.2)) _).trans ?_
  refine (withSrc_ok (srcOf_imm24 _) _).trans ?_
  rfl

theorem fcmpF64Le (p : Pfx) (d : BitVec 7) (a b : Src) : Statement (.fcmpF64Le p d a b) := by
  intro r hr hw
  obtain rfl : mkRaw p b.imm24 6 3 d a.code b.code = r := Option.some.inj hr
  simp only [Instr.wf, Bool.and_eq_true] at hw
  refine ⟨rfl, ?_⟩
  show (fun r : Raw => r.with .gz true .none fun p => withSrc .eOnly false r.a none fun a => withSrc .eOnly false r.b r.imx fun b => .ok (.fcmpF64Le p r.d a b)) (mkRaw p b.imm24 6 3 d a.code b.code) = _
  refine (with_ok (pfx_imx _ _ _ _ _ (hw.1)) _).trans ?_
  refine (withSrc_ok (srcOf_code _ _ (hw.2)) _).trans ?_
  refine (withSrc_ok (srcOf_imm24 _) _).trans ?_
  rfl

theorem fcmpF64Gt (p : Pfx) (d : BitVec 7) (a b : Src) : Statement (.fcmpF64Gt p d a b) := by
  intro r hr hw
  obtain rfl : mkRaw p b.imm24 6 4 d a.code b.code = r := Option.some.inj hr
  simp only [Instr.wf, Bool.and_eq_true] at hw
  refine ⟨rfl, ?_⟩
  show (fun r : Raw => r.with .gz true .none fun p => withSrc .eOnly false r.a none fun a => withSrc .eOnly false r.b r.imx fun b => .ok (.fcmpF64Gt p r.d a b)) (mkRaw p b.imm24 6 4 d a.code b.code) = _
  refine (with_ok (pfx_imx _ _ _ _ _ (hw.1)) _).trans ?_
  refine (withSrc_ok (srcOf_code _ _ (hw.2)) _).trans ?_
  refine (withSrc_ok (srcOf_imm24 _) _).trans ?_
  rfl

theorem fcmpF64Ge (p : Pfx) (d : BitVec 7) (a b : Src) : Statement (.fcmpF64Ge p d a b) := by
  intro r hr hw
  obtain rfl : mkRaw p b.imm24 6 5 d a.code b.code = r := Option.some.inj hr
  simp only [Instr.wf, Bool.and_eq_true] at hw
  refine ⟨rfl, ?_⟩
  show (fun r : Raw => r.with .gz true .none fun p => withSrc .eOnly false r.a none fun a => withSrc .eOnly false r.b r.imx fun b => .ok (.fcmpF64Ge p r.d a b)) (mkRaw p b.imm24 6 5 d a.code b.code) = _
  refine (with_ok (pfx_imx _ _ _ _ _ (hw.1)) _).trans ?_
  refine (withSrc_ok (srcOf_code _ _ (hw.2)) _).trans ?_
  refine (withSrc_ok (srcOf_imm24 _) _).trans ?_
  rfl

theorem fcmpF64Un (p : Pfx) (d : BitVec 7) (a b : Src) : Statement (.fcmpF64Un p d a b) := by
  intro r hr hw
  obtain rfl : mkRaw p b.imm24 6 6 d a.code b.code = r := Option.some.inj hr
  simp only [Instr.wf, Bool.and_eq_true] at hw
  refine ⟨rfl, ?_⟩
  show (fun r : Raw => r.with .gz true .none fun p => withSrc .eOnly false r.a none fun a => withSrc .eOnly false r.b r.imx fun b => .ok (.fcmpF64Un p r.d a b)) (mkRaw p b.imm24 6 6 d a.code b.code) = _
  refine (with_ok (pfx_imx _ _ _ _ _ (hw.1)) _).trans ?_
  refine (withSrc_ok (srcOf_code _ _ (hw.2)) _).trans ?_
  refine (withSrc_ok (srcOf_imm24 _) _).trans ?_
  rfl

theorem fcmpF64Or (p : Pfx) (d : BitVec 7) (a b : Src) : Statement (.fcmpF64Or p d a b) := by
  intro r hr hw
  obtain rfl : mkRaw p b.imm24 6 7 d a.code b.code = r := Option.some.inj hr
  simp only [Instr.wf, Bool.and_eq_true] at hw
  refine ⟨rfl, ?_⟩
  show (fun r : Raw => r.with .gz true .none fun p => withSrc .eOnly false r.a none fun a => withSrc .eOnly false r.b r.imx fun b => .ok (.fcmpF64Or p r.d a b)) (mkRaw p b.imm24 6 7 d a.code b.code) = _
  refine (with_ok (pfx_imx _ _ _ _ _ (hw.1)) _).trans ?_
  refine (withSrc_ok (srcOf_code _ _ (hw.2)) _).trans ?_
  refine (withSrc_ok (srcOf_imm24 _) _).trans ?_
  rfl

theorem add (p : Pfx) (d : BitVec 7) (a b : Src) : Statement (.add p d a b) := by
  intro r hr hw
  obtain rfl : mkRaw p b.imm24 7 0 d a.code b.code = r := Option.some.inj hr
  simp only [Instr.wf, Bool.and_eq_true] at hw
  refine ⟨rfl, ?_⟩
  show (fun r : Raw => r.with .gz true .none fun p => withSrc .both false r.a none fun a => withSrc .both false r.b r.imx fun b => .ok (.add p r.d a b)) (mkRaw p b.imm24 7 0 d a.code b.code) = _
  refine (with_ok (pfx_imx _ _ _ _ _ (hw.1)) _).trans ?_
  refine (withSrc_ok (srcOf_code _ _ (hw.2)) _).trans ?_
  refine (withSrc_ok (srcOf_imm24 _) _).trans ?_
  rfl

theorem sub (p : Pfx) (d : BitVec 7) (a b : Src) : Statement (.sub p d a b) := by
  intro r hr hw
  obtain rfl : mkRaw p b.imm24 7 1 d a.code b.code = r := Option.some.inj hr
  simp only [Instr.wf, Bool.and_eq_true] at hw
  refine ⟨rfl, ?_⟩
  show (fun r : Raw => r.with .gz true .none fun p => withSrc .both false r.a none fun a => withSrc .both false r.b r.imx fun b => .ok (.sub p r.d a b)) (mkRaw p b.imm24 7 1 d a.code b.code) = _
  refine (with_ok (pfx_imx _ _ _ _ _ (hw.1)) _).trans ?_
  refine (withSrc_ok (srcOf_code _ _ (hw.2)) _).trans ?_
  refine (withSrc_ok (srcOf_imm24 _) _).trans ?_
  rfl

theorem mul (p : Pfx) (d : BitVec 7) (a b : Src) : Statement (.mul p d a b) := by
  intro r hr hw
  obtain rfl : mkRaw p b.imm24 7 2 d a.code b.code = r := Option.some.inj hr
  simp only [Instr.wf, Bool.and_eq_true] at hw
  refine ⟨rfl, ?_⟩
  show (fun r : Raw => r.with .gz true .none fun p => withSrc .both false r.a none fun a => withSrc .both false r.b r.imx fun b => .ok (.mul p r.d a b)) (mkRaw p b.imm24 7 2 d a.code b.code) = _
  refine (with_ok (pfx_imx _ _ _ _ _ (hw.1)) _).trans ?_
  refine (withSrc_ok (srcOf_code _ _ (hw.2)) _).trans ?_
  refine (withSrc_ok (srcOf_imm24 _) _).trans ?_
  rfl

theorem mulh (p : Pfx) (d : BitVec 7) (a b : Src) : Statement (.mulh p d a b) := by
  intro r hr hw
  obtain rfl : mkRaw p b.imm24 7 3 d a.code b.code = r := Option.some.inj hr
  simp only [Instr.wf, Bool.and_eq_true] at hw
  refine ⟨rfl, ?_⟩
  show (fun r : Raw => r.with .gz true .none fun p => withSrc .both false r.a none fun a => withSrc .both false r.b r.imx fun b => .ok (.mulh p r.d a b)) (mkRaw p b.imm24 7 3 d a.code b.code) = _
  refine (with_ok (pfx_imx _ _ _ _ _ (hw.1)) _).trans ?_
  refine (withSrc_ok (srcOf_code _ _ (hw.2)) _).trans ?_
  refine (withSrc_ok (srcOf_imm24 _) _).trans ?_
  rfl

theorem mulhN (p : Pfx) (d : BitVec 7) (a b : Src) : Statement (.mulhN p d a b) := by
  intro r hr hw
  obtain rfl : mkRaw p b.imm24 7 4 d a.code b.code = r := Option.some.inj hr
  simp only [Instr.wf, Bool.and_eq_true] at hw
  refine ⟨rfl, ?_⟩
  show (fun r : Raw => r.with .gz true .none fun p => withSrc .both false r.a none fun a => withSrc .both false r.b r.imx fun b => .ok (.mulhN p r.d a b)) (mkRaw p b.imm24 7 4 d a.code b.code) = _
  refine (with_ok (pfx_imx _ _ _ _ _ (hw.1)) _).trans ?_
  refine (withSrc_ok (srcOf_code _ _ (hw.2)) _).trans ?_
  refine (withSrc_ok (srcOf_imm24 _) _).trans ?_
  rfl

theorem min (p : Pfx) (d : BitVec 7) (a b : Src) : Statement (.min p d a b) := by
  intro r hr hw
  obtain rfl : mkRaw p b.imm24 7 5 d a.code b.code = r := Option.some.inj hr
  simp only [Instr.wf, Bool.and_eq_true] at hw
  refine ⟨rfl, ?_⟩
  show (fun r : Raw => r.with .gz true .none fun p => withSrc .both false r.a none fun a => withSrc .both false r.b r.imx fun b => .ok (.min p r.d a b)) (mkRaw p b.imm24 7 5 d a.code b.code) = _
  refine (with_ok (pfx_imx _ _ _ _ _ (hw.1)) _).trans ?_
  refine (withSrc_ok (srcOf_code _ _ (hw.2)) _).trans ?_
  refine (withSrc_ok (srcOf_imm24 _) _).trans ?_
  rfl

theorem max (p : Pfx) (d : BitVec 7) (a b : Src) : Statement (.max p d a b) := by
  intro r hr hw
  obtain rfl : mkRaw p b.imm24 7 6 d a.code b.code = r := Option.some.inj hr
  simp only [Instr.wf, Bool.and_eq_true] at hw
  refine ⟨rfl, ?_⟩
  show (fun r : Raw => r.with .gz true .none fun p => withSrc .both false r.a none fun a => withSrc .both false r.b r.imx fun b => .ok (.max p r.d a b)) (mkRaw p b.imm24 7 6 d a.code b.code) = _
  refine (with_ok (pfx_imx _ _ _ _ _ (hw.1)) _).trans ?_
  refine (withSrc_ok (srcOf_code _ _ (hw.2)) _).trans ?_
  refine (withSrc_ok (srcOf_imm24 _) _).trans ?_
  rfl

theorem minN (p : Pfx) (d : BitVec 7) (a b : Src) : Statement (.minN p d a b) := by
  intro r hr hw
  obtain rfl : mkRaw p b.imm24 7 7 d a.code b.code = r := Option.some.inj hr
  simp only [Instr.wf, Bool.and_eq_true] at hw
  refine ⟨rfl, ?_⟩
  show (fun r : Raw => r.with .gz true .none fun p => withSrc .both false r.a none fun a => withSrc .both false r.b r.imx fun b => .ok (.minN p r.d a b)) (mkRaw p b.imm24 7 7 d a.code b.code) = _
  refine (with_ok (pfx_imx _ _ _ _ _ (hw.1)) _).trans ?_
  refine (withSrc_ok (srcOf_code _ _ (hw.2)) _).trans ?_
  refine (withSrc_ok (srcOf_imm24 _) _).trans ?_
  rfl

theorem div (p : Pfx) (d : BitVec 7) (a b : Src) : Statement (.div p d a b) := by
  intro r hr hw
  obtain rfl : mkRaw p b.imm24 8 0 d a.code b.code = r := Option.some.inj hr
  simp only [Instr.wf, Bool.and_eq_true] at hw
  refine ⟨rfl, ?_⟩
  show (fun r : Raw => r.with .gz true .none fun p => withSrc .both false r.a none fun a => withSrc .both false r.b r.imx fun b => .ok (.div p r.d a b)) (mkRaw p b.imm24 8 0 d a.code b.code) = _
  refine (with_ok (pfx_imx _ _ _ _ _ (hw.1)) _).trans ?_
  refine (withSrc_ok (srcOf_code _ _ (hw.2)) _).trans ?_
  refine (withSrc_ok (srcOf_imm24 _) _).trans ?_
  rfl

theorem divN (p : Pfx) (d : BitVec 7) (a b : Src) : Statement (.divN p d a b) := by
  intro r hr hw
  obtain rfl : mkRaw p b.imm24 8 1 d a.code b.code = r := Option.some.inj hr
  simp only [Instr.wf, Bool.and_eq_true] at hw
  refine ⟨rfl, ?_⟩
  show (fun r : Raw => r.with .gz true .none fun p => withSrc .both false r.a none fun a => withSrc .both false r.b r.imx fun b => .ok (.divN p r.d a b)) (mkRaw p b.imm24 8 1 d a.code b.code) = _
  refine (with_ok (pfx_imx _ _ _ _ _ (hw.1)) _).trans ?_
  refine (withSrc_ok (srcOf_code _ _ (hw.2)) _).trans ?_
  refine (withSrc_ok (srcOf_imm24 _) _).trans ?_
  rfl

theorem rem (p : Pfx) (d : BitVec 7) (a b : Src) : Statement (.rem p d a b) := by
  intro r hr hw
  obtain rfl : mkRaw p b.imm24 8 2 d a.code b.code = r := Option.some.inj hr
  simp only [Instr.wf, Bool.and_eq_true] at hw
  refine ⟨rfl, ?_⟩
  show (fun r : Raw => r.with .gz true .none fun p => withSrc .both false r.a none fun a => withSrc .both false r.b r.imx fun b => .ok (.rem p r.d a b)) (mkRaw p b.imm24 8 2 d a.code b.code) = _
  refine (with_ok (pfx_imx _ _ _ _ _ (hw.1)) _).trans ?_
  refine (withSrc_ok (srcOf_code _ _ (hw.2)) _).trans ?_
  refine (withSrc_ok (srcOf_imm24 _) _).trans ?_
  rfl

theorem remN (p : Pfx) (d : BitVec 7) (a b : Src) : Statement (.remN p d a b) := by
  intro r hr hw
  obtain rfl : mkRaw p b.imm24 8 3 d a.code b.code = r := Option.some.inj hr
  simp only [Instr.wf, Bool.and_eq_true] at hw
  refine ⟨rfl, ?_⟩
  show (fun r : Raw => r.with .gz true .none fun p => withSrc .both false r.a none fun a => withSrc .both false r.b r.imx fun b => .ok (.remN p r.d a b)) (mkRaw p b.imm24 8 3 d a.code b.code) = _
  refine (with_ok (pfx_imx _ _ _ _ _ (hw.1)) _).trans ?_
  refine (withSrc_ok (srcOf_code _ _ (hw.2)) _).trans ?_
  refine (withSrc_ok (srcOf_imm24 _) _).trans ?_
  rfl

theorem maxN (p : Pfx) (d : BitVec 7) (a b : Src) : Statement (.maxN p d a b) := by
  intro r hr hw
  obtain rfl : mkRaw p b.imm24 8 4 d a.code b.code = r := Option.some.inj hr
  simp only [Instr.wf, Bool.and_eq_true] at hw
  refine ⟨rfl, ?_⟩
  show (fun r : Raw => r.with .gz true .none fun p => withSrc .both false r.a none fun a => withSrc .both false r.b r.imx fun b => .ok (.maxN p r.d a b)) (mkRaw p b.imm24 8 4 d a.code b.code) = _
  refine (with_ok (pfx_imx _ _ _ _ _ (hw.1)) _).trans ?_
  refine (withSrc_ok (srcOf_code _ _ (hw.2)) _).trans ?_
  refine (withSrc_ok (srcOf_imm24 _) _).trans ?_
  rfl

theorem abs (p : Pfx) (d : BitVec 7) (a : Src) : Statement (.abs p d a) := by
  intro r hr hw
  obtain rfl : mkRaw p none 8 5 d a.code 0 = r := Option.some.inj hr
  simp only [Instr.wf, Bool.and_eq_true] at hw
  refine ⟨rfl, ?_⟩
  show (fun r : Raw => r.with .gz true .none fun p => withSrc .both false r.a none fun a => check .both false r.bz (.abs p r.d a)) (mkRaw p none 8 5 d a.code 0) = _
  refine (with_ok (pfx_none _ _ _ _ _ _ (hw.1)) _).trans ?_
  refine (withSrc_ok (srcOf_code _ _ (hw.2)) _).trans ?_
  rfl

theorem neg (p : Pfx) (d : BitVec 7) (a : Src) : Statement (.neg p d a) := by
  intro r hr hw
  obtain rfl : mkRaw p none 8 6 d a.code 0 = r := Option.some.inj hr
  simp only [Instr.wf, Bool.and_eq_true] at hw
  refine ⟨rfl, ?_⟩
  show (fun r : Raw => r.with .gz true .none fun p => withSrc .both false r.a none fun a => check .both false r.bz (.neg p r.d a)) (mkRaw p none 8 6 d a.code 0) = _
  refine (with_ok (pfx_none _ _ _ _ _ _ (hw.1)) _).trans ?_
  refine (withSrc_ok (srcOf_code _ _ (hw.2)) _).trans ?_
  rfl

theorem mad (p : Pfx) (d : BitVec 7) (a b : Src) : Statement (.mad p d a b) := by
  intro r hr hw
  obtain rfl : mkRaw p b.imm24 8 7 d a.code b.code = r := Option.some.inj hr
  simp only [Instr.wf, Bool.and_eq_true] at hw
  refine ⟨rfl, ?_⟩
  show (fun r : Raw => r.with .gzc true .none fun p => withSrc .both false r.a none fun a => withSrc .both false r.b r.imx fun b => .ok (.mad p r.d a b)) (mkRaw p b.imm24 8 7 d a.code b.code) = _
  refine (with_ok (pfx_imx _ _ _ _ _ (hw.1)) _).trans ?_
  refine (withSrc_ok (srcOf_code _ _ (hw.2)) _).trans ?_
  refine (withSrc_ok (srcOf_imm24 _) _).trans ?_
  rfl

theorem and (p : Pfx) (d : BitVec 7) (a b : Src) : Statement (.and p d a b) := by
  intro r hr hw
  obtain rfl : mkRaw p b.imm24 9 0 d a.code b.code = r := Option.some.inj hr
  simp only [Instr.wf, Bool.and_eq_true] at hw
  refine ⟨rfl, ?_⟩
  show (fun r : Raw => r.with .gz true .none fun p => withSrc .both false r.a none fun a => withSrc .both false r.b r.imx fun b => .ok (.and p r.d a b)) (mkRaw p b.imm24 9 0 d a.code b.code) = _
  refine (with_ok (pfx_imx _ _ _ _ _ (hw.1)) _).trans ?_
  refine (withSrc_ok (srcOf_code _ _ (hw.2)) _).trans ?_
  refine (withSrc_ok (srcOf_imm24 _) _).trans ?_
  rfl

theorem or (p : Pfx) (d : BitVec 7) (a b : Src) : Statement (.or p d a b) := by
  intro r hr hw
  obtain rfl : mkRaw p b.imm24 9 1 d a.code b.code = r := Option.some.inj hr
  simp only [Instr.wf, Bool.and_eq_true] at hw
  refine ⟨rfl, ?_⟩
  show (fun r : Raw => r.with .gz true .none fun p => withSrc .both false r.a none fun a => withSrc .both false r.b r.imx fun b => .ok (.or p r.d a b)) (mkRaw p b.imm24 9 1 d a.code b.code) = _
  refine (with_ok (pfx_imx _ _ _ _ _ (hw.1)) _).trans ?_
  refine (withSrc_ok (srcOf_code _ _ (hw.2)) _).trans ?_
  refine (withSrc_ok (srcOf_imm24 _) _).trans ?_
  rfl

theorem xor (p : Pfx) (d : BitVec 7) (a b : Src) : Statement (.xor p d a b) := by
  intro r hr hw
  obtain rfl : mkRaw p b.imm24 9 2 d a.code b.code = r := Option.some.inj hr
  simp only [Instr.wf, Bool.and_eq_true] at hw
  refine ⟨rfl, ?_⟩
  show (fun r : Raw => r.with .gz true .none fun p => withSrc .both false r.a none fun a => withSrc .both false r.b r.imx fun b => .ok (.xor p r.d a b)) (mkRaw p b.imm24 9 2 d a.code b.code) = _
  refine (with_ok (pfx_imx _ _ _ _ _ (hw.1)) _).trans ?_
  refine (withSrc_ok (srcOf_code _ _ (hw.2)) _).trans ?_
  refine (withSrc_ok (srcOf_imm24 _) _).trans ?_
  rfl

theorem andn (p : Pfx) (d : BitVec 7) (a b : Src) : Statement (.andn p d a b) := by
  intro r hr hw
  obtain rfl : mkRaw p b.imm24 9 3 d a.code b.code = r := Option.some.inj hr
  simp only [Instr.wf, Bool.and_eq_true] at hw
  refine ⟨rfl, ?_⟩
  show (fun r : Raw => r.with .gz true .none fun p => withSrc .both false r.a none fun a => withSrc .both false r.b r.imx fun b => .ok (.andn p r.d a b)) (mkRaw p b.imm24 9 3 d a.code b.code) = _
  refine (with_ok (pfx_imx _ _ _ _ _ (hw.1)) _).trans ?_
  refine (withSrc_ok (srcOf_code _ _ (hw.2)) _).trans ?_
  refine (withSrc_ok (srcOf_imm24 _) _).trans ?_
  rfl

theorem not (p : Pfx) (d : BitVec 7) (a : Src) : Statement (.not p d a) := by
  intro r hr hw
  obtain rfl : mkRaw p none 9 4 d a.code 0 = r := Option.some.inj hr
  simp only [Instr.wf, Bool.and_eq_true] at hw
  refine ⟨rfl, ?_⟩
  show (fun r : Raw => r.with .gz true .none fun p => withSrc .both false r.a none fun a => check .both false r.bz (.not p r.d a)) (mkRaw p none 9 4 d a.code 0) = _
  refine (with_ok (pfx_none _ _ _ _ _ _ (hw.1)) _).trans ?_
  refine (withSrc_ok (srcOf_code _ _ (hw.2)) _).trans ?_
  rfl

theorem sel (p : Pfx) (d : BitVec 7) (a b : Src) : Statement (.sel p d a b) := by
  intro r hr hw
  obtain rfl : mkRaw p b.imm24 9 5 d a.code b.code = r := Option.some.inj hr
  simp only [Instr.wf, Bool.and_eq_true] at hw
  refine ⟨rfl, ?_⟩
  show (fun r : Raw => r.with .gzc true .none fun p => withSrc .both false r.a none fun a => withSrc .both false r.b r.imx fun b => .ok (.sel p r.d a b)) (mkRaw p b.imm24 9 5 d a.code b.code) = _
  refine (with_ok (pfx_imx _ _ _ _ _ (hw.1)) _).trans ?_
  refine (withSrc_ok (srcOf_code _ _ (hw.2)) _).trans ?_
  refine (withSrc_ok (srcOf_imm24 _) _).trans ?_
  rfl

theorem mov (p : Pfx) (d : BitVec 7) (a : Src) : Statement (.mov p d a) := by
  intro r hr hw
  obtain rfl : mkRaw p none 9 6 d a.code 0 = r := Option.some.inj hr
  simp only [Instr.wf, Bool.and_eq_true] at hw
  refine ⟨rfl, ?_⟩
  show (fun r : Raw => r.with .gz true .none fun p => withSrc .both false r.a none fun a => check .both false r.bz (.mov p r.d a)) (mkRaw p none 9 6 d a.code 0) = _
  refine (with_ok (pfx_none _ _ _ _ _ _ (hw.1)) _).trans ?_
  refine (withSrc_ok (srcOf_code _ _ (hw.2)) _).trans ?_
  rfl

theorem smov (p : Pfx) (d : BitVec 7) (a : Src) : Statement (.smov p d a) := by
  intro r hr hw
  obtain rfl : mkRaw p none 9 7 d a.code 0 = r := Option.some.inj hr
  simp only [Instr.wf, Bool.and_eq_true] at hw
  refine ⟨rfl, ?_⟩
  show (fun r : Raw => r.with .g false .none fun p => withSrc .both false r.a none fun a => check .both false (r.b.extractLsb' 1 7 == 0) (if r.b.getLsbD 0 then .smovHi p r.d a else .smov p r.d a)) (mkRaw p none 9 7 d a.code 0) = _
  refine (with_ok (pfx_none _ _ _ _ _ _ (hw.1)) _).trans ?_
  refine (withSrc_ok (srcOf_code _ _ (hw.2)) _).trans ?_
  simp [check, mkRaw]

theorem smovHi (p : Pfx) (d : BitVec 7) (a : Src) : Statement (.smovHi p d a) := by
  intro r hr hw
  obtain rfl : mkRaw p none 9 7 d a.code 1 = r := Option.some.inj hr
  simp only [Instr.wf, Bool.and_eq_true] at hw
  refine ⟨rfl, ?_⟩
  show (fun r : Raw => r.with .g false .none fun p => withSrc .both false r.a none fun a => check .both false (r.b.extractLsb' 1 7 == 0) (if r.b.getLsbD 0 then .smovHi p r.d a else .smov p r.d a)) (mkRaw p none 9 7 d a.code 1) = _
  refine (with_ok (pfx_none _ _ _ _ _ _ (hw.1)) _).trans ?_
  refine (withSrc_ok (srcOf_code _ _ (hw.2)) _).trans ?_
  simp [check, mkRaw]

theorem shl (p : Pfx) (d : BitVec 7) (a b : Src) : Statement (.shl p d a b) := by
  intro r hr hw
  obtain rfl : mkRaw p b.imm24 10 0 d a.code b.code = r := Option.some.inj hr
  simp only [Instr.wf, Bool.and_eq_true] at hw
  refine ⟨rfl, ?_⟩
  show (fun r : Raw => r.with .gz true .none fun p => withSrc .both false r.a none fun a => withSrc .both false r.b r.imx fun b => .ok (.shl p r.d a b)) (mkRaw p b.imm24 10 0 d a.code b.code) = _
  refine (with_ok (pfx_imx _ _ _ _ _ (hw.1)) _).trans ?_
  refine (withSrc_ok (srcOf_code _ _ (hw.2)) _).trans ?_
  refine (withSrc_ok (srcOf_imm24 _) _).trans ?_
  rfl

theorem shr (p : Pfx) (d : BitVec 7) (a b : Src) : Statement (.shr p d a b) := by
  intro r hr hw
  obtain rfl : mkRaw p b.imm24 10 1 d a.code b.code = r := Option.some.inj hr
  simp only [Instr.wf, Bool.and_eq_true] at hw
  refine ⟨rfl, ?_⟩
  show (fun r : Raw => r.with .gz true .none fun p => withSrc .both false r.a none fun a => withSrc .both false r.b r.imx fun b => .ok (.shr p r.d a b)) (mkRaw p b.imm24 10 1 d a.code b.code) = _
  refine (with_ok (pfx_imx _ _ _ _ _ (hw.1)) _).trans ?_
  refine (withSrc_ok (srcOf_code _ _ (hw.2)) _).trans ?_
  refine (withSrc_ok (srcOf_imm24 _) _).trans ?_
  rfl

theorem sra (p : Pfx) (d : BitVec 7) (a b : Src) : Statement (.sra p d a b) := by
  intro r hr hw
  obtain rfl : mkRaw p b.imm24 10 2 d a.code b.code = r := Option.some.inj hr
  simp only [Instr.wf, Bool.and_eq_true] at hw
  refine ⟨rfl, ?_⟩
  show (fun r : Raw => r.with .gz true .none fun p => withSrc .both false r.a none fun a => withSrc .both false r.b r.imx fun b => .ok (.sra p r.d a b)) (mkRaw p b.imm24 10 2 d a.code b.code) = _
  refine (with_ok (pfx_imx _ _ _ _ _ (hw.1)) _).trans ?_
  refine (withSrc_ok (srcOf_code _ _ (hw.2)) _).trans ?_
  refine (withSrc_ok (srcOf_imm24 _) _).trans ?_
  rfl

theorem popc (p : Pfx) (d : BitVec 7) (a : Src) : Statement (.popc p d a) := by
  intro r hr hw
  obtain rfl : mkRaw p none 10 3 d a.code 0 = r := Option.some.inj hr
  simp only [Instr.wf, Bool.and_eq_true] at hw
  refine ⟨rfl, ?_⟩
  show (fun r : Raw => r.with .gz true .none fun p => withSrc .both false r.a none fun a => check .both false r.bz (.popc p r.d a)) (mkRaw p none 10 3 d a.code 0) = _
  refine (with_ok (pfx_none _ _ _ _ _ _ (hw.1)) _).trans ?_
  refine (withSrc_ok (srcOf_code _ _ (hw.2)) _).trans ?_
  rfl

theorem clz (p : Pfx) (d : BitVec 7) (a : Src) : Statement (.clz p d a) := by
  intro r hr hw
  obtain rfl : mkRaw p none 10 4 d a.code 0 = r := Option.some.inj hr
  simp only [Instr.wf, Bool.and_eq_true] at hw
  refine ⟨rfl, ?_⟩
  show (fun r : Raw => r.with .gz true .none fun p => withSrc .both false r.a none fun a => check .both false r.bz (.clz p r.d a)) (mkRaw p none 10 4 d a.code 0) = _
  refine (with_ok (pfx_none _ _ _ _ _ _ (hw.1)) _).trans ?_
  refine (withSrc_ok (srcOf_code _ _ (hw.2)) _).trans ?_
  rfl

theorem brev (p : Pfx) (d : BitVec 7) (a : Src) : Statement (.brev p d a) := by
  intro r hr hw
  obtain rfl : mkRaw p none 10 5 d a.code 0 = r := Option.some.inj hr
  simp only [Instr.wf, Bool.and_eq_true] at hw
  refine ⟨rfl, ?_⟩
  show (fun r : Raw => r.with .gz true .none fun p => withSrc .both false r.a none fun a => check .both false r.bz (.brev p r.d a)) (mkRaw p none 10 5 d a.code 0) = _
  refine (with_ok (pfx_none _ _ _ _ _ _ (hw.1)) _).trans ?_
  refine (withSrc_ok (srcOf_code _ _ (hw.2)) _).trans ?_
  rfl

theorem bfe (p : Pfx) (d : BitVec 7) (a b : Src) : Statement (.bfe p d a b) := by
  intro r hr hw
  obtain rfl : mkRaw p b.imm24 11 0 d a.code b.code = r := Option.some.inj hr
  simp only [Instr.wf, Bool.and_eq_true] at hw
  refine ⟨rfl, ?_⟩
  show (fun r : Raw => r.with .gz true .none fun p => withSrc .both false r.a none fun a => withSrc .both false r.b r.imx fun b => .ok (.bfe p r.d a b)) (mkRaw p b.imm24 11 0 d a.code b.code) = _
  refine (with_ok (pfx_imx _ _ _ _ _ (hw.1)) _).trans ?_
  refine (withSrc_ok (srcOf_code _ _ (hw.2)) _).trans ?_
  refine (withSrc_ok (srcOf_imm24 _) _).trans ?_
  rfl

theorem bfeN (p : Pfx) (d : BitVec 7) (a b : Src) : Statement (.bfeN p d a b) := by
  intro r hr hw
  obtain rfl : mkRaw p b.imm24 11 1 d a.code b.code = r := Option.some.inj hr
  simp only [Instr.wf, Bool.and_eq_true] at hw
  refine ⟨rfl, ?_⟩
  show (fun r : Raw => r.with .gz true .none fun p => withSrc .both false r.a none fun a => withSrc .both false r.b r.imx fun b => .ok (.bfeN p r.d a b)) (mkRaw p b.imm24 11 1 d a.code b.code) = _
  refine (with_ok (pfx_imx _ _ _ _ _ (hw.1)) _).trans ?_
  refine (withSrc_ok (srcOf_code _ _ (hw.2)) _).trans ?_
  refine (withSrc_ok (srcOf_imm24 _) _).trans ?_
  rfl

theorem bfi (p : Pfx) (d : BitVec 7) (a b : Src) : Statement (.bfi p d a b) := by
  intro r hr hw
  obtain rfl : mkRaw p b.imm24 11 2 d a.code b.code = r := Option.some.inj hr
  simp only [Instr.wf, Bool.and_eq_true] at hw
  refine ⟨rfl, ?_⟩
  show (fun r : Raw => r.with .gz true .none fun p => withSrc .both false r.a none fun a => withSrc .both false r.b r.imx fun b => .ok (.bfi p r.d a b)) (mkRaw p b.imm24 11 2 d a.code b.code) = _
  refine (with_ok (pfx_imx _ _ _ _ _ (hw.1)) _).trans ?_
  refine (withSrc_ok (srcOf_code _ _ (hw.2)) _).trans ?_
  refine (withSrc_ok (srcOf_imm24 _) _).trans ?_
  rfl

theorem perm (p : Pfx) (d : BitVec 7) (a b : Src) : Statement (.perm p d a b) := by
  intro r hr hw
  obtain rfl : mkRaw p b.imm24 11 3 d a.code b.code = r := Option.some.inj hr
  simp only [Instr.wf, Bool.and_eq_true] at hw
  refine ⟨rfl, ?_⟩
  show (fun r : Raw => r.with .gzc true .none fun p => withSrc .both false r.a none fun a => withSrc .both false r.b r.imx fun b => .ok (.perm p r.d a b)) (mkRaw p b.imm24 11 3 d a.code b.code) = _
  refine (with_ok (pfx_imx _ _ _ _ _ (hw.1)) _).trans ?_
  refine (withSrc_ok (srcOf_code _ _ (hw.2)) _).trans ?_
  refine (withSrc_ok (srcOf_imm24 _) _).trans ?_
  rfl

theorem addI64 (p : Pfx) (d : BitVec 7) (a b : Src) : Statement (.addI64 p d a b) := by
  intro r hr hw
  obtain rfl : mkRaw p b.imm24 12 0 d a.code b.code = r := Option.some.inj hr
  simp only [Instr.wf, Bool.and_eq_true] at hw
  refine ⟨rfl, ?_⟩
  show (fun r : Raw => r.withC fun p => withSrc .eOnly false r.a none fun a => withSrc .eOnly false r.b r.imx fun b => .ok (.addI64 p r.d a b)) (mkRaw p b.imm24 12 0 d a.code b.code) = _
  refine (withC_ok _ _ _ _ _ (imm24_code _) hw.1 _).trans ?_
  refine (withSrc_ok (srcOf_code _ _ (hw.2)) _).trans ?_
  refine (withSrc_ok (srcOf_imm24 _) _).trans ?_
  rfl

theorem subI64 (p : Pfx) (d : BitVec 7) (a b : Src) : Statement (.subI64 p d a b) := by
  intro r hr hw
  obtain rfl : mkRaw p b.imm24 12 1 d a.code b.code = r := Option.some.inj hr
  simp only [Instr.wf, Bool.and_eq_true] at hw
  refine ⟨rfl, ?_⟩
  show (fun r : Raw => r.withC fun p => withSrc .eOnly false r.a none fun a => withSrc .eOnly false r.b r.imx fun b => .ok (.subI64 p r.d a b)) (mkRaw p b.imm24 12 1 d a.code b.code) = _
  refine (withC_ok _ _ _ _ _ (imm24_code _) hw.1 _).trans ?_
  refine (withSrc_ok (srcOf_code _ _ (hw.2)) _).trans ?_
  refine (withSrc_ok (srcOf_imm24 _) _).trans ?_
  rfl

theorem mulI64 (p : Pfx) (d : BitVec 7) (a b : Src) : Statement (.mulI64 p d a b) := by
  intro r hr hw
  obtain rfl : mkRaw p b.imm24 12 2 d a.code b.code = r := Option.some.inj hr
  simp only [Instr.wf, Bool.and_eq_true] at hw
  refine ⟨rfl, ?_⟩
  show (fun r : Raw => r.withC fun p => withSrc .eOnly false r.a none fun a => withSrc .eOnly false r.b r.imx fun b => .ok (.mulI64 p r.d a b)) (mkRaw p b.imm24 12 2 d a.code b.code) = _
  refine (withC_ok _ _ _ _ _ (imm24_code _) hw.1 _).trans ?_
  refine (withSrc_ok (srcOf_code _ _ (hw.2)) _).trans ?_
  refine (withSrc_ok (srcOf_imm24 _) _).trans ?_
  rfl

theorem shlI64 (p : Pfx) (d : BitVec 7) (a b : Src) : Statement (.shlI64 p d a b) := by
  intro r hr hw
  obtain rfl : mkRaw p b.imm24 12 3 d a.code b.code = r := Option.some.inj hr
  simp only [Instr.wf, Bool.and_eq_true] at hw
  refine ⟨rfl, ?_⟩
  show (fun r : Raw => r.withC fun p => withSrc .eOnly false r.a none fun a => withSrc .eOnly false r.b r.imx fun b => .ok (.shlI64 p r.d a b)) (mkRaw p b.imm24 12 3 d a.code b.code) = _
  refine (withC_ok _ _ _ _ _ (imm24_code _) hw.1 _).trans ?_
  refine (withSrc_ok (srcOf_code _ _ (hw.2)) _).trans ?_
  refine (withSrc_ok (srcOf_imm24 _) _).trans ?_
  rfl

theorem shrI64 (p : Pfx) (d : BitVec 7) (a b : Src) : Statement (.shrI64 p d a b) := by
  intro r hr hw
  obtain rfl : mkRaw p b.imm24 12 4 d a.code b.code = r := Option.some.inj hr
  simp only [Instr.wf, Bool.and_eq_true] at hw
  refine ⟨rfl, ?_⟩
  show (fun r : Raw => r.withC fun p => withSrc .eOnly false r.a none fun a => withSrc .eOnly false r.b r.imx fun b => .ok (.shrI64 p r.d a b)) (mkRaw p b.imm24 12 4 d a.code b.code) = _
  refine (withC_ok _ _ _ _ _ (imm24_code _) hw.1 _).trans ?_
  refine (withSrc_ok (srcOf_code _ _ (hw.2)) _).trans ?_
  refine (withSrc_ok (srcOf_imm24 _) _).trans ?_
  rfl

theorem movI64 (p : Pfx) (d : BitVec 7) (a : Src) : Statement (.movI64 p d a) := by
  intro r hr hw
  obtain rfl : mkRaw p none 12 5 d a.code 0 = r := Option.some.inj hr
  simp only [Instr.wf, Bool.and_eq_true] at hw
  refine ⟨rfl, ?_⟩
  show (fun r : Raw => r.withC fun p => withSrc .eOnly false r.a none fun a => check .eOnly false r.bz (.movI64 p r.d a)) (mkRaw p none 12 5 d a.code 0) = _
  refine (withC_ok _ _ _ _ _ rfl hw.1 _).trans ?_
  refine (withSrc_ok (srcOf_code _ _ (hw.2)) _).trans ?_
  rfl

theorem fadd (p : Pfx) (d : BitVec 7) (a b : Src) : Statement (.fadd p d a b) := by
  intro r hr hw
  obtain rfl : mkRaw p b.imm24 13 0 d a.code b.code = r := Option.some.inj hr
  simp only [Instr.wf, Bool.and_eq_true] at hw
  refine ⟨rfl, ?_⟩
  show (fun r : Raw => r.with .gzr true .none fun p => withSrc .eOnly false r.a none fun a => withSrc .eOnly false r.b r.imx fun b => .ok (.fadd p r.d a b)) (mkRaw p b.imm24 13 0 d a.code b.code) = _
  refine (with_ok (pfx_imx _ _ _ _ _ (hw.1)) _).trans ?_
  refine (withSrc_ok (srcOf_code _ _ (hw.2)) _).trans ?_
  refine (withSrc_ok (srcOf_imm24 _) _).trans ?_
  rfl

theorem fsub (p : Pfx) (d : BitVec 7) (a b : Src) : Statement (.fsub p d a b) := by
  intro r hr hw
  obtain rfl : mkRaw p b.imm24 13 1 d a.code b.code = r := Option.some.inj hr
  simp only [Instr.wf, Bool.and_eq_true] at hw
  refine ⟨rfl, ?_⟩
  show (fun r : Raw => r.with .gzr true .none fun p => withSrc .eOnly false r.a none fun a => withSrc .eOnly false r.b r.imx fun b => .ok (.fsub p r.d a b)) (mkRaw p b.imm24 13 1 d a.code b.code) = _
  refine (with_ok (pfx_imx _ _ _ _ _ (hw.1)) _).trans ?_
  refine (withSrc_ok (srcOf_code _ _ (hw.2)) _).trans ?_
  refine (withSrc_ok (srcOf_imm24 _) _).trans ?_
  rfl

theorem fmul (p : Pfx) (d : BitVec 7) (a b : Src) : Statement (.fmul p d a b) := by
  intro r hr hw
  obtain rfl : mkRaw p b.imm24 13 2 d a.code b.code = r := Option.some.inj hr
  simp only [Instr.wf, Bool.and_eq_true] at hw
  refine ⟨rfl, ?_⟩
  show (fun r : Raw => r.with .gzr true .none fun p => withSrc .eOnly false r.a none fun a => withSrc .eOnly false r.b r.imx fun b => .ok (.fmul p r.d a b)) (mkRaw p b.imm24 13 2 d a.code b.code) = _
  refine (with_ok (pfx_imx _ _ _ _ _ (hw.1)) _).trans ?_
  refine (withSrc_ok (srcOf_code _ _ (hw.2)) _).trans ?_
  refine (withSrc_ok (srcOf_imm24 _) _).trans ?_
  rfl

theorem ffma (p : Pfx) (d : BitVec 7) (a b : Src) : Statement (.ffma p d a b) := by
  intro r hr hw
  obtain rfl : mkRaw p b.imm24 13 3 d a.code b.code = r := Option.some.inj hr
  simp only [Instr.wf, Bool.and_eq_true] at hw
  refine ⟨rfl, ?_⟩
  show (fun r : Raw => r.with .gzrc true .none fun p => withSrc .eOnly false r.a none fun a => withSrc .eOnly false r.b r.imx fun b => .ok (.ffma p r.d a b)) (mkRaw p b.imm24 13 3 d a.code b.code) = _
  refine (with_ok (pfx_imx _ _ _ _ _ (hw.1)) _).trans ?_
  refine (withSrc_ok (srcOf_code _ _ (hw.2)) _).trans ?_
  refine (withSrc_ok (srcOf_imm24 _) _).trans ?_
  rfl

theorem fmin (p : Pfx) (d : BitVec 7) (a b : Src) : Statement (.fmin p d a b) := by
  intro r hr hw
  obtain rfl : mkRaw p b.imm24 13 4 d a.code b.code = r := Option.some.inj hr
  simp only [Instr.wf, Bool.and_eq_true] at hw
  refine ⟨rfl, ?_⟩
  show (fun r : Raw => r.with .gzr true .none fun p => withSrc .eOnly false r.a none fun a => withSrc .eOnly false r.b r.imx fun b => .ok (.fmin p r.d a b)) (mkRaw p b.imm24 13 4 d a.code b.code) = _
  refine (with_ok (pfx_imx _ _ _ _ _ (hw.1)) _).trans ?_
  refine (withSrc_ok (srcOf_code _ _ (hw.2)) _).trans ?_
  refine (withSrc_ok (srcOf_imm24 _) _).trans ?_
  rfl

theorem fmax (p : Pfx) (d : BitVec 7) (a b : Src) : Statement (.fmax p d a b) := by
  intro r hr hw
  obtain rfl : mkRaw p b.imm24 13 5 d a.code b.code = r := Option.some.inj hr
  simp only [Instr.wf, Bool.and_eq_true] at hw
  refine ⟨rfl, ?_⟩
  show (fun r : Raw => r.with .gzr true .none fun p => withSrc .eOnly false r.a none fun a => withSrc .eOnly false r.b r.imx fun b => .ok (.fmax p r.d a b)) (mkRaw p b.imm24 13 5 d a.code b.code) = _
  refine (with_ok (pfx_imx _ _ _ _ _ (hw.1)) _).trans ?_
  refine (withSrc_ok (srcOf_code _ _ (hw.2)) _).trans ?_
  refine (withSrc_ok (srcOf_imm24 _) _).trans ?_
  rfl

theorem fabs (p : Pfx) (d : BitVec 7) (a : Src) : Statement (.fabs p d a) := by
  intro r hr hw
  obtain rfl : mkRaw p none 13 6 d a.code 0 = r := Option.some.inj hr
  simp only [Instr.wf, Bool.and_eq_true] at hw
  refine ⟨rfl, ?_⟩
  show (fun r : Raw => r.with .gzr true .none fun p => withSrc .eOnly false r.a none fun a => check .eOnly false r.bz (.fabs p r.d a)) (mkRaw p none 13 6 d a.code 0) = _
  refine (with_ok (pfx_none _ _ _ _ _ _ (hw.1)) _).trans ?_
  refine (withSrc_ok (srcOf_code _ _ (hw.2)) _).trans ?_
  rfl

theorem fneg (p : Pfx) (d : BitVec 7) (a : Src) : Statement (.fneg p d a) := by
  intro r hr hw
  obtain rfl : mkRaw p none 13 7 d a.code 0 = r := Option.some.inj hr
  simp only [Instr.wf, Bool.and_eq_true] at hw
  refine ⟨rfl, ?_⟩
  show (fun r : Raw => r.with .gzr true .none fun p => withSrc .eOnly false r.a none fun a => check .eOnly false r.bz (.fneg p r.d a)) (mkRaw p none 13 7 d a.code 0) = _
  refine (with_ok (pfx_none _ _ _ _ _ _ (hw.1)) _).trans ?_
  refine (withSrc_ok (srcOf_code _ _ (hw.2)) _).trans ?_
  rfl

theorem faddF16x2 (p : Pfx) (d : BitVec 7) (a b : Src) : Statement (.faddF16x2 p d a b) := by
  intro r hr hw
  obtain rfl : mkRaw p b.imm24 14 0 d a.code b.code = r := Option.some.inj hr
  simp only [Instr.wf, Bool.and_eq_true] at hw
  refine ⟨rfl, ?_⟩
  show (fun r : Raw => r.with .gzr true .none fun p => withPair r.b r.imx fun b => withSrc .eOnly false r.a none fun a => .ok (.faddF16x2 p r.d a b)) (mkRaw p b.imm24 14 0 d a.code b.code) = _
  refine (with_ok (pfx_imx _ _ _ _ _ (hw.1.1)) _).trans ?_
  refine (withPair_ok (hw.2) _).trans ?_
  refine (withSrc_ok (srcOf_code _ _ (hw.1.2)) _).trans ?_
  rfl

theorem fsubF16x2 (p : Pfx) (d : BitVec 7) (a b : Src) : Statement (.fsubF16x2 p d a b) := by
  intro r hr hw
  obtain rfl : mkRaw p b.imm24 14 1 d a.code b.code = r := Option.some.inj hr
  simp only [Instr.wf, Bool.and_eq_true] at hw
  refine ⟨rfl, ?_⟩
  show (fun r : Raw => r.with .gzr true .none fun p => withPair r.b r.imx fun b => withSrc .eOnly false r.a none fun a => .ok (.fsubF16x2 p r.d a b)) (mkRaw p b.imm24 14 1 d a.code b.code) = _
  refine (with_ok (pfx_imx _ _ _ _ _ (hw.1.1)) _).trans ?_
  refine (withPair_ok (hw.2) _).trans ?_
  refine (withSrc_ok (srcOf_code _ _ (hw.1.2)) _).trans ?_
  rfl

theorem fmulF16x2 (p : Pfx) (d : BitVec 7) (a b : Src) : Statement (.fmulF16x2 p d a b) := by
  intro r hr hw
  obtain rfl : mkRaw p b.imm24 14 2 d a.code b.code = r := Option.some.inj hr
  simp only [Instr.wf, Bool.and_eq_true] at hw
  refine ⟨rfl, ?_⟩
  show (fun r : Raw => r.with .gzr true .none fun p => withPair r.b r.imx fun b => withSrc .eOnly false r.a none fun a => .ok (.fmulF16x2 p r.d a b)) (mkRaw p b.imm24 14 2 d a.code b.code) = _
  refine (with_ok (pfx_imx _ _ _ _ _ (hw.1.1)) _).trans ?_
  refine (withPair_ok (hw.2) _).trans ?_
  refine (withSrc_ok (srcOf_code _ _ (hw.1.2)) _).trans ?_
  rfl

theorem ffmaF16x2 (p : Pfx) (d : BitVec 7) (a b : Src) : Statement (.ffmaF16x2 p d a b) := by
  intro r hr hw
  obtain rfl : mkRaw p b.imm24 14 3 d a.code b.code = r := Option.some.inj hr
  simp only [Instr.wf, Bool.and_eq_true] at hw
  refine ⟨rfl, ?_⟩
  show (fun r : Raw => r.with .gzrc true .none fun p => withPair r.b r.imx fun b => withSrc .eOnly false r.a none fun a => .ok (.ffmaF16x2 p r.d a b)) (mkRaw p b.imm24 14 3 d a.code b.code) = _
  refine (with_ok (pfx_imx _ _ _ _ _ (hw.1.1)) _).trans ?_
  refine (withPair_ok (hw.2) _).trans ?_
  refine (withSrc_ok (srcOf_code _ _ (hw.1.2)) _).trans ?_
  rfl

theorem fminF16x2 (p : Pfx) (d : BitVec 7) (a b : Src) : Statement (.fminF16x2 p d a b) := by
  intro r hr hw
  obtain rfl : mkRaw p b.imm24 14 4 d a.code b.code = r := Option.some.inj hr
  simp only [Instr.wf, Bool.and_eq_true] at hw
  refine ⟨rfl, ?_⟩
  show (fun r : Raw => r.with .gzr true .none fun p => withPair r.b r.imx fun b => withSrc .eOnly false r.a none fun a => .ok (.fminF16x2 p r.d a b)) (mkRaw p b.imm24 14 4 d a.code b.code) = _
  refine (with_ok (pfx_imx _ _ _ _ _ (hw.1.1)) _).trans ?_
  refine (withPair_ok (hw.2) _).trans ?_
  refine (withSrc_ok (srcOf_code _ _ (hw.1.2)) _).trans ?_
  rfl

theorem fmaxF16x2 (p : Pfx) (d : BitVec 7) (a b : Src) : Statement (.fmaxF16x2 p d a b) := by
  intro r hr hw
  obtain rfl : mkRaw p b.imm24 14 5 d a.code b.code = r := Option.some.inj hr
  simp only [Instr.wf, Bool.and_eq_true] at hw
  refine ⟨rfl, ?_⟩
  show (fun r : Raw => r.with .gzr true .none fun p => withPair r.b r.imx fun b => withSrc .eOnly false r.a none fun a => .ok (.fmaxF16x2 p r.d a b)) (mkRaw p b.imm24 14 5 d a.code b.code) = _
  refine (with_ok (pfx_imx _ _ _ _ _ (hw.1.1)) _).trans ?_
  refine (withPair_ok (hw.2) _).trans ?_
  refine (withSrc_ok (srcOf_code _ _ (hw.1.2)) _).trans ?_
  rfl

theorem fabsF16x2 (p : Pfx) (d : BitVec 7) (a : Src) : Statement (.fabsF16x2 p d a) := by
  intro r hr hw
  obtain rfl : mkRaw p none 14 6 d a.code 0 = r := Option.some.inj hr
  simp only [Instr.wf, Bool.and_eq_true] at hw
  refine ⟨rfl, ?_⟩
  show (fun r : Raw => r.with .gzr true .none fun p => withSrc .eOnly false r.a none fun a => check .eOnly false r.bz (.fabsF16x2 p r.d a)) (mkRaw p none 14 6 d a.code 0) = _
  refine (with_ok (pfx_none _ _ _ _ _ _ (hw.1)) _).trans ?_
  refine (withSrc_ok (srcOf_code _ _ (hw.2)) _).trans ?_
  rfl

theorem fnegF16x2 (p : Pfx) (d : BitVec 7) (a : Src) : Statement (.fnegF16x2 p d a) := by
  intro r hr hw
  obtain rfl : mkRaw p none 14 7 d a.code 0 = r := Option.some.inj hr
  simp only [Instr.wf, Bool.and_eq_true] at hw
  refine ⟨rfl, ?_⟩
  show (fun r : Raw => r.with .gzr true .none fun p => withSrc .eOnly false r.a none fun a => check .eOnly false r.bz (.fnegF16x2 p r.d a)) (mkRaw p none 14 7 d a.code 0) = _
  refine (with_ok (pfx_none _ _ _ _ _ _ (hw.1)) _).trans ?_
  refine (withSrc_ok (srcOf_code _ _ (hw.2)) _).trans ?_
  rfl

theorem faddBf16x2 (p : Pfx) (d : BitVec 7) (a b : Src) : Statement (.faddBf16x2 p d a b) := by
  intro r hr hw
  obtain rfl : mkRaw p b.imm24 15 0 d a.code b.code = r := Option.some.inj hr
  simp only [Instr.wf, Bool.and_eq_true] at hw
  refine ⟨rfl, ?_⟩
  show (fun r : Raw => r.with .gzr true .none fun p => withPair r.b r.imx fun b => withSrc .eOnly false r.a none fun a => .ok (.faddBf16x2 p r.d a b)) (mkRaw p b.imm24 15 0 d a.code b.code) = _
  refine (with_ok (pfx_imx _ _ _ _ _ (hw.1.1)) _).trans ?_
  refine (withPair_ok (hw.2) _).trans ?_
  refine (withSrc_ok (srcOf_code _ _ (hw.1.2)) _).trans ?_
  rfl

theorem fsubBf16x2 (p : Pfx) (d : BitVec 7) (a b : Src) : Statement (.fsubBf16x2 p d a b) := by
  intro r hr hw
  obtain rfl : mkRaw p b.imm24 15 1 d a.code b.code = r := Option.some.inj hr
  simp only [Instr.wf, Bool.and_eq_true] at hw
  refine ⟨rfl, ?_⟩
  show (fun r : Raw => r.with .gzr true .none fun p => withPair r.b r.imx fun b => withSrc .eOnly false r.a none fun a => .ok (.fsubBf16x2 p r.d a b)) (mkRaw p b.imm24 15 1 d a.code b.code) = _
  refine (with_ok (pfx_imx _ _ _ _ _ (hw.1.1)) _).trans ?_
  refine (withPair_ok (hw.2) _).trans ?_
  refine (withSrc_ok (srcOf_code _ _ (hw.1.2)) _).trans ?_
  rfl

theorem fmulBf16x2 (p : Pfx) (d : BitVec 7) (a b : Src) : Statement (.fmulBf16x2 p d a b) := by
  intro r hr hw
  obtain rfl : mkRaw p b.imm24 15 2 d a.code b.code = r := Option.some.inj hr
  simp only [Instr.wf, Bool.and_eq_true] at hw
  refine ⟨rfl, ?_⟩
  show (fun r : Raw => r.with .gzr true .none fun p => withPair r.b r.imx fun b => withSrc .eOnly false r.a none fun a => .ok (.fmulBf16x2 p r.d a b)) (mkRaw p b.imm24 15 2 d a.code b.code) = _
  refine (with_ok (pfx_imx _ _ _ _ _ (hw.1.1)) _).trans ?_
  refine (withPair_ok (hw.2) _).trans ?_
  refine (withSrc_ok (srcOf_code _ _ (hw.1.2)) _).trans ?_
  rfl

theorem ffmaBf16x2 (p : Pfx) (d : BitVec 7) (a b : Src) : Statement (.ffmaBf16x2 p d a b) := by
  intro r hr hw
  obtain rfl : mkRaw p b.imm24 15 3 d a.code b.code = r := Option.some.inj hr
  simp only [Instr.wf, Bool.and_eq_true] at hw
  refine ⟨rfl, ?_⟩
  show (fun r : Raw => r.with .gzrc true .none fun p => withPair r.b r.imx fun b => withSrc .eOnly false r.a none fun a => .ok (.ffmaBf16x2 p r.d a b)) (mkRaw p b.imm24 15 3 d a.code b.code) = _
  refine (with_ok (pfx_imx _ _ _ _ _ (hw.1.1)) _).trans ?_
  refine (withPair_ok (hw.2) _).trans ?_
  refine (withSrc_ok (srcOf_code _ _ (hw.1.2)) _).trans ?_
  rfl

theorem fminBf16x2 (p : Pfx) (d : BitVec 7) (a b : Src) : Statement (.fminBf16x2 p d a b) := by
  intro r hr hw
  obtain rfl : mkRaw p b.imm24 15 4 d a.code b.code = r := Option.some.inj hr
  simp only [Instr.wf, Bool.and_eq_true] at hw
  refine ⟨rfl, ?_⟩
  show (fun r : Raw => r.with .gzr true .none fun p => withPair r.b r.imx fun b => withSrc .eOnly false r.a none fun a => .ok (.fminBf16x2 p r.d a b)) (mkRaw p b.imm24 15 4 d a.code b.code) = _
  refine (with_ok (pfx_imx _ _ _ _ _ (hw.1.1)) _).trans ?_
  refine (withPair_ok (hw.2) _).trans ?_
  refine (withSrc_ok (srcOf_code _ _ (hw.1.2)) _).trans ?_
  rfl

theorem fmaxBf16x2 (p : Pfx) (d : BitVec 7) (a b : Src) : Statement (.fmaxBf16x2 p d a b) := by
  intro r hr hw
  obtain rfl : mkRaw p b.imm24 15 5 d a.code b.code = r := Option.some.inj hr
  simp only [Instr.wf, Bool.and_eq_true] at hw
  refine ⟨rfl, ?_⟩
  show (fun r : Raw => r.with .gzr true .none fun p => withPair r.b r.imx fun b => withSrc .eOnly false r.a none fun a => .ok (.fmaxBf16x2 p r.d a b)) (mkRaw p b.imm24 15 5 d a.code b.code) = _
  refine (with_ok (pfx_imx _ _ _ _ _ (hw.1.1)) _).trans ?_
  refine (withPair_ok (hw.2) _).trans ?_
  refine (withSrc_ok (srcOf_code _ _ (hw.1.2)) _).trans ?_
  rfl

theorem fabsBf16x2 (p : Pfx) (d : BitVec 7) (a : Src) : Statement (.fabsBf16x2 p d a) := by
  intro r hr hw
  obtain rfl : mkRaw p none 15 6 d a.code 0 = r := Option.some.inj hr
  simp only [Instr.wf, Bool.and_eq_true] at hw
  refine ⟨rfl, ?_⟩
  show (fun r : Raw => r.with .gzr true .none fun p => withSrc .eOnly false r.a none fun a => check .eOnly false r.bz (.fabsBf16x2 p r.d a)) (mkRaw p none 15 6 d a.code 0) = _
  refine (with_ok (pfx_none _ _ _ _ _ _ (hw.1)) _).trans ?_
  refine (withSrc_ok (srcOf_code _ _ (hw.2)) _).trans ?_
  rfl

theorem fnegBf16x2 (p : Pfx) (d : BitVec 7) (a : Src) : Statement (.fnegBf16x2 p d a) := by
  intro r hr hw
  obtain rfl : mkRaw p none 15 7 d a.code 0 = r := Option.some.inj hr
  simp only [Instr.wf, Bool.and_eq_true] at hw
  refine ⟨rfl, ?_⟩
  show (fun r : Raw => r.with .gzr true .none fun p => withSrc .eOnly false r.a none fun a => check .eOnly false r.bz (.fnegBf16x2 p r.d a)) (mkRaw p none 15 7 d a.code 0) = _
  refine (with_ok (pfx_none _ _ _ _ _ _ (hw.1)) _).trans ?_
  refine (withSrc_ok (srcOf_code _ _ (hw.2)) _).trans ?_
  rfl

theorem faddF64 (p : Pfx) (d : BitVec 7) (a b : Src) : Statement (.faddF64 p d a b) := by
  intro r hr hw
  obtain rfl : mkRaw p b.imm24 16 0 d a.code b.code = r := Option.some.inj hr
  simp only [Instr.wf, Bool.and_eq_true] at hw
  refine ⟨rfl, ?_⟩
  show (fun r : Raw => r.with .gzr true .none fun p => withSrc .eOnly false r.a none fun a => withSrc .eOnly false r.b r.imx fun b => .ok (.faddF64 p r.d a b)) (mkRaw p b.imm24 16 0 d a.code b.code) = _
  refine (with_ok (pfx_imx _ _ _ _ _ (hw.1)) _).trans ?_
  refine (withSrc_ok (srcOf_code _ _ (hw.2)) _).trans ?_
  refine (withSrc_ok (srcOf_imm24 _) _).trans ?_
  rfl

theorem fsubF64 (p : Pfx) (d : BitVec 7) (a b : Src) : Statement (.fsubF64 p d a b) := by
  intro r hr hw
  obtain rfl : mkRaw p b.imm24 16 1 d a.code b.code = r := Option.some.inj hr
  simp only [Instr.wf, Bool.and_eq_true] at hw
  refine ⟨rfl, ?_⟩
  show (fun r : Raw => r.with .gzr true .none fun p => withSrc .eOnly false r.a none fun a => withSrc .eOnly false r.b r.imx fun b => .ok (.fsubF64 p r.d a b)) (mkRaw p b.imm24 16 1 d a.code b.code) = _
  refine (with_ok (pfx_imx _ _ _ _ _ (hw.1)) _).trans ?_
  refine (withSrc_ok (srcOf_code _ _ (hw.2)) _).trans ?_
  refine (withSrc_ok (srcOf_imm24 _) _).trans ?_
  rfl

theorem fmulF64 (p : Pfx) (d : BitVec 7) (a b : Src) : Statement (.fmulF64 p d a b) := by
  intro r hr hw
  obtain rfl : mkRaw p b.imm24 16 2 d a.code b.code = r := Option.some.inj hr
  simp only [Instr.wf, Bool.and_eq_true] at hw
  refine ⟨rfl, ?_⟩
  show (fun r : Raw => r.with .gzr true .none fun p => withSrc .eOnly false r.a none fun a => withSrc .eOnly false r.b r.imx fun b => .ok (.fmulF64 p r.d a b)) (mkRaw p b.imm24 16 2 d a.code b.code) = _
  refine (with_ok (pfx_imx _ _ _ _ _ (hw.1)) _).trans ?_
  refine (withSrc_ok (srcOf_code _ _ (hw.2)) _).trans ?_
  refine (withSrc_ok (srcOf_imm24 _) _).trans ?_
  rfl

theorem ffmaF64 (p : Pfx) (d : BitVec 7) (a b : Src) : Statement (.ffmaF64 p d a b) := by
  intro r hr hw
  obtain rfl : mkRaw p b.imm24 16 3 d a.code b.code = r := Option.some.inj hr
  simp only [Instr.wf, Bool.and_eq_true] at hw
  refine ⟨rfl, ?_⟩
  show (fun r : Raw => r.with .gzrc true .none fun p => withSrc .eOnly false r.a none fun a => withSrc .eOnly false r.b r.imx fun b => .ok (.ffmaF64 p r.d a b)) (mkRaw p b.imm24 16 3 d a.code b.code) = _
  refine (with_ok (pfx_imx _ _ _ _ _ (hw.1)) _).trans ?_
  refine (withSrc_ok (srcOf_code _ _ (hw.2)) _).trans ?_
  refine (withSrc_ok (srcOf_imm24 _) _).trans ?_
  rfl

theorem fminF64 (p : Pfx) (d : BitVec 7) (a b : Src) : Statement (.fminF64 p d a b) := by
  intro r hr hw
  obtain rfl : mkRaw p b.imm24 16 4 d a.code b.code = r := Option.some.inj hr
  simp only [Instr.wf, Bool.and_eq_true] at hw
  refine ⟨rfl, ?_⟩
  show (fun r : Raw => r.with .gzr true .none fun p => withSrc .eOnly false r.a none fun a => withSrc .eOnly false r.b r.imx fun b => .ok (.fminF64 p r.d a b)) (mkRaw p b.imm24 16 4 d a.code b.code) = _
  refine (with_ok (pfx_imx _ _ _ _ _ (hw.1)) _).trans ?_
  refine (withSrc_ok (srcOf_code _ _ (hw.2)) _).trans ?_
  refine (withSrc_ok (srcOf_imm24 _) _).trans ?_
  rfl

theorem fmaxF64 (p : Pfx) (d : BitVec 7) (a b : Src) : Statement (.fmaxF64 p d a b) := by
  intro r hr hw
  obtain rfl : mkRaw p b.imm24 16 5 d a.code b.code = r := Option.some.inj hr
  simp only [Instr.wf, Bool.and_eq_true] at hw
  refine ⟨rfl, ?_⟩
  show (fun r : Raw => r.with .gzr true .none fun p => withSrc .eOnly false r.a none fun a => withSrc .eOnly false r.b r.imx fun b => .ok (.fmaxF64 p r.d a b)) (mkRaw p b.imm24 16 5 d a.code b.code) = _
  refine (with_ok (pfx_imx _ _ _ _ _ (hw.1)) _).trans ?_
  refine (withSrc_ok (srcOf_code _ _ (hw.2)) _).trans ?_
  refine (withSrc_ok (srcOf_imm24 _) _).trans ?_
  rfl

theorem fabsF64 (p : Pfx) (d : BitVec 7) (a : Src) : Statement (.fabsF64 p d a) := by
  intro r hr hw
  obtain rfl : mkRaw p none 16 6 d a.code 0 = r := Option.some.inj hr
  simp only [Instr.wf, Bool.and_eq_true] at hw
  refine ⟨rfl, ?_⟩
  show (fun r : Raw => r.with .gzr true .none fun p => withSrc .eOnly false r.a none fun a => check .eOnly false r.bz (.fabsF64 p r.d a)) (mkRaw p none 16 6 d a.code 0) = _
  refine (with_ok (pfx_none _ _ _ _ _ _ (hw.1)) _).trans ?_
  refine (withSrc_ok (srcOf_code _ _ (hw.2)) _).trans ?_
  rfl

theorem fnegF64 (p : Pfx) (d : BitVec 7) (a : Src) : Statement (.fnegF64 p d a) := by
  intro r hr hw
  obtain rfl : mkRaw p none 16 7 d a.code 0 = r := Option.some.inj hr
  simp only [Instr.wf, Bool.and_eq_true] at hw
  refine ⟨rfl, ?_⟩
  show (fun r : Raw => r.with .gzr true .none fun p => withSrc .eOnly false r.a none fun a => check .eOnly false r.bz (.fnegF64 p r.d a)) (mkRaw p none 16 7 d a.code 0) = _
  refine (with_ok (pfx_none _ _ _ _ _ _ (hw.1)) _).trans ?_
  refine (withSrc_ok (srcOf_code _ _ (hw.2)) _).trans ?_
  rfl

theorem frcp (p : Pfx) (d : BitVec 7) (a : Src) : Statement (.frcp p d a) := by
  intro r hr hw
  obtain rfl : mkRaw p none 17 0 d a.code 0 = r := Option.some.inj hr
  simp only [Instr.wf, Bool.and_eq_true] at hw
  refine ⟨rfl, ?_⟩
  show (fun r : Raw => r.with .gzr false .none fun p => withSrc .eOnly false r.a none fun a => check .eOnly false r.bz (.frcp p r.d a)) (mkRaw p none 17 0 d a.code 0) = _
  refine (with_ok (pfx_none _ _ _ _ _ _ (hw.1)) _).trans ?_
  refine (withSrc_ok (srcOf_code _ _ (hw.2)) _).trans ?_
  rfl

theorem frsq (p : Pfx) (d : BitVec 7) (a : Src) : Statement (.frsq p d a) := by
  intro r hr hw
  obtain rfl : mkRaw p none 17 1 d a.code 0 = r := Option.some.inj hr
  simp only [Instr.wf, Bool.and_eq_true] at hw
  refine ⟨rfl, ?_⟩
  show (fun r : Raw => r.with .gzr false .none fun p => withSrc .eOnly false r.a none fun a => check .eOnly false r.bz (.frsq p r.d a)) (mkRaw p none 17 1 d a.code 0) = _
  refine (with_ok (pfx_none _ _ _ _ _ _ (hw.1)) _).trans ?_
  refine (withSrc_ok (srcOf_code _ _ (hw.2)) _).trans ?_
  rfl

theorem fsqrt (p : Pfx) (d : BitVec 7) (a : Src) : Statement (.fsqrt p d a) := by
  intro r hr hw
  obtain rfl : mkRaw p none 17 2 d a.code 0 = r := Option.some.inj hr
  simp only [Instr.wf, Bool.and_eq_true] at hw
  refine ⟨rfl, ?_⟩
  show (fun r : Raw => r.with .gzr false .none fun p => withSrc .eOnly false r.a none fun a => check .eOnly false r.bz (.fsqrt p r.d a)) (mkRaw p none 17 2 d a.code 0) = _
  refine (with_ok (pfx_none _ _ _ _ _ _ (hw.1)) _).trans ?_
  refine (withSrc_ok (srcOf_code _ _ (hw.2)) _).trans ?_
  rfl

theorem fexp2 (p : Pfx) (d : BitVec 7) (a : Src) : Statement (.fexp2 p d a) := by
  intro r hr hw
  obtain rfl : mkRaw p none 17 3 d a.code 0 = r := Option.some.inj hr
  simp only [Instr.wf, Bool.and_eq_true] at hw
  refine ⟨rfl, ?_⟩
  show (fun r : Raw => r.with .gzr false .none fun p => withSrc .eOnly false r.a none fun a => check .eOnly false r.bz (.fexp2 p r.d a)) (mkRaw p none 17 3 d a.code 0) = _
  refine (with_ok (pfx_none _ _ _ _ _ _ (hw.1)) _).trans ?_
  refine (withSrc_ok (srcOf_code _ _ (hw.2)) _).trans ?_
  rfl

theorem flog2 (p : Pfx) (d : BitVec 7) (a : Src) : Statement (.flog2 p d a) := by
  intro r hr hw
  obtain rfl : mkRaw p none 17 4 d a.code 0 = r := Option.some.inj hr
  simp only [Instr.wf, Bool.and_eq_true] at hw
  refine ⟨rfl, ?_⟩
  show (fun r : Raw => r.with .gzr false .none fun p => withSrc .eOnly false r.a none fun a => check .eOnly false r.bz (.flog2 p r.d a)) (mkRaw p none 17 4 d a.code 0) = _
  refine (with_ok (pfx_none _ _ _ _ _ _ (hw.1)) _).trans ?_
  refine (withSrc_ok (srcOf_code _ _ (hw.2)) _).trans ?_
  rfl

theorem fdiv (p : Pfx) (d : BitVec 7) (a b : Src) : Statement (.fdiv p d a b) := by
  intro r hr hw
  obtain rfl : mkRaw p b.imm24 17 5 d a.code b.code = r := Option.some.inj hr
  simp only [Instr.wf, Bool.and_eq_true] at hw
  refine ⟨rfl, ?_⟩
  show (fun r : Raw => r.with .gzr true .none fun p => withSrc .eOnly false r.a none fun a => withSrc .eOnly false r.b r.imx fun b => .ok (.fdiv p r.d a b)) (mkRaw p b.imm24 17 5 d a.code b.code) = _
  refine (with_ok (pfx_imx _ _ _ _ _ (hw.1)) _).trans ?_
  refine (withSrc_ok (srcOf_code _ _ (hw.2)) _).trans ?_
  refine (withSrc_ok (srcOf_imm24 _) _).trans ?_
  rfl

theorem frnd (p : Pfx) (d : BitVec 7) (a : Src) : Statement (.frnd p d a) := by
  intro r hr hw
  obtain rfl : mkRaw p none 18 0 d a.code 0 = r := Option.some.inj hr
  simp only [Instr.wf, Bool.and_eq_true] at hw
  refine ⟨rfl, ?_⟩
  show (fun r : Raw => r.with .gzr false .none fun p => withSrc .eOnly false r.a none fun a => check .eOnly false r.bz (.frnd p r.d a)) (mkRaw p none 18 0 d a.code 0) = _
  refine (with_ok (pfx_none _ _ _ _ _ _ (hw.1)) _).trans ?_
  refine (withSrc_ok (srcOf_code _ _ (hw.2)) _).trans ?_
  rfl

theorem fclass (p : Pfx) (d : BitVec 7) (a b : Src) : Statement (.fclass p d a b) := by
  intro r hr hw
  obtain rfl : mkRaw p b.imm24 18 1 d a.code b.code = r := Option.some.inj hr
  simp only [Instr.wf, Bool.and_eq_true] at hw
  refine ⟨rfl, ?_⟩
  show (fun r : Raw => r.with .gz true .none fun p => withSrc .eOnly false r.a none fun a => withSrc .eOnly false r.b r.imx fun b => .ok (.fclass p r.d a b)) (mkRaw p b.imm24 18 1 d a.code b.code) = _
  refine (with_ok (pfx_imx _ _ _ _ _ (hw.1)) _).trans ?_
  refine (withSrc_ok (srcOf_code _ _ (hw.2)) _).trans ?_
  refine (withSrc_ok (srcOf_imm24 _) _).trans ?_
  rfl

theorem fflag (p : Pfx) (d : BitVec 7) (b : Src) : Statement (.fflag p d b) := by
  intro r hr hw
  obtain rfl : mkRaw p b.imm24 18 2 d 0 b.code = r := Option.some.inj hr
  simp only [Instr.wf] at hw
  refine ⟨rfl, ?_⟩
  show (fun r : Raw => r.with .gz true .none fun p => withSrc .eOnly false r.b r.imx fun b => check .eOnly false r.az (.fflag p r.d b)) (mkRaw p b.imm24 18 2 d 0 b.code) = _
  refine (with_ok (pfx_imx _ _ _ _ _ (hw)) _).trans ?_
  refine (withSrc_ok (srcOf_imm24 _) _).trans ?_
  rfl

theorem fscl (p : Pfx) (d : BitVec 7) (a b : Src) : Statement (.fscl p d a b) := by
  intro r hr hw
  obtain rfl : mkRaw p b.imm24 18 3 d a.code b.code = r := Option.some.inj hr
  simp only [Instr.wf, Bool.and_eq_true] at hw
  refine ⟨rfl, ?_⟩
  show (fun r : Raw => r.with .gzr true .none fun p => withSrc .eOnly false r.a none fun a => withSrc .eOnly false r.b r.imx fun b => .ok (.fscl p r.d a b)) (mkRaw p b.imm24 18 3 d a.code b.code) = _
  refine (with_ok (pfx_imx _ _ _ _ _ (hw.1)) _).trans ?_
  refine (withSrc_ok (srcOf_code _ _ (hw.2)) _).trans ?_
  refine (withSrc_ok (srcOf_imm24 _) _).trans ?_
  rfl

theorem fdot2 (p : Pfx) (d : BitVec 7) (a b : Src) : Statement (.fdot2 p d a b) := by
  intro r hr hw
  obtain rfl : mkRaw p b.imm24 18 4 d a.code b.code = r := Option.some.inj hr
  simp only [Instr.wf, Bool.and_eq_true] at hw
  refine ⟨rfl, ?_⟩
  show (fun r : Raw => r.with .gzrc true .none fun p => withSrc .eOnly false r.a none fun a => withSrc .eOnly false r.b r.imx fun b => .ok (.fdot2 p r.d a b)) (mkRaw p b.imm24 18 4 d a.code b.code) = _
  refine (with_ok (pfx_imx _ _ _ _ _ (hw.1)) _).trans ?_
  refine (withSrc_ok (srcOf_code _ _ (hw.2)) _).trans ?_
  refine (withSrc_ok (srcOf_imm24 _) _).trans ?_
  rfl

theorem fdot4 (p : Pfx) (d : BitVec 7) (a b : Src) : Statement (.fdot4 p d a b) := by
  intro r hr hw
  obtain rfl : mkRaw p b.imm24 18 5 d a.code b.code = r := Option.some.inj hr
  simp only [Instr.wf, Bool.and_eq_true] at hw
  refine ⟨rfl, ?_⟩
  show (fun r : Raw => r.with .gzrc true .none fun p => withSrc .eOnly false r.a none fun a => withSrc .eOnly false r.b r.imx fun b => .ok (.fdot4 p r.d a b)) (mkRaw p b.imm24 18 5 d a.code b.code) = _
  refine (with_ok (pfx_imx _ _ _ _ _ (hw.1)) _).trans ?_
  refine (withSrc_ok (srcOf_code _ _ (hw.2)) _).trans ?_
  refine (withSrc_ok (srcOf_imm24 _) _).trans ?_
  rfl

theorem fdot8 (p : Pfx) (d : BitVec 7) (a b : Src) : Statement (.fdot8 p d a b) := by
  intro r hr hw
  obtain rfl : mkRaw p b.imm24 18 6 d a.code b.code = r := Option.some.inj hr
  simp only [Instr.wf, Bool.and_eq_true] at hw
  refine ⟨rfl, ?_⟩
  show (fun r : Raw => r.with .gzrc true .none fun p => withSrc .eOnly false r.a none fun a => withSrc .eOnly false r.b r.imx fun b => .ok (.fdot8 p r.d a b)) (mkRaw p b.imm24 18 6 d a.code b.code) = _
  refine (with_ok (pfx_imx _ _ _ _ _ (hw.1)) _).trans ?_
  refine (withSrc_ok (srcOf_code _ _ (hw.2)) _).trans ?_
  refine (withSrc_ok (srcOf_imm24 _) _).trans ?_
  rfl

theorem cvt (p : Pfx) (rc : BitVec 3) (d : BitVec 7) (a : Src) (ty : BitVec 8) : Statement (.cvt p rc d a ty) := by
  intro r hr hw
  obtain rfl : mkRaw p none 19 rc d a.code ty = r := Option.some.inj hr
  simp only [Instr.wf, Bool.and_eq_true] at hw
  refine ⟨decide_eq_true rc.isLt, ?_⟩
  show (fun r : Raw => r.with .gzc false .none fun p => withSrc .both false r.a none fun a => .ok (.cvt p r.f r.d a r.b)) (mkRaw p none 19 rc d a.code ty) = _
  refine (with_ok (pfx_none _ _ _ _ _ _ (hw.1)) _).trans ?_
  refine (withSrc_ok (srcOf_code _ _ (hw.2)) _).trans ?_
  rfl

theorem cvtnPk (p : Pfx) (d : BitVec 7) (a : Src) (fmt : BitVec 8) : Statement (.cvtnPk p d a fmt) := by
  intro r hr hw
  obtain rfl : mkRaw p none 20 0 d a.code fmt = r := Option.some.inj hr
  simp only [Instr.wf, Bool.and_eq_true] at hw
  refine ⟨rfl, ?_⟩
  show (fun r : Raw => r.with .gzrc false .none fun p => withSrc .eOnly false r.a none fun a => .ok (.cvtnPk p r.d a r.b)) (mkRaw p none 20 0 d a.code fmt) = _
  refine (with_ok (pfx_none _ _ _ _ _ _ (hw.1)) _).trans ?_
  refine (withSrc_ok (srcOf_code _ _ (hw.2)) _).trans ?_
  rfl

theorem cvtnUp (p : Pfx) (d : BitVec 7) (a : Src) (fmt : BitVec 8) : Statement (.cvtnUp p d a fmt) := by
  intro r hr hw
  obtain rfl : mkRaw p none 20 1 d a.code fmt = r := Option.some.inj hr
  simp only [Instr.wf, Bool.and_eq_true] at hw
  refine ⟨rfl, ?_⟩
  show (fun r : Raw => r.with .gzrc false .none fun p => withSrc .eOnly false r.a none fun a => .ok (.cvtnUp p r.d a r.b)) (mkRaw p none 20 1 d a.code fmt) = _
  refine (with_ok (pfx_none _ _ _ _ _ _ (hw.1)) _).trans ?_
  refine (withSrc_ok (srcOf_code _ _ (hw.2)) _).trans ?_
  rfl

theorem cvtnPk6 (p : Pfx) (d : BitVec 7) (a : Src) (fmt : BitVec 8) : Statement (.cvtnPk6 p d a fmt) := by
  intro r hr hw
  obtain rfl : mkRaw p none 20 2 d a.code fmt = r := Option.some.inj hr
  simp only [Instr.wf, Bool.and_eq_true] at hw
  refine ⟨rfl, ?_⟩
  show (fun r : Raw => r.with .gzrc false .none fun p => withSrc .eOnly false r.a none fun a => .ok (.cvtnPk6 p r.d a r.b)) (mkRaw p none 20 2 d a.code fmt) = _
  refine (with_ok (pfx_none _ _ _ _ _ _ (hw.1)) _).trans ?_
  refine (withSrc_ok (srcOf_code _ _ (hw.2)) _).trans ?_
  rfl

theorem cvtnUp6 (p : Pfx) (d : BitVec 7) (a : Src) (fmt : BitVec 8) : Statement (.cvtnUp6 p d a fmt) := by
  intro r hr hw
  obtain rfl : mkRaw p none 20 3 d a.code fmt = r := Option.some.inj hr
  simp only [Instr.wf, Bool.and_eq_true] at hw
  refine ⟨rfl, ?_⟩
  show (fun r : Raw => r.with .gzrc false .none fun p => withSrc .eOnly false r.a none fun a => .ok (.cvtnUp6 p r.d a r.b)) (mkRaw p none 20 3 d a.code fmt) = _
  refine (with_ok (pfx_none _ _ _ _ _ _ (hw.1)) _).trans ?_
  refine (withSrc_ok (srcOf_code _ _ (hw.2)) _).trans ?_
  rfl

theorem mxscale (p : Pfx) (d : BitVec 7) (a : Src) (fmt : BitVec 8) : Statement (.mxscale p d a fmt) := by
  intro r hr hw
  obtain rfl : mkRaw p none 20 4 d a.code fmt = r := Option.some.inj hr
  simp only [Instr.wf, Bool.and_eq_true] at hw
  refine ⟨rfl, ?_⟩
  show (fun r : Raw => r.with .gzc false .none fun p => withSrc .eOnly false r.a none fun a => .ok (.mxscale p r.d a r.b)) (mkRaw p none 20 4 d a.code fmt) = _
  refine (with_ok (pfx_none _ _ _ _ _ _ (hw.1)) _).trans ?_
  refine (withSrc_ok (srcOf_code _ _ (hw.2)) _).trans ?_
  rfl

theorem shflI (p : Pfx) (d : BitVec 7) (a b : Src) : Statement (.shflI p d a b) := by
  intro r hr hw
  obtain rfl : mkRaw p b.imm24 21 0 d a.code b.code = r := Option.some.inj hr
  simp only [Instr.wf, Bool.and_eq_true] at hw
  refine ⟨rfl, ?_⟩
  show (fun r : Raw => r.with .gz true .none fun p => withSrc .eOnly false r.a none fun a => withSrc .eOnly false r.b r.imx fun b => .ok (.shflI p r.d a b)) (mkRaw p b.imm24 21 0 d a.code b.code) = _
  refine (with_ok (pfx_imx _ _ _ _ _ (hw.1)) _).trans ?_
  refine (withSrc_ok (srcOf_code _ _ (hw.2)) _).trans ?_
  refine (withSrc_ok (srcOf_imm24 _) _).trans ?_
  rfl

theorem shflX (p : Pfx) (d : BitVec 7) (a b : Src) : Statement (.shflX p d a b) := by
  intro r hr hw
  obtain rfl : mkRaw p b.imm24 21 1 d a.code b.code = r := Option.some.inj hr
  simp only [Instr.wf, Bool.and_eq_true] at hw
  refine ⟨rfl, ?_⟩
  show (fun r : Raw => r.with .gz true .none fun p => withSrc .eOnly false r.a none fun a => withSrc .eOnly false r.b r.imx fun b => .ok (.shflX p r.d a b)) (mkRaw p b.imm24 21 1 d a.code b.code) = _
  refine (with_ok (pfx_imx _ _ _ _ _ (hw.1)) _).trans ?_
  refine (withSrc_ok (srcOf_code _ _ (hw.2)) _).trans ?_
  refine (withSrc_ok (srcOf_imm24 _) _).trans ?_
  rfl

theorem shflD (p : Pfx) (d : BitVec 7) (a b : Src) : Statement (.shflD p d a b) := by
  intro r hr hw
  obtain rfl : mkRaw p b.imm24 21 2 d a.code b.code = r := Option.some.inj hr
  simp only [Instr.wf, Bool.and_eq_true] at hw
  refine ⟨rfl, ?_⟩
  show (fun r : Raw => r.with .gz true .none fun p => withSrc .eOnly false r.a none fun a => withSrc .eOnly false r.b r.imx fun b => .ok (.shflD p r.d a b)) (mkRaw p b.imm24 21 2 d a.code b.code) = _
  refine (with_ok (pfx_imx _ _ _ _ _ (hw.1)) _).trans ?_
  refine (withSrc_ok (srcOf_code _ _ (hw.2)) _).trans ?_
  refine (withSrc_ok (srcOf_imm24 _) _).trans ?_
  rfl

theorem bcast (p : Pfx) (d : BitVec 7) (a b : Src) : Statement (.bcast p d a b) := by
  intro r hr hw
  obtain rfl : mkRaw p b.imm24 21 3 d a.code b.code = r := Option.some.inj hr
  simp only [Instr.wf, Bool.and_eq_true] at hw
  refine ⟨rfl, ?_⟩
  show (fun r : Raw => r.with .gz true .none fun p => withSrc .eOnly false r.a none fun a => withSrc .eOnly false r.b r.imx fun b => .ok (.bcast p r.d a b)) (mkRaw p b.imm24 21 3 d a.code b.code) = _
  refine (with_ok (pfx_imx _ _ _ _ _ (hw.1)) _).trans ?_
  refine (withSrc_ok (srcOf_code _ _ (hw.2)) _).trans ?_
  refine (withSrc_ok (srcOf_imm24 _) _).trans ?_
  rfl

theorem redAdd (p : Pfx) (d : BitVec 7) (a : Src) (ty : BitVec 2) : Statement (.redAdd p d a ty) := by
  intro r hr hw
  obtain rfl : mkRaw p none 21 4 d a.code (0#4 ++ ty ++ 0#2) = r := Option.some.inj hr
  simp only [Instr.wf, Bool.and_eq_true] at hw
  refine ⟨rfl, ?_⟩
  show (fun r : Raw => r.with .gz false .none fun p => withSrc .eOnly false r.a none fun a => check .eOnly false (r.b.extractLsb' 0 2 == 0 && r.b.extractLsb' 4 4 == 0) (.redAdd p r.d a (r.b.extractLsb' 2 2))) (mkRaw p none 21 4 d a.code (0#4 ++ ty ++ 0#2)) = _
  refine (with_ok (pfx_none _ _ _ _ _ _ (hw.1)) _).trans ?_
  refine (withSrc_ok (srcOf_code _ _ (hw.2)) _).trans ?_
  simp [check, mkRaw, redBits, -BitVec.getLsbD_eq_getElem]

theorem redMin (p : Pfx) (d : BitVec 7) (a : Src) (ty : BitVec 2) : Statement (.redMin p d a ty) := by
  intro r hr hw
  obtain rfl : mkRaw p none 21 5 d a.code (0#4 ++ ty ++ 0#2) = r := Option.some.inj hr
  simp only [Instr.wf, Bool.and_eq_true] at hw
  refine ⟨rfl, ?_⟩
  show (fun r : Raw => r.with .gz false .none fun p => withSrc .eOnly false r.a none fun a => check .eOnly false (r.b.extractLsb' 0 2 == 0 && r.b.extractLsb' 4 4 == 0) (.redMin p r.d a (r.b.extractLsb' 2 2))) (mkRaw p none 21 5 d a.code (0#4 ++ ty ++ 0#2)) = _
  refine (with_ok (pfx_none _ _ _ _ _ _ (hw.1)) _).trans ?_
  refine (withSrc_ok (srcOf_code _ _ (hw.2)) _).trans ?_
  simp [check, mkRaw, redBits, -BitVec.getLsbD_eq_getElem]

theorem redMax (p : Pfx) (d : BitVec 7) (a : Src) (ty : BitVec 2) : Statement (.redMax p d a ty) := by
  intro r hr hw
  obtain rfl : mkRaw p none 21 6 d a.code (0#4 ++ ty ++ 0#2) = r := Option.some.inj hr
  simp only [Instr.wf, Bool.and_eq_true] at hw
  refine ⟨rfl, ?_⟩
  show (fun r : Raw => r.with .gz false .none fun p => withSrc .eOnly false r.a none fun a => check .eOnly false (r.b.extractLsb' 0 2 == 0 && r.b.extractLsb' 4 4 == 0) (.redMax p r.d a (r.b.extractLsb' 2 2))) (mkRaw p none 21 6 d a.code (0#4 ++ ty ++ 0#2)) = _
  refine (with_ok (pfx_none _ _ _ _ _ _ (hw.1)) _).trans ?_
  refine (withSrc_ok (srcOf_code _ _ (hw.2)) _).trans ?_
  simp [check, mkRaw, redBits, -BitVec.getLsbD_eq_getElem]

theorem scanAdd (p : Pfx) (d : BitVec 7) (a : Src) (excl : Bool) (ty : BitVec 2) : Statement (.scanAdd p d a excl ty) := by
  intro r hr hw
  obtain rfl : mkRaw p none 21 7 d a.code (0#3 ++ BitVec.ofBool excl ++ ty ++ 0#2) = r := Option.some.inj hr
  simp only [Instr.wf, Bool.and_eq_true] at hw
  refine ⟨rfl, ?_⟩
  show (fun r : Raw => r.with .gz false .none fun p => withSrc .eOnly false r.a none fun a => check .eOnly false (r.b.extractLsb' 5 3 == 0 && r.b.extractLsb' 0 2 != 3) (if r.b.extractLsb' 0 2 == 0 then .scanAdd p r.d a (r.b.getLsbD 4) (r.b.extractLsb' 2 2) else if r.b.extractLsb' 0 2 == 1 then .scanMin p r.d a (r.b.getLsbD 4) (r.b.extractLsb' 2 2) else .scanMax p r.d a (r.b.getLsbD 4) (r.b.extractLsb' 2 2))) (mkRaw p none 21 7 d a.code (0#3 ++ BitVec.ofBool excl ++ ty ++ 0#2)) = _
  refine (with_ok (pfx_none _ _ _ _ _ _ (hw.1)) _).trans ?_
  refine (withSrc_ok (srcOf_code _ _ (hw.2)) _).trans ?_
  simp [check, mkRaw, scanBits, -BitVec.getLsbD_eq_getElem]

theorem scanMin (p : Pfx) (d : BitVec 7) (a : Src) (excl : Bool) (ty : BitVec 2) : Statement (.scanMin p d a excl ty) := by
  intro r hr hw
  obtain rfl : mkRaw p none 21 7 d a.code (0#3 ++ BitVec.ofBool excl ++ ty ++ 1#2) = r := Option.some.inj hr
  simp only [Instr.wf, Bool.and_eq_true] at hw
  refine ⟨rfl, ?_⟩
  show (fun r : Raw => r.with .gz false .none fun p => withSrc .eOnly false r.a none fun a => check .eOnly false (r.b.extractLsb' 5 3 == 0 && r.b.extractLsb' 0 2 != 3) (if r.b.extractLsb' 0 2 == 0 then .scanAdd p r.d a (r.b.getLsbD 4) (r.b.extractLsb' 2 2) else if r.b.extractLsb' 0 2 == 1 then .scanMin p r.d a (r.b.getLsbD 4) (r.b.extractLsb' 2 2) else .scanMax p r.d a (r.b.getLsbD 4) (r.b.extractLsb' 2 2))) (mkRaw p none 21 7 d a.code (0#3 ++ BitVec.ofBool excl ++ ty ++ 1#2)) = _
  refine (with_ok (pfx_none _ _ _ _ _ _ (hw.1)) _).trans ?_
  refine (withSrc_ok (srcOf_code _ _ (hw.2)) _).trans ?_
  simp [check, mkRaw, scanBits, -BitVec.getLsbD_eq_getElem]

theorem scanMax (p : Pfx) (d : BitVec 7) (a : Src) (excl : Bool) (ty : BitVec 2) : Statement (.scanMax p d a excl ty) := by
  intro r hr hw
  obtain rfl : mkRaw p none 21 7 d a.code (0#3 ++ BitVec.ofBool excl ++ ty ++ 2#2) = r := Option.some.inj hr
  simp only [Instr.wf, Bool.and_eq_true] at hw
  refine ⟨rfl, ?_⟩
  show (fun r : Raw => r.with .gz false .none fun p => withSrc .eOnly false r.a none fun a => check .eOnly false (r.b.extractLsb' 5 3 == 0 && r.b.extractLsb' 0 2 != 3) (if r.b.extractLsb' 0 2 == 0 then .scanAdd p r.d a (r.b.getLsbD 4) (r.b.extractLsb' 2 2) else if r.b.extractLsb' 0 2 == 1 then .scanMin p r.d a (r.b.getLsbD 4) (r.b.extractLsb' 2 2) else .scanMax p r.d a (r.b.getLsbD 4) (r.b.extractLsb' 2 2))) (mkRaw p none 21 7 d a.code (0#3 ++ BitVec.ofBool excl ++ ty ++ 2#2)) = _
  refine (with_ok (pfx_none _ _ _ _ _ _ (hw.1)) _).trans ?_
  refine (withSrc_ok (srcOf_code _ _ (hw.2)) _).trans ?_
  simp [check, mkRaw, scanBits, -BitVec.getLsbD_eq_getElem]

theorem tatomWr (p : Pfx) (d : BitVec 7) (tr : BitVec 4) (b : Src) : Statement (.tatomWr p d tr b) := by
  intro r hr hw
  obtain rfl : mkRaw p b.imm24 22 0 d (0#4 ++ tr) b.code = r := Option.some.inj hr
  simp only [Instr.wf] at hw
  refine ⟨rfl, ?_⟩
  show (fun r : Raw => r.with .gz true .none fun p => withSrc .both false r.b r.imx fun b => check .both false (r.a.extractLsb' 4 4 == 0) (.tatomWr p r.d (r.a.extractLsb' 0 4) b)) (mkRaw p b.imm24 22 0 d (0#4 ++ tr) b.code) = _
  refine (with_ok (pfx_imx _ _ _ _ _ (hw)) _).trans ?_
  refine (withSrc_ok (srcOf_imm24 _) _).trans ?_
  simp [check, mkRaw, hi4_4, -BitVec.getLsbD_eq_getElem]

theorem tatomAdd (p : Pfx) (d : BitVec 7) (tr : BitVec 4) (b : Src) : Statement (.tatomAdd p d tr b) := by
  intro r hr hw
  obtain rfl : mkRaw p b.imm24 22 1 d (0#4 ++ tr) b.code = r := Option.some.inj hr
  simp only [Instr.wf] at hw
  refine ⟨rfl, ?_⟩
  show (fun r : Raw => r.with .gz true .none fun p => withSrc .both false r.b r.imx fun b => check .both false (r.a.extractLsb' 4 4 == 0) (.tatomAdd p r.d (r.a.extractLsb' 0 4) b)) (mkRaw p b.imm24 22 1 d (0#4 ++ tr) b.code) = _
  refine (with_ok (pfx_imx _ _ _ _ _ (hw)) _).trans ?_
  refine (withSrc_ok (srcOf_imm24 _) _).trans ?_
  simp [check, mkRaw, hi4_4, -BitVec.getLsbD_eq_getElem]

theorem tatomMax (p : Pfx) (d : BitVec 7) (tr : BitVec 4) (b : Src) : Statement (.tatomMax p d tr b) := by
  intro r hr hw
  obtain rfl : mkRaw p b.imm24 22 2 d (0#4 ++ tr) b.code = r := Option.some.inj hr
  simp only [Instr.wf] at hw
  refine ⟨rfl, ?_⟩
  show (fun r : Raw => r.with .gz true .none fun p => withSrc .both false r.b r.imx fun b => check .both false (r.a.extractLsb' 4 4 == 0) (.tatomMax p r.d (r.a.extractLsb' 0 4) b)) (mkRaw p b.imm24 22 2 d (0#4 ++ tr) b.code) = _
  refine (with_ok (pfx_imx _ _ _ _ _ (hw)) _).trans ?_
  refine (withSrc_ok (srcOf_imm24 _) _).trans ?_
  simp [check, mkRaw, hi4_4, -BitVec.getLsbD_eq_getElem]

theorem tatomCas (p : Pfx) (d : BitVec 7) (tr : BitVec 4) (b : Src) : Statement (.tatomCas p d tr b) := by
  intro r hr hw
  obtain rfl : mkRaw p b.imm24 22 3 d (0#4 ++ tr) b.code = r := Option.some.inj hr
  simp only [Instr.wf] at hw
  refine ⟨rfl, ?_⟩
  show (fun r : Raw => r.with .gzc true .none fun p => withSrc .both false r.b r.imx fun b => check .both false (r.a.extractLsb' 4 4 == 0) (.tatomCas p r.d (r.a.extractLsb' 0 4) b)) (mkRaw p b.imm24 22 3 d (0#4 ++ tr) b.code) = _
  refine (with_ok (pfx_imx _ _ _ _ _ (hw)) _).trans ?_
  refine (withSrc_ok (srcOf_imm24 _) _).trans ?_
  simp [check, mkRaw, hi4_4, -BitVec.getLsbD_eq_getElem]

theorem sdq (p : Pfx) (d : BitVec 7) (a : Src) : Statement (.sdq p d a) := by
  intro r hr hw
  obtain rfl : mkRaw p none 23 0 d a.code 0 = r := Option.some.inj hr
  simp only [Instr.wf, Bool.and_eq_true] at hw
  refine ⟨rfl, ?_⟩
  show (fun r : Raw => r.with .g false .none fun p => withSrc .eOnly false r.a none fun a => check .eOnly false r.bz (.sdq p r.d a)) (mkRaw p none 23 0 d a.code 0) = _
  refine (with_ok (pfx_none _ _ _ _ _ _ (hw.1)) _).trans ?_
  refine (withSrc_ok (srcOf_code _ _ (hw.2)) _).trans ?_
  rfl

theorem sendx (p : Pfx) (d : BitVec 7) (a : Src) : Statement (.sendx p d a) := by
  intro r hr hw
  obtain rfl : mkRaw p none 23 1 d a.code 0 = r := Option.some.inj hr
  simp only [Instr.wf, Bool.and_eq_true] at hw
  refine ⟨rfl, ?_⟩
  show (fun r : Raw => r.with .g false .none fun p => withSrc .eOnly false r.a none fun a => check .eOnly false r.bz (.sendx p r.d a)) (mkRaw p none 23 1 d a.code 0) = _
  refine (with_ok (pfx_none _ _ _ _ _ _ (hw.1)) _).trans ?_
  refine (withSrc_ok (srcOf_code _ _ (hw.2)) _).trans ?_
  rfl

theorem qstatE (p : Pfx) (d : BitVec 7) (q : BitVec 4) : Statement (.qstatE p d q) := by
  intro r hr hw
  obtain rfl : mkRaw p none 23 2 d (0#4 ++ q) 0 = r := Option.some.inj hr
  simp only [Instr.wf] at hw
  refine ⟨rfl, ?_⟩
  show (fun r : Raw => r.with .gz false .none fun p => check .eOnly false (r.bz && r.a.extractLsb' 4 4 == 0) (.qstatE p r.d (r.a.extractLsb' 0 4))) (mkRaw p none 23 2 d (0#4 ++ q) 0) = _
  refine (with_ok (pfx_none _ _ _ _ _ _ (hw)) _).trans ?_
  simp [check, mkRaw, Raw.bz, hi4_4, -BitVec.getLsbD_eq_getElem]

theorem qflushE (p : Pfx) (q : BitVec 4) : Statement (.qflushE p q) := by
  intro r hr hw
  obtain rfl : mkRaw p none 23 3 0 (0#4 ++ q) 0 = r := Option.some.inj hr
  simp only [Instr.wf] at hw
  refine ⟨rfl, ?_⟩
  show (fun r : Raw => r.with .g false .none fun p => check .eOnly false (r.dz && r.bz && r.a.extractLsb' 4 4 == 0) (.qflushE p (r.a.extractLsb' 0 4))) (mkRaw p none 23 3 0 (0#4 ++ q) 0) = _
  refine (with_ok (pfx_none _ _ _ _ _ _ (hw)) _).trans ?_
  simp [check, mkRaw, Raw.dz, Raw.bz, hi4_4, -BitVec.getLsbD_eq_getElem]

theorem qend (p : Pfx) (d : BitVec 7) (q : BitVec 4) : Statement (.qend p d q) := by
  intro r hr hw
  obtain rfl : mkRaw p none 23 4 d (0#4 ++ q) 0 = r := Option.some.inj hr
  simp only [Instr.wf] at hw
  refine ⟨rfl, ?_⟩
  show (fun r : Raw => r.with .gz false .none fun p => check .eOnly false (r.bz && r.a.extractLsb' 4 4 == 0) (.qend p r.d (r.a.extractLsb' 0 4))) (mkRaw p none 23 4 d (0#4 ++ q) 0) = _
  refine (with_ok (pfx_none _ _ _ _ _ _ (hw)) _).trans ?_
  simp [check, mkRaw, Raw.bz, hi4_4, -BitVec.getLsbD_eq_getElem]

theorem feed (p : Pfx) (d : BitVec 7) (a : Src) : Statement (.feed p d a) := by
  intro r hr hw
  obtain rfl : mkRaw p none 24 0 d a.code 0 = r := Option.some.inj hr
  simp only [Instr.wf, Bool.and_eq_true] at hw
  refine ⟨rfl, ?_⟩
  show (fun r : Raw => r.with .g false .none fun p => withSrc .aOnly false r.a none fun a => check .aOnly false r.bz (.feed p r.d a)) (mkRaw p none 24 0 d a.code 0) = _
  refine (with_ok (pfx_none _ _ _ _ _ _ (hw.1)) _).trans ?_
  refine (withSrc_ok (srcOf_code _ _ (hw.2)) _).trans ?_
  rfl

theorem feedEnd (p : Pfx) (d : BitVec 7) (a : Src) : Statement (.feedEnd p d a) := by
  intro r hr hw
  obtain rfl : mkRaw p none 24 1 d a.code 0 = r := Option.some.inj hr
  simp only [Instr.wf, Bool.and_eq_true] at hw
  refine ⟨rfl, ?_⟩
  show (fun r : Raw => r.with .g false .none fun p => withSrc .aOnly false r.a none fun a => check .aOnly false r.bz (.feedEnd p r.d a)) (mkRaw p none 24 1 d a.code 0) = _
  refine (with_ok (pfx_none _ _ _ _ _ _ (hw.1)) _).trans ?_
  refine (withSrc_ok (srcOf_code _ _ (hw.2)) _).trans ?_
  rfl

theorem recvx (p : Pfx) (d : BitVec 7) (q : BitVec 2) : Statement (.recvx p d q) := by
  intro r hr hw
  obtain rfl : mkRaw p none 24 2 d (0#6 ++ q) 0 = r := Option.some.inj hr
  simp only [Instr.wf] at hw
  refine ⟨rfl, ?_⟩
  show (fun r : Raw => r.with .gz false .none fun p => check .aOnly false (r.bz && r.a.extractLsb' 2 6 == 0) (.recvx p r.d (r.a.extractLsb' 0 2))) (mkRaw p none 24 2 d (0#6 ++ q) 0) = _
  refine (with_ok (pfx_none _ _ _ _ _ _ (hw)) _).trans ?_
  simp [check, mkRaw, Raw.bz, hi6_2, -BitVec.getLsbD_eq_getElem]

theorem qstatA (p : Pfx) (d : BitVec 7) (q : BitVec 4) : Statement (.qstatA p d q) := by
  intro r hr hw
  obtain rfl : mkRaw p none 24 3 d (0#4 ++ q) 0 = r := Option.some.inj hr
  simp only [Instr.wf] at hw
  refine ⟨rfl, ?_⟩
  show (fun r : Raw => r.with .gz false .none fun p => check .aOnly false (r.bz && r.a.extractLsb' 4 4 == 0) (.qstatA p r.d (r.a.extractLsb' 0 4))) (mkRaw p none 24 3 d (0#4 ++ q) 0) = _
  refine (with_ok (pfx_none _ _ _ _ _ _ (hw)) _).trans ?_
  simp [check, mkRaw, Raw.bz, hi4_4, -BitVec.getLsbD_eq_getElem]

theorem qflushA (p : Pfx) (q : BitVec 4) : Statement (.qflushA p q) := by
  intro r hr hw
  obtain rfl : mkRaw p none 24 4 0 (0#4 ++ q) 0 = r := Option.some.inj hr
  simp only [Instr.wf] at hw
  refine ⟨rfl, ?_⟩
  show (fun r : Raw => r.with .g false .none fun p => check .aOnly false (r.dz && r.bz && r.a.extractLsb' 4 4 == 0) (.qflushA p (r.a.extractLsb' 0 4))) (mkRaw p none 24 4 0 (0#4 ++ q) 0) = _
  refine (with_ok (pfx_none _ _ _ _ _ _ (hw)) _).trans ?_
  simp [check, mkRaw, Raw.dz, Raw.bz, hi4_4, -BitVec.getLsbD_eq_getElem]

theorem ldqB8 (p : Pfx) (d : BitVec 7) (a b : Src) : Statement (.ldqB8 p d a b) := by
  intro r hr hw
  obtain rfl : mkRaw p b.imm24 25 0 d a.code b.code = r := Option.some.inj hr
  simp only [Instr.wf, Bool.and_eq_true] at hw
  refine ⟨rfl, ?_⟩
  show (fun r : Raw => r.with .g true .ld fun p => withSrc .aOnly false r.a none fun a => withSrc .aOnly false r.b r.imx fun b => .ok (.ldqB8 p r.d a b)) (mkRaw p b.imm24 25 0 d a.code b.code) = _
  refine (with_ok (pfx_imx _ _ _ _ _ (hw.1)) _).trans ?_
  refine (withSrc_ok (srcOf_code _ _ (hw.2)) _).trans ?_
  refine (withSrc_ok (srcOf_imm24 _) _).trans ?_
  rfl

theorem ldqB16 (p : Pfx) (d : BitVec 7) (a b : Src) : Statement (.ldqB16 p d a b) := by
  intro r hr hw
  obtain rfl : mkRaw p b.imm24 25 1 d a.code b.code = r := Option.some.inj hr
  simp only [Instr.wf, Bool.and_eq_true] at hw
  refine ⟨rfl, ?_⟩
  show (fun r : Raw => r.with .g true .ld fun p => withSrc .aOnly false r.a none fun a => withSrc .aOnly false r.b r.imx fun b => .ok (.ldqB16 p r.d a b)) (mkRaw p b.imm24 25 1 d a.code b.code) = _
  refine (with_ok (pfx_imx _ _ _ _ _ (hw.1)) _).trans ?_
  refine (withSrc_ok (srcOf_code _ _ (hw.2)) _).trans ?_
  refine (withSrc_ok (srcOf_imm24 _) _).trans ?_
  rfl

theorem ldqB32 (p : Pfx) (d : BitVec 7) (a b : Src) : Statement (.ldqB32 p d a b) := by
  intro r hr hw
  obtain rfl : mkRaw p b.imm24 25 2 d a.code b.code = r := Option.some.inj hr
  simp only [Instr.wf, Bool.and_eq_true] at hw
  refine ⟨rfl, ?_⟩
  show (fun r : Raw => r.with .g true .ld fun p => withSrc .aOnly false r.a none fun a => withSrc .aOnly false r.b r.imx fun b => .ok (.ldqB32 p r.d a b)) (mkRaw p b.imm24 25 2 d a.code b.code) = _
  refine (with_ok (pfx_imx _ _ _ _ _ (hw.1)) _).trans ?_
  refine (withSrc_ok (srcOf_code _ _ (hw.2)) _).trans ?_
  refine (withSrc_ok (srcOf_imm24 _) _).trans ?_
  rfl

theorem ldqB64 (p : Pfx) (d : BitVec 7) (a b : Src) : Statement (.ldqB64 p d a b) := by
  intro r hr hw
  obtain rfl : mkRaw p b.imm24 25 3 d a.code b.code = r := Option.some.inj hr
  simp only [Instr.wf, Bool.and_eq_true] at hw
  refine ⟨rfl, ?_⟩
  show (fun r : Raw => r.with .g true .ld fun p => withSrc .aOnly false r.a none fun a => withSrc .aOnly false r.b r.imx fun b => .ok (.ldqB64 p r.d a b)) (mkRaw p b.imm24 25 3 d a.code b.code) = _
  refine (with_ok (pfx_imx _ _ _ _ _ (hw.1)) _).trans ?_
  refine (withSrc_ok (srcOf_code _ _ (hw.2)) _).trans ?_
  refine (withSrc_ok (srcOf_imm24 _) _).trans ?_
  rfl

theorem ldqK16 (p : Pfx) (d : BitVec 7) (a b : Src) : Statement (.ldqK16 p d a b) := by
  intro r hr hw
  obtain rfl : mkRaw p b.imm24 25 4 d a.code b.code = r := Option.some.inj hr
  simp only [Instr.wf, Bool.and_eq_true] at hw
  refine ⟨rfl, ?_⟩
  show (fun r : Raw => r.with .g true .ldqk16 fun p => withSrc .aOnly false r.a none fun a => withSrc .aOnly false r.b r.imx fun b => .ok (.ldqK16 p r.d a b)) (mkRaw p b.imm24 25 4 d a.code b.code) = _
  refine (with_ok (pfx_imx _ _ _ _ _ (hw.1)) _).trans ?_
  refine (withSrc_ok (srcOf_code _ _ (hw.2)) _).trans ?_
  refine (withSrc_ok (srcOf_imm24 _) _).trans ?_
  rfl

theorem ldqLine (p : Pfx) (d : BitVec 7) (a b : Src) : Statement (.ldqLine p d a b) := by
  intro r hr hw
  obtain rfl : mkRaw p b.imm24 25 5 d a.code b.code = r := Option.some.inj hr
  simp only [Instr.wf, Bool.and_eq_true] at hw
  refine ⟨rfl, ?_⟩
  show (fun r : Raw => r.with .g true .ld fun p => withSrc .aOnly false r.a none fun a => withSrc .aOnly false r.b r.imx fun b => .ok (.ldqLine p r.d a b)) (mkRaw p b.imm24 25 5 d a.code b.code) = _
  refine (with_ok (pfx_imx _ _ _ _ _ (hw.1)) _).trans ?_
  refine (withSrc_ok (srcOf_code _ _ (hw.2)) _).trans ?_
  refine (withSrc_ok (srcOf_imm24 _) _).trans ?_
  rfl

theorem ldI8 (p : Pfx) (d : BitVec 7) (a b : Src) : Statement (.ldI8 p d a b) := by
  intro r hr hw
  obtain rfl : mkRaw p b.imm24 26 0 d a.code b.code = r := Option.some.inj hr
  simp only [Instr.wf, Bool.and_eq_true] at hw
  refine ⟨rfl, ?_⟩
  show (fun r : Raw => r.with .gz true .ld fun p => withSrc .aOnly false r.a none fun a => withSrc .aOnly false r.b r.imx fun b => .ok (.ldI8 p r.d a b)) (mkRaw p b.imm24 26 0 d a.code b.code) = _
  refine (with_ok (pfx_imx _ _ _ _ _ (hw.1)) _).trans ?_
  refine (withSrc_ok (srcOf_code _ _ (hw.2)) _).trans ?_
  refine (withSrc_ok (srcOf_imm24 _) _).trans ?_
  rfl

theorem ldN8 (p : Pfx) (d : BitVec 7) (a b : Src) : Statement (.ldN8 p d a b) := by
  intro r hr hw
  obtain rfl : mkRaw p b.imm24 26 1 d a.code b.code = r := Option.some.inj hr
  simp only [Instr.wf, Bool.and_eq_true] at hw
  refine ⟨rfl, ?_⟩
  show (fun r : Raw => r.with .gz true .ld fun p => withSrc .aOnly false r.a none fun a => withSrc .aOnly false r.b r.imx fun b => .ok (.ldN8 p r.d a b)) (mkRaw p b.imm24 26 1 d a.code b.code) = _
  refine (with_ok (pfx_imx _ _ _ _ _ (hw.1)) _).trans ?_
  refine (withSrc_ok (srcOf_code _ _ (hw.2)) _).trans ?_
  refine (withSrc_ok (srcOf_imm24 _) _).trans ?_
  rfl

theorem ldI16 (p : Pfx) (d : BitVec 7) (a b : Src) : Statement (.ldI16 p d a b) := by
  intro r hr hw
  obtain rfl : mkRaw p b.imm24 26 2 d a.code b.code = r := Option.some.inj hr
  simp only [Instr.wf, Bool.and_eq_true] at hw
  refine ⟨rfl, ?_⟩
  show (fun r : Raw => r.with .gz true .ld fun p => withSrc .aOnly false r.a none fun a => withSrc .aOnly false r.b r.imx fun b => .ok (.ldI16 p r.d a b)) (mkRaw p b.imm24 26 2 d a.code b.code) = _
  refine (with_ok (pfx_imx _ _ _ _ _ (hw.1)) _).trans ?_
  refine (withSrc_ok (srcOf_code _ _ (hw.2)) _).trans ?_
  refine (withSrc_ok (srcOf_imm24 _) _).trans ?_
  rfl

theorem ldN16 (p : Pfx) (d : BitVec 7) (a b : Src) : Statement (.ldN16 p d a b) := by
  intro r hr hw
  obtain rfl : mkRaw p b.imm24 26 3 d a.code b.code = r := Option.some.inj hr
  simp only [Instr.wf, Bool.and_eq_true] at hw
  refine ⟨rfl, ?_⟩
  show (fun r : Raw => r.with .gz true .ld fun p => withSrc .aOnly false r.a none fun a => withSrc .aOnly false r.b r.imx fun b => .ok (.ldN16 p r.d a b)) (mkRaw p b.imm24 26 3 d a.code b.code) = _
  refine (with_ok (pfx_imx _ _ _ _ _ (hw.1)) _).trans ?_
  refine (withSrc_ok (srcOf_code _ _ (hw.2)) _).trans ?_
  refine (withSrc_ok (srcOf_imm24 _) _).trans ?_
  rfl

theorem ldI32 (p : Pfx) (d : BitVec 7) (a b : Src) : Statement (.ldI32 p d a b) := by
  intro r hr hw
  obtain rfl : mkRaw p b.imm24 26 4 d a.code b.code = r := Option.some.inj hr
  simp only [Instr.wf, Bool.and_eq_true] at hw
  refine ⟨rfl, ?_⟩
  show (fun r : Raw => r.with .gz true .ld fun p => withSrc .aOnly false r.a none fun a => withSrc .aOnly false r.b r.imx fun b => .ok (.ldI32 p r.d a b)) (mkRaw p b.imm24 26 4 d a.code b.code) = _
  refine (with_ok (pfx_imx _ _ _ _ _ (hw.1)) _).trans ?_
  refine (withSrc_ok (srcOf_code _ _ (hw.2)) _).trans ?_
  refine (withSrc_ok (srcOf_imm24 _) _).trans ?_
  rfl

theorem ldN32 (p : Pfx) (d : BitVec 7) (a b : Src) : Statement (.ldN32 p d a b) := by
  intro r hr hw
  obtain rfl : mkRaw p b.imm24 26 5 d a.code b.code = r := Option.some.inj hr
  simp only [Instr.wf, Bool.and_eq_true] at hw
  refine ⟨rfl, ?_⟩
  show (fun r : Raw => r.with .gz true .ld fun p => withSrc .aOnly false r.a none fun a => withSrc .aOnly false r.b r.imx fun b => .ok (.ldN32 p r.d a b)) (mkRaw p b.imm24 26 5 d a.code b.code) = _
  refine (with_ok (pfx_imx _ _ _ _ _ (hw.1)) _).trans ?_
  refine (withSrc_ok (srcOf_code _ _ (hw.2)) _).trans ?_
  refine (withSrc_ok (srcOf_imm24 _) _).trans ?_
  rfl

theorem ldB64 (p : Pfx) (d : BitVec 7) (a b : Src) : Statement (.ldB64 p d a b) := by
  intro r hr hw
  obtain rfl : mkRaw p b.imm24 26 6 d a.code b.code = r := Option.some.inj hr
  simp only [Instr.wf, Bool.and_eq_true] at hw
  refine ⟨rfl, ?_⟩
  show (fun r : Raw => r.with .gz true .ld fun p => withSrc .aOnly false r.a none fun a => withSrc .aOnly false r.b r.imx fun b => .ok (.ldB64 p r.d a b)) (mkRaw p b.imm24 26 6 d a.code b.code) = _
  refine (with_ok (pfx_imx _ _ _ _ _ (hw.1)) _).trans ?_
  refine (withSrc_ok (srcOf_code _ _ (hw.2)) _).trans ?_
  refine (withSrc_ok (srcOf_imm24 _) _).trans ?_
  rfl

theorem stB8 (p : Pfx) (d : BitVec 7) (a b : Src) : Statement (.stB8 p d a b) := by
  intro r hr hw
  obtain rfl : mkRaw p b.imm24 27 0 d a.code b.code = r := Option.some.inj hr
  simp only [Instr.wf, Bool.and_eq_true] at hw
  refine ⟨rfl, ?_⟩
  show (fun r : Raw => r.with .g true .st fun p => withSrc .aOnly false r.a none fun a => withSrc .aOnly false r.b r.imx fun b => .ok (.stB8 p r.d a b)) (mkRaw p b.imm24 27 0 d a.code b.code) = _
  refine (with_ok (pfx_imx _ _ _ _ _ (hw.1)) _).trans ?_
  refine (withSrc_ok (srcOf_code _ _ (hw.2)) _).trans ?_
  refine (withSrc_ok (srcOf_imm24 _) _).trans ?_
  rfl

theorem stB16 (p : Pfx) (d : BitVec 7) (a b : Src) : Statement (.stB16 p d a b) := by
  intro r hr hw
  obtain rfl : mkRaw p b.imm24 27 1 d a.code b.code = r := Option.some.inj hr
  simp only [Instr.wf, Bool.and_eq_true] at hw
  refine ⟨rfl, ?_⟩
  show (fun r : Raw => r.with .g true .st fun p => withSrc .aOnly false r.a none fun a => withSrc .aOnly false r.b r.imx fun b => .ok (.stB16 p r.d a b)) (mkRaw p b.imm24 27 1 d a.code b.code) = _
  refine (with_ok (pfx_imx _ _ _ _ _ (hw.1)) _).trans ?_
  refine (withSrc_ok (srcOf_code _ _ (hw.2)) _).trans ?_
  refine (withSrc_ok (srcOf_imm24 _) _).trans ?_
  rfl

theorem stB32 (p : Pfx) (d : BitVec 7) (a b : Src) : Statement (.stB32 p d a b) := by
  intro r hr hw
  obtain rfl : mkRaw p b.imm24 27 2 d a.code b.code = r := Option.some.inj hr
  simp only [Instr.wf, Bool.and_eq_true] at hw
  refine ⟨rfl, ?_⟩
  show (fun r : Raw => r.with .g true .st fun p => withSrc .aOnly false r.a none fun a => withSrc .aOnly false r.b r.imx fun b => .ok (.stB32 p r.d a b)) (mkRaw p b.imm24 27 2 d a.code b.code) = _
  refine (with_ok (pfx_imx _ _ _ _ _ (hw.1)) _).trans ?_
  refine (withSrc_ok (srcOf_code _ _ (hw.2)) _).trans ?_
  refine (withSrc_ok (srcOf_imm24 _) _).trans ?_
  rfl

theorem stB64 (p : Pfx) (d : BitVec 7) (a b : Src) : Statement (.stB64 p d a b) := by
  intro r hr hw
  obtain rfl : mkRaw p b.imm24 27 3 d a.code b.code = r := Option.some.inj hr
  simp only [Instr.wf, Bool.and_eq_true] at hw
  refine ⟨rfl, ?_⟩
  show (fun r : Raw => r.with .g true .st fun p => withSrc .aOnly false r.a none fun a => withSrc .aOnly false r.b r.imx fun b => .ok (.stB64 p r.d a b)) (mkRaw p b.imm24 27 3 d a.code b.code) = _
  refine (with_ok (pfx_imx _ _ _ _ _ (hw.1)) _).trans ?_
  refine (withSrc_ok (srcOf_code _ _ (hw.2)) _).trans ?_
  refine (withSrc_ok (srcOf_imm24 _) _).trans ?_
  rfl

theorem staB8 (p : Pfx) (d : BitVec 7) (a b : Src) : Statement (.staB8 p d a b) := by
  intro r hr hw
  obtain rfl : mkRaw p b.imm24 27 4 d a.code b.code = r := Option.some.inj hr
  simp only [Instr.wf, Bool.and_eq_true] at hw
  refine ⟨rfl, ?_⟩
  show (fun r : Raw => r.with .g true .st fun p => withSrc .aOnly false r.a none fun a => withSrc .aOnly false r.b r.imx fun b => .ok (.staB8 p r.d a b)) (mkRaw p b.imm24 27 4 d a.code b.code) = _
  refine (with_ok (pfx_imx _ _ _ _ _ (hw.1)) _).trans ?_
  refine (withSrc_ok (srcOf_code _ _ (hw.2)) _).trans ?_
  refine (withSrc_ok (srcOf_imm24 _) _).trans ?_
  rfl

theorem staB16 (p : Pfx) (d : BitVec 7) (a b : Src) : Statement (.staB16 p d a b) := by
  intro r hr hw
  obtain rfl : mkRaw p b.imm24 27 5 d a.code b.code = r := Option.some.inj hr
  simp only [Instr.wf, Bool.and_eq_true] at hw
  refine ⟨rfl, ?_⟩
  show (fun r : Raw => r.with .g true .st fun p => withSrc .aOnly false r.a none fun a => withSrc .aOnly false r.b r.imx fun b => .ok (.staB16 p r.d a b)) (mkRaw p b.imm24 27 5 d a.code b.code) = _
  refine (with_ok (pfx_imx _ _ _ _ _ (hw.1)) _).trans ?_
  refine (withSrc_ok (srcOf_code _ _ (hw.2)) _).trans ?_
  refine (withSrc_ok (srcOf_imm24 _) _).trans ?_
  rfl

theorem staB32 (p : Pfx) (d : BitVec 7) (a b : Src) : Statement (.staB32 p d a b) := by
  intro r hr hw
  obtain rfl : mkRaw p b.imm24 27 6 d a.code b.code = r := Option.some.inj hr
  simp only [Instr.wf, Bool.and_eq_true] at hw
  refine ⟨rfl, ?_⟩
  show (fun r : Raw => r.with .g true .st fun p => withSrc .aOnly false r.a none fun a => withSrc .aOnly false r.b r.imx fun b => .ok (.staB32 p r.d a b)) (mkRaw p b.imm24 27 6 d a.code b.code) = _
  refine (with_ok (pfx_imx _ _ _ _ _ (hw.1)) _).trans ?_
  refine (withSrc_ok (srcOf_code _ _ (hw.2)) _).trans ?_
  refine (withSrc_ok (srcOf_imm24 _) _).trans ?_
  rfl

theorem staB64 (p : Pfx) (d : BitVec 7) (a b : Src) : Statement (.staB64 p d a b) := by
  intro r hr hw
  obtain rfl : mkRaw p b.imm24 27 7 d a.code b.code = r := Option.some.inj hr
  simp only [Instr.wf, Bool.and_eq_true] at hw
  refine ⟨rfl, ?_⟩
  show (fun r : Raw => r.with .g true .st fun p => withSrc .aOnly false r.a none fun a => withSrc .aOnly false r.b r.imx fun b => .ok (.staB64 p r.d a b)) (mkRaw p b.imm24 27 7 d a.code b.code) = _
  refine (with_ok (pfx_imx _ _ _ _ _ (hw.1)) _).trans ?_
  refine (withSrc_ok (srcOf_code _ _ (hw.2)) _).trans ?_
  refine (withSrc_ok (srcOf_imm24 _) _).trans ?_
  rfl

theorem atomAdd (p : Pfx) (w : Bool) (d : BitVec 5) (a b : Src) : Statement (.atomAdd p w d a b) := by
  intro r hr hw
  obtain rfl : mkRaw p b.imm24 28 0 (BitVec.ofBool w ++ 0#1 ++ d) a.code b.code = r := Option.some.inj hr
  simp only [Instr.wf, Bool.and_eq_true] at hw
  refine ⟨rfl, ?_⟩
  show (fun r : Raw => r.with .gz true .atom fun p => withSrc .aOnly false r.a none fun a => withSrc .aOnly false r.b r.imx fun b => check .aOnly false (!r.d.getLsbD 5) (.atomAdd p (r.d.getLsbD 6) (r.d.extractLsb' 0 5) a b)) (mkRaw p b.imm24 28 0 (BitVec.ofBool w ++ 0#1 ++ d) a.code b.code) = _
  refine (with_ok (pfx_imx _ _ _ _ _ (hw.1)) _).trans ?_
  refine (withSrc_ok (srcOf_code _ _ (hw.2)) _).trans ?_
  refine (withSrc_ok (srcOf_imm24 _) _).trans ?_
  simp [check, mkRaw, atomBits, -BitVec.getLsbD_eq_getElem]

theorem atomMin (p : Pfx) (w : Bool) (d : BitVec 5) (a b : Src) : Statement (.atomMin p w d a b) := by
  intro r hr hw
  obtain rfl : mkRaw p b.imm24 28 1 (BitVec.ofBool w ++ 0#1 ++ d) a.code b.code = r := Option.some.inj hr
  simp only [Instr.wf, Bool.and_eq_true] at hw
  refine ⟨rfl, ?_⟩
  show (fun r : Raw => r.with .gz true .atom fun p => withSrc .aOnly false r.a none fun a => withSrc .aOnly false r.b r.imx fun b => .ok (if r.d.getLsbD 5 then .atomMinN p (r.d.getLsbD 6) (r.d.extractLsb' 0 5) a b else .atomMin p (r.d.getLsbD 6) (r.d.extractLsb' 0 5) a b)) (mkRaw p b.imm24 28 1 (BitVec.ofBool w ++ 0#1 ++ d) a.code b.code) = _
  refine (with_ok (pfx_imx _ _ _ _ _ (hw.1)) _).trans ?_
  refine (withSrc_ok (srcOf_code _ _ (hw.2)) _).trans ?_
  refine (withSrc_ok (srcOf_imm24 _) _).trans ?_
  simp [mkRaw, atomBits, -BitVec.getLsbD_eq_getElem]

theorem atomMinN (p : Pfx) (w : Bool) (d : BitVec 5) (a b : Src) : Statement (.atomMinN p w d a b) := by
  intro r hr hw
  obtain rfl : mkRaw p b.imm24 28 1 (BitVec.ofBool w ++ 1#1 ++ d) a.code b.code = r := Option.some.inj hr
  simp only [Instr.wf, Bool.and_eq_true] at hw
  refine ⟨rfl, ?_⟩
  show (fun r : Raw => r.with .gz true .atom fun p => withSrc .aOnly false r.a none fun a => withSrc .aOnly false r.b r.imx fun b => .ok (if r.d.getLsbD 5 then .atomMinN p (r.d.getLsbD 6) (r.d.extractLsb' 0 5) a b else .atomMin p (r.d.getLsbD 6) (r.d.extractLsb' 0 5) a b)) (mkRaw p b.imm24 28 1 (BitVec.ofBool w ++ 1#1 ++ d) a.code b.code) = _
  refine (with_ok (pfx_imx _ _ _ _ _ (hw.1)) _).trans ?_
  refine (withSrc_ok (srcOf_code _ _ (hw.2)) _).trans ?_
  refine (withSrc_ok (srcOf_imm24 _) _).trans ?_
  simp [mkRaw, atomBits, -BitVec.getLsbD_eq_getElem]

theorem atomMax (p : Pfx) (w : Bool) (d : BitVec 5) (a b : Src) : Statement (.atomMax p w d a b) := by
  intro r hr hw
  obtain rfl : mkRaw p b.imm24 28 2 (BitVec.ofBool w ++ 0#1 ++ d) a.code b.code = r := Option.some.inj hr
  simp only [Instr.wf, Bool.and_eq_true] at hw
  refine ⟨rfl, ?_⟩
  show (fun r : Raw => r.with .gz true .atom fun p => withSrc .aOnly false r.a none fun a => withSrc .aOnly false r.b r.imx fun b => .ok (if r.d.getLsbD 5 then .atomMaxN p (r.d.getLsbD 6) (r.d.extractLsb' 0 5) a b else .atomMax p (r.d.getLsbD 6) (r.d.extractLsb' 0 5) a b)) (mkRaw p b.imm24 28 2 (BitVec.ofBool w ++ 0#1 ++ d) a.code b.code) = _
  refine (with_ok (pfx_imx _ _ _ _ _ (hw.1)) _).trans ?_
  refine (withSrc_ok (srcOf_code _ _ (hw.2)) _).trans ?_
  refine (withSrc_ok (srcOf_imm24 _) _).trans ?_
  simp [mkRaw, atomBits, -BitVec.getLsbD_eq_getElem]

theorem atomMaxN (p : Pfx) (w : Bool) (d : BitVec 5) (a b : Src) : Statement (.atomMaxN p w d a b) := by
  intro r hr hw
  obtain rfl : mkRaw p b.imm24 28 2 (BitVec.ofBool w ++ 1#1 ++ d) a.code b.code = r := Option.some.inj hr
  simp only [Instr.wf, Bool.and_eq_true] at hw
  refine ⟨rfl, ?_⟩
  show (fun r : Raw => r.with .gz true .atom fun p => withSrc .aOnly false r.a none fun a => withSrc .aOnly false r.b r.imx fun b => .ok (if r.d.getLsbD 5 then .atomMaxN p (r.d.getLsbD 6) (r.d.extractLsb' 0 5) a b else .atomMax p (r.d.getLsbD 6) (r.d.extractLsb' 0 5) a b)) (mkRaw p b.imm24 28 2 (BitVec.ofBool w ++ 1#1 ++ d) a.code b.code) = _
  refine (with_ok (pfx_imx _ _ _ _ _ (hw.1)) _).trans ?_
  refine (withSrc_ok (srcOf_code _ _ (hw.2)) _).trans ?_
  refine (withSrc_ok (srcOf_imm24 _) _).trans ?_
  simp [mkRaw, atomBits, -BitVec.getLsbD_eq_getElem]

theorem atomAnd (p : Pfx) (w : Bool) (d : BitVec 5) (a b : Src) : Statement (.atomAnd p w d a b) := by
  intro r hr hw
  obtain rfl : mkRaw p b.imm24 28 3 (BitVec.ofBool w ++ 0#1 ++ d) a.code b.code = r := Option.some.inj hr
  simp only [Instr.wf, Bool.and_eq_true] at hw
  refine ⟨rfl, ?_⟩
  show (fun r : Raw => r.with .gz true .atom fun p => withSrc .aOnly false r.a none fun a => withSrc .aOnly false r.b r.imx fun b => check .aOnly false (!r.d.getLsbD 5) (.atomAnd p (r.d.getLsbD 6) (r.d.extractLsb' 0 5) a b)) (mkRaw p b.imm24 28 3 (BitVec.ofBool w ++ 0#1 ++ d) a.code b.code) = _
  refine (with_ok (pfx_imx _ _ _ _ _ (hw.1)) _).trans ?_
  refine (withSrc_ok (srcOf_code _ _ (hw.2)) _).trans ?_
  refine (withSrc_ok (srcOf_imm24 _) _).trans ?_
  simp [check, mkRaw, atomBits, -BitVec.getLsbD_eq_getElem]

theorem atomOr (p : Pfx) (w : Bool) (d : BitVec 5) (a b : Src) : Statement (.atomOr p w d a b) := by
  intro r hr hw
  obtain rfl : mkRaw p b.imm24 28 4 (BitVec.ofBool w ++ 0#1 ++ d) a.code b.code = r := Option.some.inj hr
  simp only [Instr.wf, Bool.and_eq_true] at hw
  refine ⟨rfl, ?_⟩
  show (fun r : Raw => r.with .gz true .atom fun p => withSrc .aOnly false r.a none fun a => withSrc .aOnly false r.b r.imx fun b => check .aOnly false (!r.d.getLsbD 5) (.atomOr p (r.d.getLsbD 6) (r.d.extractLsb' 0 5) a b)) (mkRaw p b.imm24 28 4 (BitVec.ofBool w ++ 0#1 ++ d) a.code b.code) = _
  refine (with_ok (pfx_imx _ _ _ _ _ (hw.1)) _).trans ?_
  refine (withSrc_ok (srcOf_code _ _ (hw.2)) _).trans ?_
  refine (withSrc_ok (srcOf_imm24 _) _).trans ?_
  simp [check, mkRaw, atomBits, -BitVec.getLsbD_eq_getElem]

theorem atomXor (p : Pfx) (w : Bool) (d : BitVec 5) (a b : Src) : Statement (.atomXor p w d a b) := by
  intro r hr hw
  obtain rfl : mkRaw p b.imm24 28 5 (BitVec.ofBool w ++ 0#1 ++ d) a.code b.code = r := Option.some.inj hr
  simp only [Instr.wf, Bool.and_eq_true] at hw
  refine ⟨rfl, ?_⟩
  show (fun r : Raw => r.with .gz true .atom fun p => withSrc .aOnly false r.a none fun a => withSrc .aOnly false r.b r.imx fun b => check .aOnly false (!r.d.getLsbD 5) (.atomXor p (r.d.getLsbD 6) (r.d.extractLsb' 0 5) a b)) (mkRaw p b.imm24 28 5 (BitVec.ofBool w ++ 0#1 ++ d) a.code b.code) = _
  refine (with_ok (pfx_imx _ _ _ _ _ (hw.1)) _).trans ?_
  refine (withSrc_ok (srcOf_code _ _ (hw.2)) _).trans ?_
  refine (withSrc_ok (srcOf_imm24 _) _).trans ?_
  simp [check, mkRaw, atomBits, -BitVec.getLsbD_eq_getElem]

theorem atomXchg (p : Pfx) (w : Bool) (d : BitVec 5) (a b : Src) : Statement (.atomXchg p w d a b) := by
  intro r hr hw
  obtain rfl : mkRaw p b.imm24 28 6 (BitVec.ofBool w ++ 0#1 ++ d) a.code b.code = r := Option.some.inj hr
  simp only [Instr.wf, Bool.and_eq_true] at hw
  refine ⟨rfl, ?_⟩
  show (fun r : Raw => r.with .gz true .atom fun p => withSrc .aOnly false r.a none fun a => withSrc .aOnly false r.b r.imx fun b => check .aOnly false (!r.d.getLsbD 5) (.atomXchg p (r.d.getLsbD 6) (r.d.extractLsb' 0 5) a b)) (mkRaw p b.imm24 28 6 (BitVec.ofBool w ++ 0#1 ++ d) a.code b.code) = _
  refine (with_ok (pfx_imx _ _ _ _ _ (hw.1)) _).trans ?_
  refine (withSrc_ok (srcOf_code _ _ (hw.2)) _).trans ?_
  refine (withSrc_ok (srcOf_imm24 _) _).trans ?_
  simp [check, mkRaw, atomBits, -BitVec.getLsbD_eq_getElem]

theorem cas (p : Pfx) (w : Bool) (d : BitVec 5) (a b : Src) : Statement (.cas p w d a b) := by
  intro r hr hw
  obtain rfl : mkRaw p b.imm24 28 7 (BitVec.ofBool w ++ 0#1 ++ d) a.code b.code = r := Option.some.inj hr
  simp only [Instr.wf, Bool.and_eq_true] at hw
  refine ⟨rfl, ?_⟩
  show (fun r : Raw => r.with .gz true .atom fun p => withSrc .aOnly false r.a none fun a => withSrc .aOnly false r.b r.imx fun b => check .aOnly false (!r.d.getLsbD 5) (.cas p (r.d.getLsbD 6) (r.d.extractLsb' 0 5) a b)) (mkRaw p b.imm24 28 7 (BitVec.ofBool w ++ 0#1 ++ d) a.code b.code) = _
  refine (with_ok (pfx_imx _ _ _ _ _ (hw.1)) _).trans ?_
  refine (withSrc_ok (srcOf_code _ _ (hw.2)) _).trans ?_
  refine (withSrc_ok (srcOf_imm24 _) _).trans ?_
  simp [check, mkRaw, atomBits, -BitVec.getLsbD_eq_getElem]

theorem credAddI32 (p : Pfx) (d : BitVec 7) (a b : Src) : Statement (.credAddI32 p d a b) := by
  intro r hr hw
  obtain rfl : mkRaw p b.imm24 29 0 d a.code b.code = r := Option.some.inj hr
  simp only [Instr.wf, Bool.and_eq_true] at hw
  refine ⟨rfl, ?_⟩
  show (fun r : Raw => r.with .g true .atom fun p => withSrc .aOnly false r.a none fun a => withSrc .aOnly false r.b r.imx fun b => .ok (.credAddI32 p r.d a b)) (mkRaw p b.imm24 29 0 d a.code b.code) = _
  refine (with_ok (pfx_imx _ _ _ _ _ (hw.1)) _).trans ?_
  refine (withSrc_ok (srcOf_code _ _ (hw.2)) _).trans ?_
  refine (withSrc_ok (srcOf_imm24 _) _).trans ?_
  rfl

theorem credAddF32 (p : Pfx) (d : BitVec 7) (a b : Src) : Statement (.credAddF32 p d a b) := by
  intro r hr hw
  obtain rfl : mkRaw p b.imm24 29 1 d a.code b.code = r := Option.some.inj hr
  simp only [Instr.wf, Bool.and_eq_true] at hw
  refine ⟨rfl, ?_⟩
  show (fun r : Raw => r.with .g true .atom fun p => withSrc .aOnly false r.a none fun a => withSrc .aOnly false r.b r.imx fun b => .ok (.credAddF32 p r.d a b)) (mkRaw p b.imm24 29 1 d a.code b.code) = _
  refine (with_ok (pfx_imx _ _ _ _ _ (hw.1)) _).trans ?_
  refine (withSrc_ok (srcOf_code _ _ (hw.2)) _).trans ?_
  refine (withSrc_ok (srcOf_imm24 _) _).trans ?_
  rfl

theorem credMinI32 (p : Pfx) (d : BitVec 7) (a b : Src) : Statement (.credMinI32 p d a b) := by
  intro r hr hw
  obtain rfl : mkRaw p b.imm24 29 2 d a.code b.code = r := Option.some.inj hr
  simp only [Instr.wf, Bool.and_eq_true] at hw
  refine ⟨rfl, ?_⟩
  show (fun r : Raw => r.with .g true .atom fun p => withSrc .aOnly false r.a none fun a => withSrc .aOnly false r.b r.imx fun b => .ok (.credMinI32 p r.d a b)) (mkRaw p b.imm24 29 2 d a.code b.code) = _
  refine (with_ok (pfx_imx _ _ _ _ _ (hw.1)) _).trans ?_
  refine (withSrc_ok (srcOf_code _ _ (hw.2)) _).trans ?_
  refine (withSrc_ok (srcOf_imm24 _) _).trans ?_
  rfl

theorem credMaxI32 (p : Pfx) (d : BitVec 7) (a b : Src) : Statement (.credMaxI32 p d a b) := by
  intro r hr hw
  obtain rfl : mkRaw p b.imm24 29 3 d a.code b.code = r := Option.some.inj hr
  simp only [Instr.wf, Bool.and_eq_true] at hw
  refine ⟨rfl, ?_⟩
  show (fun r : Raw => r.with .g true .atom fun p => withSrc .aOnly false r.a none fun a => withSrc .aOnly false r.b r.imx fun b => .ok (.credMaxI32 p r.d a b)) (mkRaw p b.imm24 29 3 d a.code b.code) = _
  refine (with_ok (pfx_imx _ _ _ _ _ (hw.1)) _).trans ?_
  refine (withSrc_ok (srcOf_code _ _ (hw.2)) _).trans ?_
  refine (withSrc_ok (srcOf_imm24 _) _).trans ?_
  rfl

theorem credOrB32 (p : Pfx) (d : BitVec 7) (a b : Src) : Statement (.credOrB32 p d a b) := by
  intro r hr hw
  obtain rfl : mkRaw p b.imm24 29 4 d a.code b.code = r := Option.some.inj hr
  simp only [Instr.wf, Bool.and_eq_true] at hw
  refine ⟨rfl, ?_⟩
  show (fun r : Raw => r.with .g true .atom fun p => withSrc .aOnly false r.a none fun a => withSrc .aOnly false r.b r.imx fun b => .ok (.credOrB32 p r.d a b)) (mkRaw p b.imm24 29 4 d a.code b.code) = _
  refine (with_ok (pfx_imx _ _ _ _ _ (hw.1)) _).trans ?_
  refine (withSrc_ok (srcOf_code _ _ (hw.2)) _).trans ?_
  refine (withSrc_ok (srcOf_imm24 _) _).trans ?_
  rfl

theorem credAddI64 (p : Pfx) (d : BitVec 7) (a b : Src) : Statement (.credAddI64 p d a b) := by
  intro r hr hw
  obtain rfl : mkRaw p b.imm24 29 5 d a.code b.code = r := Option.some.inj hr
  simp only [Instr.wf, Bool.and_eq_true] at hw
  refine ⟨rfl, ?_⟩
  show (fun r : Raw => r.with .g true .atom fun p => withSrc .aOnly false r.a none fun a => withSrc .aOnly false r.b r.imx fun b => .ok (.credAddI64 p r.d a b)) (mkRaw p b.imm24 29 5 d a.code b.code) = _
  refine (with_ok (pfx_imx _ _ _ _ _ (hw.1)) _).trans ?_
  refine (withSrc_ok (srcOf_code _ _ (hw.2)) _).trans ?_
  refine (withSrc_ok (srcOf_imm24 _) _).trans ?_
  rfl

theorem credMaxF32 (p : Pfx) (d : BitVec 7) (a b : Src) : Statement (.credMaxF32 p d a b) := by
  intro r hr hw
  obtain rfl : mkRaw p b.imm24 29 6 d a.code b.code = r := Option.some.inj hr
  simp only [Instr.wf, Bool.and_eq_true] at hw
  refine ⟨rfl, ?_⟩
  show (fun r : Raw => r.with .g true .atom fun p => withSrc .aOnly false r.a none fun a => withSrc .aOnly false r.b r.imx fun b => .ok (.credMaxF32 p r.d a b)) (mkRaw p b.imm24 29 6 d a.code b.code) = _
  refine (with_ok (pfx_imx _ _ _ _ _ (hw.1)) _).trans ?_
  refine (withSrc_ok (srcOf_code _ _ (hw.2)) _).trans ?_
  refine (withSrc_ok (srcOf_imm24 _) _).trans ?_
  rfl

theorem fence (p : Pfx) : Statement (.fence p) := by
  intro r hr hw
  obtain rfl : mkRaw p none 30 0 0 0 0 = r := Option.some.inj hr
  simp only [Instr.wf] at hw
  refine ⟨rfl, ?_⟩
  show (fun r : Raw => r.with .g false .fence fun p => check .aOnly false (r.dz && r.az && r.bz) (.fence p)) (mkRaw p none 30 0 0 0 0) = _
  refine (with_ok (pfx_none _ _ _ _ _ _ (hw)) _).trans ?_
  rfl

theorem pref (p : Pfx) (a b : Src) : Statement (.pref p a b) := by
  intro r hr hw
  obtain rfl : mkRaw p b.imm24 30 1 0 a.code b.code = r := Option.some.inj hr
  simp only [Instr.wf, Bool.and_eq_true] at hw
  refine ⟨rfl, ?_⟩
  show (fun r : Raw => r.with .g true .ld fun p => withSrc .aOnly false r.a none fun a => withSrc .aOnly false r.b r.imx fun b => check .aOnly false r.dz (.pref p a b)) (mkRaw p b.imm24 30 1 0 a.code b.code) = _
  refine (with_ok (pfx_imx _ _ _ _ _ (hw.1)) _).trans ?_
  refine (withSrc_ok (srcOf_code _ _ (hw.2)) _).trans ?_
  refine (withSrc_ok (srcOf_imm24 _) _).trans ?_
  rfl

theorem tgive (p : Pfx) (t : BitVec 6) : Statement (.tgive p t) := by
  intro r hr hw
  obtain rfl : mkRaw p none 30 2 0 (0#2 ++ t) 0 = r := Option.some.inj hr
  simp only [Instr.wf] at hw
  refine ⟨rfl, ?_⟩
  show (fun r : Raw => r.with .g false .none fun p => check .aOnly false (r.dz && r.bz && r.a.extractLsb' 6 2 == 0) (.tgive p (r.a.extractLsb' 0 6))) (mkRaw p none 30 2 0 (0#2 ++ t) 0) = _
  refine (with_ok (pfx_none _ _ _ _ _ _ (hw)) _).trans ?_
  simp [check, mkRaw, Raw.dz, Raw.bz, hi2_6, -BitVec.getLsbD_eq_getElem]

theorem tclaim (p : Pfx) (t : BitVec 6) : Statement (.tclaim p t) := by
  intro r hr hw
  obtain rfl : mkRaw p none 30 3 0 (0#2 ++ t) 0 = r := Option.some.inj hr
  simp only [Instr.wf] at hw
  refine ⟨rfl, ?_⟩
  show (fun r : Raw => r.with .g false .none fun p => check .aOnly false (r.dz && r.bz && r.a.extractLsb' 6 2 == 0) (.tclaim p (r.a.extractLsb' 0 6))) (mkRaw p none 30 3 0 (0#2 ++ t) 0) = _
  refine (with_ok (pfx_none _ _ _ _ _ _ (hw)) _).trans ?_
  simp [check, mkRaw, Raw.dz, Raw.bz, hi2_6, -BitVec.getLsbD_eq_getElem]

theorem tchk (p : Pfx) (d : BitVec 7) (t : BitVec 6) : Statement (.tchk p d t) := by
  intro r hr hw
  obtain rfl : mkRaw p none 30 4 d (0#2 ++ t) 0 = r := Option.some.inj hr
  simp only [Instr.wf] at hw
  refine ⟨rfl, ?_⟩
  show (fun r : Raw => r.with .gz false .none fun p => check .aOnly false (r.bz && r.a.extractLsb' 6 2 == 0) (.tchk p r.d (r.a.extractLsb' 0 6))) (mkRaw p none 30 4 d (0#2 ++ t) 0) = _
  refine (with_ok (pfx_none _ _ _ _ _ _ (hw)) _).trans ?_
  simp [check, mkRaw, Raw.bz, hi2_6, -BitVec.getLsbD_eq_getElem]

theorem fopen (p : Pfx) (d : BitVec 7) (a b : Src) : Statement (.fopen p d a b) := by
  intro r hr hw
  obtain rfl : mkRaw p b.imm24 31 0 d a.code b.code = r := Option.some.inj hr
  simp only [Instr.wf, Bool.and_eq_true] at hw
  refine ⟨rfl, ?_⟩
  show (fun r : Raw => r.with .g true .fopen fun p => withSrc .aOnly false r.a none fun a => withSrc .aOnly false r.b r.imx fun b => .ok (.fopen p r.d a b)) (mkRaw p b.imm24 31 0 d a.code b.code) = _
  refine (with_ok (pfx_imx _ _ _ _ _ (hw.1)) _).trans ?_
  refine (withSrc_ok (srcOf_code _ _ (hw.2)) _).trans ?_
  refine (withSrc_ok (srcOf_imm24 _) _).trans ?_
  rfl

theorem fadv (p : Pfx) (d : BitVec 7) (q : BitVec 4) (b : Src) : Statement (.fadv p d q b) := by
  intro r hr hw
  obtain rfl : mkRaw p b.imm24 31 1 d (0#4 ++ q) b.code = r := Option.some.inj hr
  simp only [Instr.wf] at hw
  refine ⟨rfl, ?_⟩
  show (fun r : Raw => r.with .g true .none fun p => withSrc .aOnly false r.b r.imx fun b => check .aOnly false (r.a.extractLsb' 4 4 == 0) (.fadv p r.d (r.a.extractLsb' 0 4) b)) (mkRaw p b.imm24 31 1 d (0#4 ++ q) b.code) = _
  refine (with_ok (pfx_imx _ _ _ _ _ (hw)) _).trans ?_
  refine (withSrc_ok (srcOf_imm24 _) _).trans ?_
  simp [check, mkRaw, hi4_4, -BitVec.getLsbD_eq_getElem]

theorem fend (p : Pfx) (q : BitVec 4) : Statement (.fend p q) := by
  intro r hr hw
  obtain rfl : mkRaw p none 31 2 0 (0#4 ++ q) 0 = r := Option.some.inj hr
  simp only [Instr.wf] at hw
  refine ⟨rfl, ?_⟩
  show (fun r : Raw => r.with .g true .none fun p => check .aOnly false (r.dz && r.bz && r.a.extractLsb' 4 4 == 0) (.fend p (r.a.extractLsb' 0 4))) (mkRaw p none 31 2 0 (0#4 ++ q) 0) = _
  refine (with_ok (pfx_none _ _ _ _ _ _ (hw)) _).trans ?_
  simp [check, mkRaw, Raw.dz, Raw.bz, hi4_4, -BitVec.getLsbD_eq_getElem]

theorem fclose (p : Pfx) (q : BitVec 4) : Statement (.fclose p q) := by
  intro r hr hw
  obtain rfl : mkRaw p none 31 3 0 (0#4 ++ q) 0 = r := Option.some.inj hr
  simp only [Instr.wf] at hw
  refine ⟨rfl, ?_⟩
  show (fun r : Raw => r.with .g true .none fun p => check .aOnly false (r.dz && r.bz && r.a.extractLsb' 4 4 == 0) (.fclose p (r.a.extractLsb' 0 4))) (mkRaw p none 31 3 0 (0#4 ++ q) 0) = _
  refine (with_ok (pfx_none _ _ _ _ _ _ (hw)) _).trans ?_
  simp [check, mkRaw, Raw.dz, Raw.bz, hi4_4, -BitVec.getLsbD_eq_getElem]

theorem kins (p : Pfx) (d : BitVec 7) (a b : Src) : Statement (.kins p d a b) := by
  intro r hr hw
  obtain rfl : mkRaw p b.imm24 32 0 d a.code b.code = r := Option.some.inj hr
  simp only [Instr.wf, Bool.and_eq_true] at hw
  refine ⟨rfl, ?_⟩
  show (fun r : Raw => r.with .g true .atom fun p => withSrc .aOnly false r.a none fun a => withSrc .aOnly false r.b r.imx fun b => .ok (.kins p r.d a b)) (mkRaw p b.imm24 32 0 d a.code b.code) = _
  refine (with_ok (pfx_imx _ _ _ _ _ (hw.1)) _).trans ?_
  refine (withSrc_ok (srcOf_code _ _ (hw.2)) _).trans ?_
  refine (withSrc_ok (srcOf_imm24 _) _).trans ?_
  rfl

theorem kget (p : Pfx) (d : BitVec 7) (a b : Src) : Statement (.kget p d a b) := by
  intro r hr hw
  obtain rfl : mkRaw p b.imm24 32 1 d a.code b.code = r := Option.some.inj hr
  simp only [Instr.wf, Bool.and_eq_true] at hw
  refine ⟨rfl, ?_⟩
  show (fun r : Raw => r.with .g true .kget fun p => withSrc .aOnly false r.a none fun a => withSrc .aOnly false r.b r.imx fun b => .ok (.kget p r.d a b)) (mkRaw p b.imm24 32 1 d a.code b.code) = _
  refine (with_ok (pfx_imx _ _ _ _ _ (hw.1)) _).trans ?_
  refine (withSrc_ok (srcOf_code _ _ (hw.2)) _).trans ?_
  refine (withSrc_ok (srcOf_imm24 _) _).trans ?_
  rfl

theorem ringClaim (p : Pfx) (d : BitVec 7) (b : Src) : Statement (.ringClaim p d b) := by
  intro r hr hw
  obtain rfl : mkRaw p b.imm24 32 2 d 0 b.code = r := Option.some.inj hr
  simp only [Instr.wf] at hw
  refine ⟨rfl, ?_⟩
  show (fun r : Raw => r.with .g true .atom fun p => withSrc .aOnly false r.b r.imx fun b => check .aOnly false r.az (.ringClaim p r.d b)) (mkRaw p b.imm24 32 2 d 0 b.code) = _
  refine (with_ok (pfx_imx _ _ _ _ _ (hw)) _).trans ?_
  refine (withSrc_ok (srcOf_imm24 _) _).trans ?_
  rfl

theorem ringPost (p : Pfx) (a b : Src) : Statement (.ringPost p a b) := by
  intro r hr hw
  obtain rfl : mkRaw p b.imm24 32 3 0 a.code b.code = r := Option.some.inj hr
  simp only [Instr.wf, Bool.and_eq_true] at hw
  refine ⟨rfl, ?_⟩
  show (fun r : Raw => r.with .g true .atom fun p => withSrc .aOnly false r.a none fun a => withSrc .aOnly false r.b r.imx fun b => check .aOnly false r.dz (.ringPost p a b)) (mkRaw p b.imm24 32 3 0 a.code b.code) = _
  refine (with_ok (pfx_imx _ _ _ _ _ (hw.1)) _).trans ?_
  refine (withSrc_ok (srcOf_code _ _ (hw.2)) _).trans ?_
  refine (withSrc_ok (srcOf_imm24 _) _).trans ?_
  rfl

theorem ringTake (p : Pfx) (d : BitVec 7) (b : Src) : Statement (.ringTake p d b) := by
  intro r hr hw
  obtain rfl : mkRaw p b.imm24 32 4 d 0 b.code = r := Option.some.inj hr
  simp only [Instr.wf] at hw
  refine ⟨rfl, ?_⟩
  show (fun r : Raw => r.with .g true .atom fun p => withSrc .aOnly false r.b r.imx fun b => check .aOnly false r.az (.ringTake p r.d b)) (mkRaw p b.imm24 32 4 d 0 b.code) = _
  refine (with_ok (pfx_imx _ _ _ _ _ (hw)) _).trans ?_
  refine (withSrc_ok (srcOf_imm24 _) _).trans ?_
  rfl

theorem ringFree (p : Pfx) (a b : Src) : Statement (.ringFree p a b) := by
  intro r hr hw
  obtain rfl : mkRaw p b.imm24 32 5 0 a.code b.code = r := Option.some.inj hr
  simp only [Instr.wf, Bool.and_eq_true] at hw
  refine ⟨rfl, ?_⟩
  show (fun r : Raw => r.with .g true .atom fun p => withSrc .aOnly false r.a none fun a => withSrc .aOnly false r.b r.imx fun b => check .aOnly false r.dz (.ringFree p a b)) (mkRaw p b.imm24 32 5 0 a.code b.code) = _
  refine (with_ok (pfx_imx _ _ _ _ _ (hw.1)) _).trans ?_
  refine (withSrc_ok (srcOf_code _ _ (hw.2)) _).trans ?_
  refine (withSrc_ok (srcOf_imm24 _) _).trans ?_
  rfl

theorem kick (p : Pfx) (d : BitVec 7) (a b : Src) : Statement (.kick p d a b) := by
  intro r hr hw
  obtain rfl : mkRaw p b.imm24 33 0 d a.code b.code = r := Option.some.inj hr
  simp only [Instr.wf, Bool.and_eq_true] at hw
  refine ⟨rfl, ?_⟩
  show (fun r : Raw => r.with .g true .plain fun p => withSrc .aOnly false r.a none fun a => withSrc .aOnly false r.b r.imx fun b => .ok (.kick p r.d a b)) (mkRaw p b.imm24 33 0 d a.code b.code) = _
  refine (with_ok (pfx_imx _ _ _ _ _ (hw.1)) _).trans ?_
  refine (withSrc_ok (srcOf_code _ _ (hw.2)) _).trans ?_
  refine (withSrc_ok (srcOf_imm24 _) _).trans ?_
  rfl

theorem mbinit (p : Pfx) (d : BitVec 7) (a b : Src) : Statement (.mbinit p d a b) := by
  intro r hr hw
  obtain rfl : mkRaw p b.imm24 33 1 d a.code b.code = r := Option.some.inj hr
  simp only [Instr.wf, Bool.and_eq_true] at hw
  refine ⟨rfl, ?_⟩
  show (fun r : Raw => r.with .g true .plain fun p => withSrc .aOnly false r.a none fun a => withSrc .aOnly false r.b r.imx fun b => .ok (.mbinit p r.d a b)) (mkRaw p b.imm24 33 1 d a.code b.code) = _
  refine (with_ok (pfx_imx _ _ _ _ _ (hw.1)) _).trans ?_
  refine (withSrc_ok (srcOf_code _ _ (hw.2)) _).trans ?_
  refine (withSrc_ok (srcOf_imm24 _) _).trans ?_
  rfl

theorem mbexp (p : Pfx) (d : BitVec 7) (a b : Src) : Statement (.mbexp p d a b) := by
  intro r hr hw
  obtain rfl : mkRaw p b.imm24 33 2 d a.code b.code = r := Option.some.inj hr
  simp only [Instr.wf, Bool.and_eq_true] at hw
  refine ⟨rfl, ?_⟩
  show (fun r : Raw => r.with .g true .plain fun p => withSrc .aOnly false r.a none fun a => withSrc .aOnly false r.b r.imx fun b => .ok (.mbexp p r.d a b)) (mkRaw p b.imm24 33 2 d a.code b.code) = _
  refine (with_ok (pfx_imx _ _ _ _ _ (hw.1)) _).trans ?_
  refine (withSrc_ok (srcOf_code _ _ (hw.2)) _).trans ?_
  refine (withSrc_ok (srcOf_imm24 _) _).trans ?_
  rfl

theorem mbarr (p : Pfx) (a b : Src) : Statement (.mbarr p a b) := by
  intro r hr hw
  obtain rfl : mkRaw p b.imm24 33 3 0 a.code b.code = r := Option.some.inj hr
  simp only [Instr.wf, Bool.and_eq_true] at hw
  refine ⟨rfl, ?_⟩
  show (fun r : Raw => r.with .g true .plain fun p => withSrc .aOnly false r.a none fun a => withSrc .aOnly false r.b r.imx fun b => check .aOnly false r.dz (.mbarr p a b)) (mkRaw p b.imm24 33 3 0 a.code b.code) = _
  refine (with_ok (pfx_imx _ _ _ _ _ (hw.1)) _).trans ?_
  refine (withSrc_ok (srcOf_code _ _ (hw.2)) _).trans ?_
  refine (withSrc_ok (srcOf_imm24 _) _).trans ?_
  rfl

theorem mbwait (p : Pfx) (d : BitVec 7) (a b : Src) : Statement (.mbwait p d a b) := by
  intro r hr hw
  obtain rfl : mkRaw p b.imm24 33 4 d a.code b.code = r := Option.some.inj hr
  simp only [Instr.wf, Bool.and_eq_true] at hw
  refine ⟨rfl, ?_⟩
  show (fun r : Raw => r.with .g true .plain fun p => withSrc .aOnly false r.a none fun a => withSrc .aOnly false r.b r.imx fun b => .ok (.mbwait p r.d a b)) (mkRaw p b.imm24 33 4 d a.code b.code) = _
  refine (with_ok (pfx_imx _ _ _ _ _ (hw.1)) _).trans ?_
  refine (withSrc_ok (srcOf_code _ _ (hw.2)) _).trans ?_
  refine (withSrc_ok (srcOf_imm24 _) _).trans ?_
  rfl

theorem xform (p : Pfx) (d : BitVec 7) (a b : Src) : Statement (.xform p d a b) := by
  intro r hr hw
  obtain rfl : mkRaw p b.imm24 33 5 d a.code b.code = r := Option.some.inj hr
  simp only [Instr.wf, Bool.and_eq_true] at hw
  refine ⟨rfl, ?_⟩
  show (fun r : Raw => r.with .g true .plain fun p => withSrc .aOnly false r.a none fun a => withSrc .aOnly false r.b r.imx fun b => .ok (.xform p r.d a b)) (mkRaw p b.imm24 33 5 d a.code b.code) = _
  refine (with_ok (pfx_imx _ _ _ _ _ (hw.1)) _).trans ?_
  refine (withSrc_ok (srcOf_code _ _ (hw.2)) _).trans ?_
  refine (withSrc_ok (srcOf_imm24 _) _).trans ?_
  rfl

theorem arrive (p : Pfx) (nb : BitVec 4) (b : Src) : Statement (.arrive p nb b) := by
  intro r hr hw
  obtain rfl : mkRaw p b.imm24 34 0 0 (0#4 ++ nb) b.code = r := Option.some.inj hr
  simp only [Instr.wf] at hw
  refine ⟨rfl, ?_⟩
  show (fun r : Raw => r.with .g true .none fun p => withSrc .both false r.b r.imx fun b => check .both false (r.dz && r.a.extractLsb' 4 4 == 0) (.arrive p (r.a.extractLsb' 0 4) b)) (mkRaw p b.imm24 34 0 0 (0#4 ++ nb) b.code) = _
  refine (with_ok (pfx_imx _ _ _ _ _ (hw)) _).trans ?_
  refine (withSrc_ok (srcOf_imm24 _) _).trans ?_
  simp [check, mkRaw, Raw.dz, hi4_4, -BitVec.getLsbD_eq_getElem]

theorem arwait (p : Pfx) (nb : BitVec 4) (b : Src) : Statement (.arwait p nb b) := by
  intro r hr hw
  obtain rfl : mkRaw p b.imm24 34 1 0 (0#4 ++ nb) b.code = r := Option.some.inj hr
  simp only [Instr.wf] at hw
  refine ⟨rfl, ?_⟩
  show (fun r : Raw => r.with .g true .none fun p => withSrc .both false r.b r.imx fun b => check .both false (r.dz && r.a.extractLsb' 4 4 == 0) (.arwait p (r.a.extractLsb' 0 4) b)) (mkRaw p b.imm24 34 1 0 (0#4 ++ nb) b.code) = _
  refine (with_ok (pfx_imx _ _ _ _ _ (hw)) _).trans ?_
  refine (withSrc_ok (srcOf_imm24 _) _).trans ?_
  simp [check, mkRaw, Raw.dz, hi4_4, -BitVec.getLsbD_eq_getElem]

theorem bwait (p : Pfx) (nb : BitVec 4) : Statement (.bwait p nb) := by
  intro r hr hw
  obtain rfl : mkRaw p none 34 2 0 (0#4 ++ nb) 0 = r := Option.some.inj hr
  simp only [Instr.wf] at hw
  refine ⟨rfl, ?_⟩
  show (fun r : Raw => r.with .g true .none fun p => check .both false (r.dz && r.bz && r.a.extractLsb' 4 4 == 0) (.bwait p (r.a.extractLsb' 0 4))) (mkRaw p none 34 2 0 (0#4 ++ nb) 0) = _
  refine (with_ok (pfx_none _ _ _ _ _ _ (hw)) _).trans ?_
  simp [check, mkRaw, Raw.dz, Raw.bz, hi4_4, -BitVec.getLsbD_eq_getElem]

theorem ngetB32 (p : Pfx) (d : BitVec 7) (a b : Src) : Statement (.ngetB32 p d a b) := by
  intro r hr hw
  obtain rfl : mkRaw p b.imm24 35 0 d a.code b.code = r := Option.some.inj hr
  simp only [Instr.wf, Bool.and_eq_true] at hw
  refine ⟨rfl, ?_⟩
  show (fun r : Raw => r.with .g true .nget fun p => withSrc .aOnly false r.a none fun a => withSrc .aOnly false r.b r.imx fun b => .ok (.ngetB32 p r.d a b)) (mkRaw p b.imm24 35 0 d a.code b.code) = _
  refine (with_ok (pfx_imx _ _ _ _ _ (hw.1)) _).trans ?_
  refine (withSrc_ok (srcOf_code _ _ (hw.2)) _).trans ?_
  refine (withSrc_ok (srcOf_imm24 _) _).trans ?_
  rfl

theorem nsend (p : Pfx) (a b : Src) : Statement (.nsend p a b) := by
  intro r hr hw
  obtain rfl : mkRaw p b.imm24 35 1 0 a.code b.code = r := Option.some.inj hr
  simp only [Instr.wf, Bool.and_eq_true] at hw
  refine ⟨rfl, ?_⟩
  show (fun r : Raw => r.with .g true .nsend fun p => withSrc .aOnly false r.a none fun a => withSrc .aOnly false r.b r.imx fun b => check .aOnly false r.dz (.nsend p a b)) (mkRaw p b.imm24 35 1 0 a.code b.code) = _
  refine (with_ok (pfx_imx _ _ _ _ _ (hw.1)) _).trans ?_
  refine (withSrc_ok (srcOf_code _ _ (hw.2)) _).trans ?_
  refine (withSrc_ok (srcOf_imm24 _) _).trans ?_
  rfl

theorem nfence (p : Pfx) : Statement (.nfence p) := by
  intro r hr hw
  obtain rfl : mkRaw p none 35 2 0 0 0 = r := Option.some.inj hr
  simp only [Instr.wf] at hw
  refine ⟨rfl, ?_⟩
  show (fun r : Raw => r.with .g false .none fun p => check .aOnly false (r.dz && r.az && r.bz) (.nfence p)) (mkRaw p none 35 2 0 0 0) = _
  refine (with_ok (pfx_none _ _ _ _ _ _ (hw)) _).trans ?_
  rfl

theorem kvlk (p : Pfx) (d : BitVec 7) (a : Src) : Statement (.kvlk p d a) := by
  intro r hr hw
  obtain rfl : mkRaw p none 36 0 d a.code 0 = r := Option.some.inj hr
  simp only [Instr.wf, Bool.and_eq_true] at hw
  refine ⟨rfl, ?_⟩
  show (fun r : Raw => r.with .gz true .atom fun p => withSrc .aOnly false r.a none fun a => check .aOnly false r.bz (.kvlk p r.d a)) (mkRaw p none 36 0 d a.code 0) = _
  refine (with_ok (pfx_none _ _ _ _ _ _ (hw.1)) _).trans ?_
  refine (withSrc_ok (srcOf_code _ _ (hw.2)) _).trans ?_
  rfl

theorem kvins (p : Pfx) (d : BitVec 7) (a b : Src) : Statement (.kvins p d a b) := by
  intro r hr hw
  obtain rfl : mkRaw p b.imm24 36 1 d a.code b.code = r := Option.some.inj hr
  simp only [Instr.wf, Bool.and_eq_true] at hw
  refine ⟨rfl, ?_⟩
  show (fun r : Raw => r.with .gz true .atom fun p => withSrc .aOnly false r.a none fun a => withSrc .aOnly false r.b r.imx fun b => .ok (.kvins p r.d a b)) (mkRaw p b.imm24 36 1 d a.code b.code) = _
  refine (with_ok (pfx_imx _ _ _ _ _ (hw.1)) _).trans ?_
  refine (withSrc_ok (srcOf_code _ _ (hw.2)) _).trans ?_
  refine (withSrc_ok (srcOf_imm24 _) _).trans ?_
  rfl

theorem kvdel (p : Pfx) (d : BitVec 7) (a : Src) : Statement (.kvdel p d a) := by
  intro r hr hw
  obtain rfl : mkRaw p none 36 2 d a.code 0 = r := Option.some.inj hr
  simp only [Instr.wf, Bool.and_eq_true] at hw
  refine ⟨rfl, ?_⟩
  show (fun r : Raw => r.with .gz true .atom fun p => withSrc .aOnly false r.a none fun a => check .aOnly false r.bz (.kvdel p r.d a)) (mkRaw p none 36 2 d a.code 0) = _
  refine (with_ok (pfx_none _ _ _ _ _ _ (hw.1)) _).trans ?_
  refine (withSrc_ok (srcOf_code _ _ (hw.2)) _).trans ?_
  rfl

theorem kvref (p : Pfx) (d : BitVec 7) (a b : Src) : Statement (.kvref p d a b) := by
  intro r hr hw
  obtain rfl : mkRaw p b.imm24 36 3 d a.code b.code = r := Option.some.inj hr
  simp only [Instr.wf, Bool.and_eq_true] at hw
  refine ⟨rfl, ?_⟩
  show (fun r : Raw => r.with .gz true .atom fun p => withSrc .aOnly false r.a none fun a => withSrc .aOnly false r.b r.imx fun b => .ok (.kvref p r.d a b)) (mkRaw p b.imm24 36 3 d a.code b.code) = _
  refine (with_ok (pfx_imx _ _ _ _ _ (hw.1)) _).trans ?_
  refine (withSrc_ok (srcOf_code _ _ (hw.2)) _).trans ?_
  refine (withSrc_ok (srcOf_imm24 _) _).trans ?_
  rfl

theorem kvpos (p : Pfx) (d : BitVec 7) (a b : Src) : Statement (.kvpos p d a b) := by
  intro r hr hw
  obtain rfl : mkRaw p b.imm24 36 4 d a.code b.code = r := Option.some.inj hr
  simp only [Instr.wf, Bool.and_eq_true] at hw
  refine ⟨rfl, ?_⟩
  show (fun r : Raw => r.with .gz true .atom fun p => withSrc .aOnly false r.a none fun a => withSrc .aOnly false r.b r.imx fun b => .ok (.kvpos p r.d a b)) (mkRaw p b.imm24 36 4 d a.code b.code) = _
  refine (with_ok (pfx_imx _ _ _ _ _ (hw.1)) _).trans ?_
  refine (withSrc_ok (srcOf_code _ _ (hw.2)) _).trans ?_
  refine (withSrc_ok (srcOf_imm24 _) _).trans ?_
  rfl

theorem kvq (p : Pfx) (d : BitVec 7) (a b : Src) : Statement (.kvq p d a b) := by
  intro r hr hw
  obtain rfl : mkRaw p b.imm24 36 5 d a.code b.code = r := Option.some.inj hr
  simp only [Instr.wf, Bool.and_eq_true] at hw
  refine ⟨rfl, ?_⟩
  show (fun r : Raw => r.with .gz true .plain fun p => withSrc .aOnly false r.a none fun a => withSrc .aOnly false r.b r.imx fun b => .ok (.kvq p r.d a b)) (mkRaw p b.imm24 36 5 d a.code b.code) = _
  refine (with_ok (pfx_imx _ _ _ _ _ (hw.1)) _).trans ?_
  refine (withSrc_ok (srcOf_code _ _ (hw.2)) _).trans ?_
  refine (withSrc_ok (srcOf_imm24 _) _).trans ?_
  rfl

theorem mcv (p : Pfx) (d : BitVec 7) (a : Src) : Statement (.mcv p d a) := by
  intro r hr hw
  obtain rfl : mkRaw p none 37 0 d a.code 0 = r := Option.some.inj hr
  simp only [Instr.wf, Bool.and_eq_true] at hw
  refine ⟨rfl, ?_⟩
  show (fun r : Raw => r.with .g false .none fun p => withSrc .eOnly false r.a none fun a => check .eOnly false r.bz (.mcv p r.d a)) (mkRaw p none 37 0 d a.code 0) = _
  refine (with_ok (pfx_none _ _ _ _ _ _ (hw.1)) _).trans ?_
  refine (withSrc_ok (srcOf_code _ _ (hw.2)) _).trans ?_
  rfl

theorem mma (p : Pfx) (m : MmaArgs) : Statement (.mma p m) := by
  intro r hr hw
  obtain rfl : mmaRaw p 0 m = r := Option.some.inj hr
  simp only [Instr.wf, Bool.and_eq_true] at hw
  refine ⟨rfl, ?_⟩
  have e : ofRaw (mmaRaw p 0 m) = decodeMma (mmaRaw p 0 m) := rfl
  rw [e]
  simp [decodeMma, mmaRaw, mkRaw, hw, mmaD, mmaA, mmaB, third, mmaBits, -BitVec.getLsbD_eq_getElem]
  simp_all

theorem mmaMinplus (p : Pfx) (m : MmaArgs) : Statement (.mmaMinplus p m) := by
  intro r hr hw
  obtain rfl : mmaRaw p 1 m = r := Option.some.inj hr
  simp only [Instr.wf] at hw
  refine ⟨rfl, ?_⟩
  have e : ofRaw (mmaRaw p 1 m) = decodeMma (mmaRaw p 1 m) := rfl
  rw [e]
  simp [decodeMma, mmaRaw, mkRaw, hw, mmaD, mmaA, mmaB, third, mmaBits, -BitVec.getLsbD_eq_getElem]

theorem mmaMaxtimes (p : Pfx) (m : MmaArgs) : Statement (.mmaMaxtimes p m) := by
  intro r hr hw
  obtain rfl : mmaRaw p 2 m = r := Option.some.inj hr
  simp only [Instr.wf] at hw
  refine ⟨rfl, ?_⟩
  have e : ofRaw (mmaRaw p 2 m) = decodeMma (mmaRaw p 2 m) := rfl
  rw [e]
  simp [decodeMma, mmaRaw, mkRaw, hw, mmaD, mmaA, mmaB, third, mmaBits, -BitVec.getLsbD_eq_getElem]

theorem mmaOrand (p : Pfx) (m : MmaArgs) : Statement (.mmaOrand p m) := by
  intro r hr hw
  obtain rfl : mmaRaw p 3 m = r := Option.some.inj hr
  simp only [Instr.wf] at hw
  refine ⟨rfl, ?_⟩
  have e : ofRaw (mmaRaw p 3 m) = decodeMma (mmaRaw p 3 m) := rfl
  rw [e]
  simp [decodeMma, mmaRaw, mkRaw, hw, mmaD, mmaA, mmaB, third, mmaBits, -BitVec.getLsbD_eq_getElem]

theorem mmaStage (p : Pfx) (m : MmaArgs) : Statement (.mmaStage p m) := by
  intro r hr hw
  obtain rfl : mmaRaw p 0 m = r := Option.some.inj hr
  simp only [Instr.wf, Bool.and_eq_true] at hw
  refine ⟨rfl, ?_⟩
  have e : ofRaw (mmaRaw p 0 m) = decodeMma (mmaRaw p 0 m) := rfl
  rw [e]
  simp [decodeMma, mmaRaw, mkRaw, hw.1, mmaD, mmaA, mmaB, third, mmaBits, -BitVec.getLsbD_eq_getElem]
  simp_all

theorem mzero (p : Pfx) (d : BitVec 7) : Statement (.mzero p d) := by
  intro r hr hw
  obtain rfl : mkRaw p none 37 2 d 0 0 = r := Option.some.inj hr
  simp only [Instr.wf] at hw
  refine ⟨rfl, ?_⟩
  show (fun r : Raw => r.with .g false .none fun p => check .eOnly false (r.az && r.bz) (.mzero p r.d)) (mkRaw p none 37 2 d 0 0) = _
  refine (with_ok (pfx_none _ _ _ _ _ _ (hw)) _).trans ?_
  rfl

theorem mrdF32 (p : Pfx) (d : BitVec 7) (t : BitVec 3) (h i : Bool) : Statement (.mrdF32 p d t h i) := by
  intro r hr hw
  obtain rfl : mkRaw p none 37 3 d (0#3 ++ BitVec.ofBool i ++ BitVec.ofBool h ++ t) 0 = r := Option.some.inj hr
  simp only [Instr.wf] at hw
  refine ⟨rfl, ?_⟩
  show (fun r : Raw => r.with .gzrc false .none fun p => check .eOnly false (r.bz && r.a.extractLsb' 6 2 == 0 && !(r.a.getLsbD 5 && r.a.getLsbD 3)) (if r.a.getLsbD 5 then .mrdSt p r.d (r.a.extractLsb' 0 3) (r.a.getLsbD 4) else .mrdF32 p r.d (r.a.extractLsb' 0 3) (r.a.getLsbD 3) (r.a.getLsbD 4))) (mkRaw p none 37 3 d (0#3 ++ BitVec.ofBool i ++ BitVec.ofBool h ++ t) 0) = _
  refine (with_ok (pfx_none _ _ _ _ _ _ (hw)) _).trans ?_
  simp [check, mkRaw, Raw.bz, readBits, -BitVec.getLsbD_eq_getElem]

theorem mrdSt (p : Pfx) (d : BitVec 7) (t : BitVec 3) (i : Bool) : Statement (.mrdSt p d t i) := by
  intro r hr hw
  obtain rfl : mkRaw p none 37 3 d (1#3 ++ BitVec.ofBool i ++ 0#1 ++ t) 0 = r := Option.some.inj hr
  simp only [Instr.wf] at hw
  refine ⟨rfl, ?_⟩
  show (fun r : Raw => r.with .gzrc false .none fun p => check .eOnly false (r.bz && r.a.extractLsb' 6 2 == 0 && !(r.a.getLsbD 5 && r.a.getLsbD 3)) (if r.a.getLsbD 5 then .mrdSt p r.d (r.a.extractLsb' 0 3) (r.a.getLsbD 4) else .mrdF32 p r.d (r.a.extractLsb' 0 3) (r.a.getLsbD 3) (r.a.getLsbD 4))) (mkRaw p none 37 3 d (1#3 ++ BitVec.ofBool i ++ 0#1 ++ t) 0) = _
  refine (with_ok (pfx_none _ _ _ _ _ _ (hw)) _).trans ?_
  simp [check, mkRaw, Raw.bz, stateBits, -BitVec.getLsbD_eq_getElem]

theorem mwrF32 (p : Pfx) (d : BitVec 7) (t : BitVec 3) (h i : Bool) : Statement (.mwrF32 p d t h i) := by
  intro r hr hw
  obtain rfl : mkRaw p none 37 4 d (0#3 ++ BitVec.ofBool i ++ BitVec.ofBool h ++ t) 0 = r := Option.some.inj hr
  simp only [Instr.wf] at hw
  refine ⟨rfl, ?_⟩
  show (fun r : Raw => r.with .g false .none fun p => check .eOnly false (r.bz && r.a.extractLsb' 6 2 == 0 && !(r.a.getLsbD 5 && r.a.getLsbD 3)) (if r.a.getLsbD 5 then .mwrSt p r.d (r.a.extractLsb' 0 3) (r.a.getLsbD 4) else .mwrF32 p r.d (r.a.extractLsb' 0 3) (r.a.getLsbD 3) (r.a.getLsbD 4))) (mkRaw p none 37 4 d (0#3 ++ BitVec.ofBool i ++ BitVec.ofBool h ++ t) 0) = _
  refine (with_ok (pfx_none _ _ _ _ _ _ (hw)) _).trans ?_
  simp [check, mkRaw, Raw.bz, readBits, -BitVec.getLsbD_eq_getElem]

theorem mwrSt (p : Pfx) (d : BitVec 7) (t : BitVec 3) (i : Bool) : Statement (.mwrSt p d t i) := by
  intro r hr hw
  obtain rfl : mkRaw p none 37 4 d (1#3 ++ BitVec.ofBool i ++ 0#1 ++ t) 0 = r := Option.some.inj hr
  simp only [Instr.wf] at hw
  refine ⟨rfl, ?_⟩
  show (fun r : Raw => r.with .g false .none fun p => check .eOnly false (r.bz && r.a.extractLsb' 6 2 == 0 && !(r.a.getLsbD 5 && r.a.getLsbD 3)) (if r.a.getLsbD 5 then .mwrSt p r.d (r.a.extractLsb' 0 3) (r.a.getLsbD 4) else .mwrF32 p r.d (r.a.extractLsb' 0 3) (r.a.getLsbD 3) (r.a.getLsbD 4))) (mkRaw p none 37 4 d (1#3 ++ BitVec.ofBool i ++ 0#1 ++ t) 0) = _
  refine (with_ok (pfx_none _ _ _ _ _ _ (hw)) _).trans ?_
  simp [check, mkRaw, Raw.bz, stateBits, -BitVec.getLsbD_eq_getElem]

theorem mcont (p : Pfx) (a : Src) : Statement (.mcont p a) := by
  intro r hr hw
  obtain rfl : mkRaw p none 37 5 0 a.code 0 = r := Option.some.inj hr
  simp only [Instr.wf, Bool.and_eq_true] at hw
  refine ⟨rfl, ?_⟩
  show (fun r : Raw => r.with .g false .none fun p => withSrc .eOnly false r.a none fun a => check .eOnly false (r.dz && r.bz) (.mcont p a)) (mkRaw p none 37 5 0 a.code 0) = _
  refine (with_ok (pfx_none _ _ _ _ _ _ (hw.1)) _).trans ?_
  refine (withSrc_ok (srcOf_code _ _ (hw.2)) _).trans ?_
  rfl

theorem mscl (p : Pfx) (d : BitVec 7) (az : BitVec 3) (b : BitVec 8) : Statement (.mscl p d az b) := by
  intro r hr hw
  obtain rfl : mkRaw p none 37 6 d (0#5 ++ az) b = r := Option.some.inj hr
  simp only [Instr.wf] at hw
  refine ⟨rfl, ?_⟩
  show (fun r : Raw => r.with .gr false .none fun p => check .eOnly false (r.a.extractLsb' 3 5 == 0) (.mscl p r.d (r.a.extractLsb' 0 3) r.b)) (mkRaw p none 37 6 d (0#5 ++ az) b) = _
  refine (with_ok (pfx_none _ _ _ _ _ _ (hw)) _).trans ?_
  simp [check, mkRaw, hi5_3, -BitVec.getLsbD_eq_getElem]

theorem smx (p : Pfx) (d : BitVec 7) (a : Src) (b : BitVec 8) : Statement (.smx p d a b) := by
  intro r hr hw
  obtain rfl : mkRaw p none 38 0 d a.code b = r := Option.some.inj hr
  simp only [Instr.wf, Bool.and_eq_true] at hw
  refine ⟨rfl, ?_⟩
  show (fun r : Raw => r.with .gr false .none fun p => withSrc .eOnly false r.a none fun a => .ok (.smx p r.d a r.b)) (mkRaw p none 38 0 d a.code b) = _
  refine (with_ok (pfx_none _ _ _ _ _ _ (hw.1)) _).trans ?_
  refine (withSrc_ok (srcOf_code _ _ (hw.2)) _).trans ?_
  rfl

theorem smrg (p : Pfx) (d : BitVec 7) (aS : BitVec 3) : Statement (.smrg p d aS) := by
  intro r hr hw
  obtain rfl : mkRaw p none 38 1 d (0#5 ++ aS) 0 = r := Option.some.inj hr
  simp only [Instr.wf] at hw
  refine ⟨rfl, ?_⟩
  show (fun r : Raw => r.with .g false .none fun p => check .eOnly false (r.bz && r.a.extractLsb' 3 5 == 0) (.smrg p r.d (r.a.extractLsb' 0 3))) (mkRaw p none 38 1 d (0#5 ++ aS) 0) = _
  refine (with_ok (pfx_none _ _ _ _ _ _ (hw)) _).trans ?_
  simp [check, mkRaw, Raw.bz, hi5_3, -BitVec.getLsbD_eq_getElem]

theorem smfin (p : Pfx) (d : BitVec 7) : Statement (.smfin p d) := by
  intro r hr hw
  obtain rfl : mkRaw p none 38 2 d 0 0 = r := Option.some.inj hr
  simp only [Instr.wf] at hw
  refine ⟨rfl, ?_⟩
  show (fun r : Raw => r.with .g false .none fun p => check .eOnly false (r.az && r.bz) (.smfin p r.d)) (mkRaw p none 38 2 d 0 0) = _
  refine (with_ok (pfx_none _ _ _ _ _ _ (hw)) _).trans ?_
  rfl

theorem tenq (p : Pfx) (a : Src) : Statement (.tenq p a) := by
  intro r hr hw
  obtain rfl : mkRaw p none 39 0 0 a.code 0 = r := Option.some.inj hr
  simp only [Instr.wf, Bool.and_eq_true] at hw
  refine ⟨rfl, ?_⟩
  show (fun r : Raw => r.with .g false .none fun p => withSrc .both false r.a none fun a => check .both false (r.dz && r.bz) (.tenq p a)) (mkRaw p none 39 0 0 a.code 0) = _
  refine (with_ok (pfx_none _ _ _ _ _ _ (hw.1)) _).trans ?_
  refine (withSrc_ok (srcOf_code _ _ (hw.2)) _).trans ?_
  rfl

theorem vabort (p : Pfx) (d : BitVec 7) (a : Src) : Statement (.vabort p d a) := by
  intro r hr hw
  obtain rfl : mkRaw p none 39 1 d a.code 0 = r := Option.some.inj hr
  simp only [Instr.wf, Bool.and_eq_true] at hw
  refine ⟨rfl, ?_⟩
  show (fun r : Raw => r.with .g false .none fun p => withSrc .both false r.a none fun a => check .both false r.bz (.vabort p r.d a)) (mkRaw p none 39 1 d a.code 0) = _
  refine (with_ok (pfx_none _ _ _ _ _ _ (hw.1)) _).trans ?_
  refine (withSrc_ok (srcOf_code _ _ (hw.2)) _).trans ?_
  rfl

theorem tstamp (p : Pfx) (d : BitVec 7) : Statement (.tstamp p d) := by
  intro r hr hw
  obtain rfl : mkRaw p none 39 2 d 0 0 = r := Option.some.inj hr
  simp only [Instr.wf] at hw
  refine ⟨rfl, ?_⟩
  show (fun r : Raw => r.with .gz false .none fun p => check .both false (r.az && r.bz) (.tstamp p r.d)) (mkRaw p none 39 2 d 0 0) = _
  refine (with_ok (pfx_none _ _ _ _ _ _ (hw)) _).trans ?_
  rfl

theorem rdsr (p : Pfx) (d : BitVec 7) (n : BitVec 7) : Statement (.rdsr p d n) := by
  intro r hr hw
  obtain rfl : mkRaw p none 39 3 d (0#1 ++ n) 0 = r := Option.some.inj hr
  simp only [Instr.wf] at hw
  refine ⟨rfl, ?_⟩
  show (fun r : Raw => r.with .gz false .none fun p => srField (srReadEcide (r.a.toNat % 128)) <|
    check .both (srReadPriv (r.a.toNat % 128)) (r.bz && !r.a.getLsbD 7) (.rdsr p r.d (r.a.extractLsb' 0 7))) (mkRaw p none 39 3 d (0#1 ++ n) 0) = _
  refine (with_ok (pfx_none _ _ _ _ _ _ (hw)) _).trans ?_
  simp [check, mkRaw, Raw.bz, hi1_7, srField, -BitVec.getLsbD_eq_getElem]

theorem wrsr (p : Pfx) (n : BitVec 7) (a : Src) : Statement (.wrsr p n a) := by
  intro r hr hw
  obtain rfl : mkRaw p none 39 4 n a.code 0 = r := Option.some.inj hr
  simp only [Instr.wf, Bool.and_eq_true] at hw
  refine ⟨rfl, ?_⟩
  show (fun r : Raw => r.with .g false .none fun p => srField (srWriteEcide r.d.toNat) <|
    withSrc .both true r.a none fun a => check .both true r.bz (.wrsr p r.d a)) (mkRaw p none 39 4 n a.code 0) = _
  refine (with_ok (pfx_none _ _ _ _ _ _ (hw.1)) _).trans ?_
  simp only [srField, withSrc_ok (srcOf_code _ _ hw.2), mkRaw, check, Raw.bz, beq_self_eq_true, if_true]

theorem tlbi (p : Pfx) (a : Src) : Statement (.tlbi p a) := by
  intro r hr hw
  obtain rfl : mkRaw p none 39 5 0 a.code 0 = r := Option.some.inj hr
  simp only [Instr.wf, Bool.and_eq_true] at hw
  refine ⟨rfl, ?_⟩
  show (fun r : Raw => r.with .g false .none fun p => if r.b == 0 then withSrc .both true r.a none fun a => check .both true r.dz (.tlbi p a) else check .both true (r.b == 1 && r.dz && r.az) (.tlbiAll p)) (mkRaw p none 39 5 0 a.code 0) = _
  refine (with_ok (pfx_none _ _ _ _ _ _ (hw.1)) _).trans ?_
  simp [check, mkRaw, Raw.dz, withSrc, srcOf_code, hw]

theorem tlbiAll (p : Pfx) : Statement (.tlbiAll p) := by
  intro r hr hw
  obtain rfl : mkRaw p none 39 5 0 0 1 = r := Option.some.inj hr
  simp only [Instr.wf] at hw
  refine ⟨rfl, ?_⟩
  show (fun r : Raw => r.with .g false .none fun p => if r.b == 0 then withSrc .both true r.a none fun a => check .both true r.dz (.tlbi p a) else check .both true (r.b == 1 && r.dz && r.az) (.tlbiAll p)) (mkRaw p none 39 5 0 0 1) = _
  refine (with_ok (pfx_none _ _ _ _ _ _ (hw)) _).trans ?_
  rfl

theorem mcallTelemetry (p : Pfx) (d : BitVec 7) (b : Src) : Statement (.mcallTelemetry p d b) := by
  intro r hr hw
  obtain rfl : mkRaw p b.imm24 39 6 d 0 b.code = r := Option.some.inj hr
  simp only [Instr.wf] at hw
  refine ⟨rfl, ?_⟩
  show (fun r : Raw => r.with .gz true .none fun p => if r.a == 1 then check .both false r.bz (.mcallLocate p r.d) else withSrc .both false r.b r.imx fun b => check .both false (r.a == 0 || r.a == 2) (if r.a == 0 then .mcallTelemetry p r.d b else .mcallPeer p r.d b)) (mkRaw p b.imm24 39 6 d 0 b.code) = _
  refine (with_ok (pfx_imx _ _ _ _ _ (hw)) _).trans ?_
  simp [check, mkRaw, withSrc, srcOf_imm24]

theorem mcallLocate (p : Pfx) (d : BitVec 7) : Statement (.mcallLocate p d) := by
  intro r hr hw
  obtain rfl : mkRaw p none 39 6 d 1 0 = r := Option.some.inj hr
  simp only [Instr.wf] at hw
  refine ⟨rfl, ?_⟩
  show (fun r : Raw => r.with .gz true .none fun p => if r.a == 1 then check .both false r.bz (.mcallLocate p r.d) else withSrc .both false r.b r.imx fun b => check .both false (r.a == 0 || r.a == 2) (if r.a == 0 then .mcallTelemetry p r.d b else .mcallPeer p r.d b)) (mkRaw p none 39 6 d 1 0) = _
  refine (with_ok (pfx_none _ _ _ _ _ _ (hw)) _).trans ?_
  rfl

theorem mcallPeer (p : Pfx) (d : BitVec 7) (b : Src) : Statement (.mcallPeer p d b) := by
  intro r hr hw
  obtain rfl : mkRaw p b.imm24 39 6 d 2 b.code = r := Option.some.inj hr
  simp only [Instr.wf] at hw
  refine ⟨rfl, ?_⟩
  show (fun r : Raw => r.with .gz true .none fun p => if r.a == 1 then check .both false r.bz (.mcallLocate p r.d) else withSrc .both false r.b r.imx fun b => check .both false (r.a == 0 || r.a == 2) (if r.a == 0 then .mcallTelemetry p r.d b else .mcallPeer p r.d b)) (mkRaw p b.imm24 39 6 d 2 b.code) = _
  refine (with_ok (pfx_imx _ _ _ _ _ (hw)) _).trans ?_
  simp [check, mkRaw, withSrc, srcOf_imm24]

theorem reconvergenceTimeout (tm sid : Nat) : Statement (.reconvergenceTimeout tm sid) := by
  intro r hr
  cases hr

theorem binAgeDraw (core bin : Nat) : Statement (.binAgeDraw core bin) := by
  intro r hr
  cases hr

theorem yieldExpiry (tm gid : Nat) : Statement (.yieldExpiry tm gid) := by
  intro r hr
  cases hr

theorem taskEnded (task : Nat) : Statement (.taskEnded task) := by
  intro r hr
  cases hr

theorem drain (tm tid : Nat) : Statement (.drain tm tid) := by
  intro r hr
  cases hr

theorem merge (core line : Nat) : Statement (.merge core line) := by
  intro r hr
  cases hr

theorem ldqFill (tm tid q : Nat) : Statement (.ldqFill tm tid q) := by
  intro r hr
  cases hr

theorem translationComplete (tm tid : Nat) : Statement (.translationComplete tm tid) := by
  intro r hr
  cases hr

theorem pendingFaultDelivery (tm tid : Nat) : Statement (.pendingFaultDelivery tm tid) := by
  intro r hr
  cases hr

theorem queueDeadlock (tm tid : Nat) : Statement (.queueDeadlock tm tid) := by
  intro r hr
  cases hr

theorem streamElement (tm tid q : Nat) : Statement (.streamElement tm tid q) := by
  intro r hr
  cases hr

theorem mmaComplete (core : Nat) : Statement (.mmaComplete core) := by
  intro r hr
  cases hr

theorem bearCommandComplete (core : Nat) : Statement (.bearCommandComplete core) := by
  intro r hr
  cases hr

theorem bearFault (core blocks : Nat) : Statement (.bearFault core blocks) := by
  intro r hr
  cases hr

theorem copyRow (id : Nat) : Statement (.copyRow id) := by
  intro r hr
  cases hr

theorem settPairPass (id sett : Nat) : Statement (.settPairPass id sett) := by
  intro r hr
  cases hr

theorem returnMerge (id : Nat) : Statement (.returnMerge id) := by
  intro r hr
  cases hr

theorem kvqComplete (id : Nat) : Statement (.kvqComplete id) := by
  intro r hr
  cases hr

theorem kvqFail (id : Nat) : Statement (.kvqFail id) := by
  intro r hr
  cases hr

theorem nsendRow (id : Nat) : Statement (.nsendRow id) := by
  intro r hr
  cases hr

theorem rowAck (id : Nat) : Statement (.rowAck id) := by
  intro r hr
  cases hr

theorem remoteRowArrival (row : RemoteRow) : Statement (.remoteRowArrival row) := by
  intro r hr
  cases hr

theorem remoteTimeout (op : RemoteOp) : Statement (.remoteTimeout op) := by
  intro r hr
  cases hr

theorem remoteRead (part win : Nat) (off : BitVec 64) : Statement (.remoteRead part win off) := by
  intro r hr
  cases hr

theorem ngetResponse (tm tid q : Nat) (w : BitVec 32) : Statement (.ngetResponse tm tid q w) := by
  intro r hr
  cases hr

theorem mcallAnswer (tm tid : Nat) : Statement (.mcallAnswer tm tid) := by
  intro r hr
  cases hr

theorem expertStarved (tm tid : Nat) : Statement (.expertStarved tm tid) := by
  intro r hr
  cases hr

theorem breakpointMatch (tm gid : Nat) : Statement (.breakpointMatch tm gid) := by
  intro r hr
  cases hr

theorem resume (part : Nat) : Statement (.resume part) := by
  intro r hr
  cases hr

theorem stepGroup (tm gid : Nat) : Statement (.stepGroup tm gid) := by
  intro r hr
  cases hr

theorem submit (part : Nat) (va : BitVec 64) : Statement (.submit part va) := by
  intro r hr
  cases hr

theorem registerWrite (part off width : Nat) (value : BitVec 64) : Statement (.registerWrite part off width value) := by
  intro r hr
  cases hr

theorem hostApertureWrite (part off : Nat) (bytes : List Byte) : Statement (.hostApertureWrite part off bytes) := by
  intro r hr
  cases hr

theorem hostApertureRead (part off n : Nat) : Statement (.hostApertureRead part off n) := by
  intro r hr
  cases hr

theorem commit (task : Nat) : Statement (.commit task) := by
  intro r hr
  cases hr

theorem successorDecrement (task : Nat) : Statement (.successorDecrement task) := by
  intro r hr
  cases hr

theorem bindRecord (core idx : Nat) (r : BindRec) : Statement (.bindRecord core idx r) := by
  intro r hr
  cases hr

theorem teamStart (cluster : Nat) : Statement (.teamStart cluster) := by
  intro r hr
  cases hr

theorem eviction (core : Nat) (need : Need) : Statement (.eviction core need) := by
  intro r hr
  cases hr

theorem groupSave (tm slot : Nat) : Statement (.groupSave tm slot) := by
  intro r hr
  cases hr

theorem thermalMigration (cluster : Nat) : Statement (.thermalMigration cluster) := by
  intro r hr
  cases hr

theorem lentTileDrain (core : Nat) : Statement (.lentTileDrain core) := by
  intro r hr
  cases hr

theorem l2WriteBack (part frame : Nat) : Statement (.l2WriteBack part frame) := by
  intro r hr
  cases hr

theorem scrubError (part : Nat) (rec : MachineCheck) : Statement (.scrubError part rec) := by
  intro r hr
  cases hr

theorem dirtyHarvest (part dword : Nat) : Statement (.dirtyHarvest part dword) := by
  intro r hr
  cases hr

theorem swapOut (part : Nat) : Statement (.swapOut part) := by
  intro r hr
  cases hr

theorem swapIn (part : Nat) : Statement (.swapIn part) := by
  intro r hr
  cases hr

theorem migrationRound (part : Nat) : Statement (.migrationRound part) := by
  intro r hr
  cases hr

theorem precopyFrame (part frame : Nat) (bytes : List Byte) (tagOk : Bool) : Statement (.precopyFrame part frame bytes tagOk) := by
  intro r hr
  cases hr

theorem partitionHeader (part : Nat) : Statement (.partitionHeader part) := by
  intro r hr
  cases hr

theorem teamContext (part tm : Nat) : Statement (.teamContext part tm) := by
  intro r hr
  cases hr

theorem taskRecord (part task : Nat) : Statement (.taskRecord part task) := by
  intro r hr
  cases hr

theorem bearContinuation (part core : Nat) : Statement (.bearContinuation part core) := by
  intro r hr
  cases hr

theorem lynxFlows (part : Nat) : Statement (.lynxFlows part) := by
  intro r hr
  cases hr

theorem timeRecord (part : Nat) : Statement (.timeRecord part) := by
  intro r hr
  cases hr

theorem telemetryRingTail (part : Nat) : Statement (.telemetryRingTail part) := by
  intro r hr
  cases hr

theorem bearCheckStatistics (part : Nat) : Statement (.bearCheckStatistics part) := by
  intro r hr
  cases hr

theorem endOfImage (part : Nat) : Statement (.endOfImage part) := by
  intro r hr
  cases hr

theorem unknownRecord (part : Nat) (head : BitVec 64) : Statement (.unknownRecord part head) := by
  intro r hr
  cases hr

theorem quote (part : Nat) (nonce : BitVec 512) : Statement (.quote part nonce) := by
  intro r hr
  cases hr

theorem ecideHandover (component : List Byte) (ok : Bool) : Statement (.ecideHandover component ok) := by
  intro r hr
  cases hr

theorem partitionCreate (part : Nat) (cfg : PartCfg) : Statement (.partitionCreate part cfg) := by
  intro r hr
  cases hr

theorem partitionResize (part : Nat) (cores : List Nat) (grant : List Nat) : Statement (.partitionResize part cores grant) := by
  intro r hr
  cases hr

theorem partitionDelete (part : Nat) : Statement (.partitionDelete part) := by
  intro r hr
  cases hr

theorem coreRetirement (core : Nat) : Statement (.coreRetirement core) := by
  intro r hr
  cases hr

theorem pseudoChannelRetirement (stack channel : Nat) : Statement (.pseudoChannelRetirement stack channel) := by
  intro r hr
  cases hr

theorem lynxLaneDegrade (port lanes : Nat) : Statement (.lynxLaneDegrade port lanes) := by
  intro r hr
  cases hr

theorem pcieDegrade (width : Nat) : Statement (.pcieDegrade width) := by
  intro r hr
  cases hr

theorem hbmRecalibration (stack channel : Nat) : Statement (.hbmRecalibration stack channel) := by
  intro r hr
  cases hr

theorem powerCap (sixteenths : Nat) : Statement (.powerCap sixteenths) := by
  intro r hr
  cases hr

theorem coolantOverLimit : Statement (.coolantOverLimit) := by
  intro r hr
  cases hr

theorem powerGood (boot : BootCfg) : Statement (.powerGood boot) := by
  intro r hr
  cases hr

theorem powerRemoved : Statement (.powerRemoved) := by
  intro r hr
  cases hr

theorem decodeFault (e : DecErr) : Statement (.decodeFault e) := by
  intro r hr
  cases hr

theorem gtcIncrement : Statement (.gtcIncrement) := by
  intro r hr
  cases hr

theorem hostStoreCompletion (tm tid : Nat) : Statement (.hostStoreCompletion tm tid) := by
  intro r hr
  cases hr

theorem remoteRefused (op : RemoteOp) : Statement (.remoteRefused op) := by
  intro r hr
  cases hr

theorem imageRefused (part : Nat) (head : BitVec 64) : Statement (.imageRefused part head) := by
  intro r hr
  cases hr

theorem tilraxDbgSession (part : Nat) (on : Bool) : Statement (.tilraxDbgSession part on) := by
  intro r hr
  cases hr

end Sys2Proof.Laws.Fields
end

