-- ==== Sys2Proof/Laws/Rows.lean ====
section
/-! SUPPORT. Clearing a destination twice is clearing it once; and what an instruction of one of the two shapes comes to. -/

namespace Sys2Proof.Machine

open Sys2Proof.Safety

theorem kput_kput {α : Type} (m : KMap α) (k : Nat) (v w : α) : kput (kput m k v) k w = kput m k w := by
  induction m with
  | nil => simp [kput]
  | cons e t ih =>
    obtain ⟨k', v'⟩ := e
    by_cases h : k' = k
    · subst h; simp [kput]
    · by_cases h2 : k < k'
      · simp [kput, h, h2]
      · simp [kput, h, h2, ih]

theorem kput_comm {α : Type} (m : KMap α) (k n : Nat) (v w : α) (h : k ≠ n) : kput (kput m k v) n w = kput (kput m n w) k v := by
  induction m with
  | nil =>
    have hn := Ne.symm h
    rcases Nat.lt_or_gt_of_ne h with h1 | h1
    · have : ¬ n < k := by omega
      simp [kput, h, hn, h1, this]
    · have : ¬ k < n := by omega
      simp [kput, h, hn, h1, this]
  | cons e t ih =>
    obtain ⟨k', v'⟩ := e
    have hn := Ne.symm h
    by_cases e1 : k' = k
    · subst e1
      by_cases h1 : n < k'
      · have : ¬ k' < n := by omega
        have : n ≤ k' := by omega
        simp [kput, h, hn, h1, this]
      · have h2 : k' < n := by omega
        simp [kput, h, h1]
    · by_cases e2 : k' = n
      · subst e2
        by_cases h1 : k < k'
        · have : k ≤ k' := by omega
          simp [kput, hn, h, h1, e1, this]
        · simp [kput, e1, h1]
      · by_cases h1 : k < k' <;> by_cases h2 : n < k'
        · rcases Nat.lt_or_gt_of_ne h with h3 | h3
          · have : ¬ n < k := by omega
            simp [kput, e1, e2, h1, h2, h, hn, h3, this]
          · have : ¬ k < n := by omega
            simp [kput, e1, e2, h1, h2, h, hn, h3, this]
        · have : ¬ n < k := by omega
          simp [kput, e1, e2, h1, h2, h, this]
        · have : ¬ k < n := by omega
          simp [kput, e1, e2, h1, h2, hn, this]
        · simp [kput, e1, e2, h1, h2, ih]

theorem setV_idem (t : Thread) (n : Nat) (w : Word) : (t.setV n w).setV n w = t.setV n w := by simp [Thread.setV, kput_kput]
theorem setV_comm (t : Thread) (n m : Nat) (w x : Word) (h : n ≠ m) : (t.setV n w).setV m x = (t.setV m x).setV n w := by
  simp [Thread.setV, kput_comm _ _ _ _ _ h, Bool.and_comm]
theorem setX_idem (n : Nat) (w : DWord) (t : Thread) : (t.setX n w).setX n w = t.setX n w := by simp [Thread.setX, kput_kput]

theorem setVV_idem (t : Thread) (n : Nat) (w : DWord) : (t.setVV n w).setVV n w = t.setVV n w := by
  unfold Thread.setVV
  rw [setV_comm _ (n + 1) n _ _ (by omega), setV_idem, setV_idem]

theorem setD_idem (sd : Side) (wide : Bool) (d : BitVec 7) (v : DWord) (t : Thread) :
    setD sd wide d v (setD sd wide d v t) = setD sd wide d v t := by
  cases sd <;> cases wide <;> simp [setD, setV_idem, setVV_idem, setX_idem]

theorem setBit_false_idem {w : Nat} (b : BitVec w) (n : Nat) : setBit (setBit b n false) n false = setBit b n false := by
  simp [setBit, BitVec.and_assoc]

theorem setPred_idem (n : Nat) (t : Thread) : (t.setPred n false).setPred n false = t.setPred n false := by
  unfold Thread.setPred; split <;> simp [setBit_false_idem]

theorem setPred_comm (n m : Nat) (t : Thread) : (t.setPred n false).setPred m false = (t.setPred m false).setPred n false := by
  unfold Thread.setPred
  by_cases h1 : n = 0 <;> by_cases h2 : m = 0 <;> simp [h1, h2, setBit]
  rw [BitVec.and_assoc, BitVec.and_comm (~~~_) (~~~_), ← BitVec.and_assoc]

theorem setPreds_idem (d n : Nat) (t : Thread) : setPreds (setPreds t d n 0) d n 0 = setPreds t d n 0 := by
  unfold setPreds
  simp only [BitVec.getLsbD_zero, show ∀ i : Nat, (0 : DWord).getLsbD i = false from fun i => by simp]
  have step : ∀ (l : List Nat) (t : Thread) (i : Nat), l.foldl (fun t i => t.setPred (d + i) false) (t.setPred (d + i) false) =
      (l.foldl (fun t i => t.setPred (d + i) false) t).setPred (d + i) false := by
    intro l
    induction l with
    | nil => intro t i; rfl
    | cons j l ih => intro t i; simp only [List.foldl_cons]; rw [setPred_comm, ih]
  have absorb : ∀ (l : List Nat) (t : Thread), l.foldl (fun t i => t.setPred (d + i) false) (l.foldl (fun t i => t.setPred (d + i) false) t) =
      l.foldl (fun t i => t.setPred (d + i) false) t := by
    intro l
    induction l with
    | nil => intro t; rfl
    | cons j l ih =>
      intro t
      simp only [List.foldl_cons]
      rw [step l t j, setPred_idem, step, ih]
  exact absorb _ t

theorem setVs_setV (l : List Nat) : ∀ (t : Thread) (r n : Nat) (w : Word), n < r → setVs (t.setV n w) r l = (setVs t r l).setV n w := by
  induction l with
  | nil => intros; rfl
  | cons x xs ih =>
    intro t r n w h
    unfold setVs
    rw [setV_comm _ n r _ _ (by omega), ih _ (r + 1) n w (by omega)]

theorem setVs_idem (l : List Nat) : ∀ (t : Thread) (r : Nat), setVs (setVs t r l) r l = setVs t r l := by
  induction l with
  | nil => intros; rfl
  | cons x xs ih =>
    intro t r
    simp only [setVs]
    rw [setVs_setV xs t (r + 1) r _ (by omega)]
    rw [setV_idem, setVs_setV _ _ _ _ _ (by omega), ih]

/-- An instruction whose meaning is one of attempts from one state holds as its row says, where the row's attempts are its own. -/
theorem holds_of_lanes {i : Instr} {r : LaneRow} (ok : State → Cur → Bool) (g : State → Cur → Nat → Try Lane)
    (idle : State → Cur → State)
    (he : ∀ s, exec i s = checked r.need r.priv r.p ok idle s (fun c act => s.fallOr c (s.runLanes c act r.p (r.z c.side) (g s c))))
    (hok : ∀ s c, r.ok s c = true → ok s c = true) (hg : ∀ s c k l, r.ok s c = true → r.f s c k = .ok l → g s c k = .ok l)
    (hz : ∀ sd t, r.z sd (r.z sd t) = r.z sd t) : r.Holds i := by
  intro s c act hi hf ho hs
  rw [he, goesOn_ok hi hf (hok s c ho)]
  have hm : ∀ u ∈ act, u ∈ (s.grp c.gid).members := by
    intro u hu
    rw [← hi.2.2.1] at hu
    exact mem_activeOf hu
  have hs2 : ∀ u ∈ act, ∃ l, g s c (c.key u) = .ok l := fun u hu => by
    obtain ⟨l, hl⟩ := hs u hu
    exact ⟨l, hg s c _ l ho hl⟩
  obtain ⟨t, h1, h2, h3, h4, h5⟩ := runLanes_spec (p := r.p) (hz c.side) hm hs2
  exact ⟨t, h1, h2, h3, fun u hu l hl => h4 u hu l (hg s c _ l ho hl), h5⟩

/-- The same for steps in order without a check before them. -/
theorem holds_of_seq {i : Instr} {r : SeqRow} (ok : State → Cur → Bool) (g : Cur → State → Nat → Try State)
    (idle : State → Cur → State)
    (he : ∀ s, exec i s = checked r.need r.priv r.p ok idle s (fun c act => s.fallOr c (s.runSeq c act r.p (r.z c.side) (g c))))
    (hok : ∀ s c, r.ok s c = true → ok s c = true)
    (hg : ∀ c act s s', inOrder c (r.f c) act s = some s' → inOrder c (g c) act s = some s')
    (hz : ∀ sd t, r.z sd (r.z sd t) = r.z sd t) : r.Holds i := by
  intro s c act s' hi hf ho _ hs
  rw [he, goesOn_ok hi hf (hok s c ho)]
  refine ⟨_, runSeq_ok (hg c act s s' hs), ?_⟩
  exact commit_spec s' c act r.p (r.z c.side) (hz c.side)

/-- The same for steps of R405. -/
theorem holds_of_steps {i : Instr} {r : SeqRow} (ok : State → Cur → Bool) (g : Cur → State → Nat → Try State)
    (idle : State → Cur → State)
    (he : ∀ s, exec i s = checked r.need r.priv r.p ok idle s (fun c act => s.fallOr c (s.runSteps c act r.p (r.z c.side) (r.pre s) (g c))))
    (hok : ∀ s c, r.ok s c = true → ok s c = true)
    (hg : ∀ c act s s', inOrder c (r.f c) act s = some s' → inOrder c (g c) act s = some s')
    (hz : ∀ sd t, r.z sd (r.z sd t) = r.z sd t) : r.Holds i := by
  intro s c act s' hi hf ho hp hs
  rw [he, goesOn_ok hi hf (hok s c ho)]
  refine ⟨_, runSteps_ok hp (hg c act s s' hs), ?_⟩
  exact commit_spec s' c act r.p (r.z c.side) (hz c.side)

/-- A successful attempt goes on. -/
theorem tryThen_ok {α β : Type} {t : Try α} {f : α → Try β} {y : β} (h : tryThen t f = .ok y) : ∃ x, t = .ok x ∧ f x = .ok y := by
  cases t <;> simp only [tryThen] at h
  · exact ⟨_, rfl, h⟩
  all_goals cases h

/-- An instruction that reads sources and changes its thread holds as its row says, where its effect is the row's. -/
theorem value_holds {i : Instr} {need : SideReq} {p : Pfx} {srcs : Side → List (OTy × Src)} {ok : State → Cur → Bool}
    {z : Side → Thread → Thread} {eff : State → Nat → List DWord → Thread → Option Thread}
    (ok' : State → Cur → Bool) (f : State → Nat → List DWord → Thread → Try Thread)
    (he : ∀ s, exec i s = valueOp need p srcs ok' z f s) (hok : ∀ s c, ok s c = true → ok' s c = true)
    (hf : ∀ s k vs t u, eff s k vs t = some u → f s k vs t = .ok u) (hz : ∀ sd t, z sd (z sd t) = z sd t) :
    (valueRow need p srcs ok z eff).Holds i := by
  refine holds_of_lanes (fun s c => srcsOk s c (srcs c.side) && ok' s c) (fun s c => s.valueTry (srcs c.side) f) _ he ?_ ?_ hz
  · intro s c h
    simp only [valueRow, Bool.and_eq_true] at h ⊢
    exact ⟨h.1, hok s c h.2⟩
  · intro s c k l _ h
    simp only [valueRow] at h
    obtain ⟨⟨vs, rd⟩, h1, h2⟩ := tryThen_ok h
    simp only at h2
    split at h2
    · rename_i th hth
      cases h2
      unfold State.valueTry
      simp only [h1, tryThen, hf s k vs _ _ hth]
    · cases h2

end Sys2Proof.Machine
end

