-- ==== Sys2Proof/Laws/Shapes.lean ====
section
/-! SUPPORT. What each shared operation of the instructions on one thread's registers comes to: an instruction that is one of them
holds as the row of its operands says. -/

namespace Sys2Proof.Machine

open Sys2Proof.Safety

/-- An integer instruction of two sources (R322). -/
theorem intOp_holds {i : Instr} {p d a b} (g : BinOp) (f : IntFun) (he : ∀ s, exec i s = intOp p d a b g s)
    (h : ∀ w x y z, f w x y z = g w x y) : (intOf3 p d [a, b] false f).Holds i := by
  refine value_holds (fun _ c => dstOk c.side false d) _ he (fun s c h => by simpa using h) (fun s k vs t u hu => ?_)
    (fun sd t => setD_idem sd false d 0 t)
  simp only [Option.some.injEq] at hu
  rw [← hu, intValue]
  cases hk : keySide k <;> simp only [atSide, h]

/-- An integer instruction of one source. -/
theorem intOp1_holds {i : Instr} {p d a} (g : (w : Nat) → BitVec w → BitVec w) (f : IntFun) (he : ∀ s, exec i s = intOp1 p d a g s)
    (h : ∀ w x y z, f w x y z = g w x) : (intOf3 p d [a] false f).Holds i := by
  refine value_holds (fun _ c => dstOk c.side false d) _ he (fun s c h => by simpa using h) (fun s k vs t u hu => ?_)
    (fun sd t => setD_idem sd false d 0 t)
  simp only [Option.some.injEq] at hu
  rw [← hu, intValue]
  cases hk : keySide k <;> simp only [atSide, h]

/-- An integer instruction with a fourth source. -/
theorem intOpC_holds {i : Instr} {p d a b} (g f : IntFun) (he : ∀ s, exec i s = intOpC p d a b g s)
    (h : ∀ w x y z, f w x y z = g w x y z) : (intOf3 p d [a, b] true f).Holds i := by
  refine value_holds (fun _ c => dstOk c.side false d && p.cOk) _ he (fun s c h => by simpa using h) (fun s k vs t u hu => ?_)
    (fun sd t => setD_idem sd false d 0 t)
  simp only [Option.some.injEq] at hu
  rw [← hu, intValue]
  cases hk : keySide k <;> simp only [h]

/-- A division (R324). -/
theorem divOp_holds {i : Instr} {p d a b} (g : BinOp) (f : IntFun) (he : ∀ s, exec i s = divOp p d a b g s)
    (h : ∀ w x y z, f w x y z = g w x y) : (divRowOf p d a b f).Holds i := by
  refine value_holds (fun _ c => dstOk c.side false d) _ he (fun s c h => h) (fun s k vs t u hu => ?_)
    (fun sd t => setD_idem sd false d 0 t)
  simp only [intValue] at hu
  cases hk : keySide k <;> simp only [hk, atSide, h] at hu ⊢ <;> split at hu <;> cases hu <;> rename_i hz <;> simp only [hz, if_false]

/-- A comparison of integers (R336). -/
theorem cmpOp_holds {i : Instr} {p d a b} (g f : (w : Nat) → BitVec w → BitVec w → Bool) (he : ∀ s, exec i s = cmpOp p d a b g s)
    (h : ∀ w x y, f w x y = g w x y) : (cmpRowOf p d a b f).Holds i := by
  refine value_holds (fun _ _ => true) _ he (fun s c h => h) (fun s k vs t u hu => ?_) (fun _ t => setPred_idem d.toNat t)
  simp only [Option.some.injEq] at hu
  rw [← hu]
  cases hk : keySide k <;> simp only [h]

/-- A 64-bit instruction of the execute side (R372). -/
theorem longOp_holds {i : Instr} {p d l} (g f : DWord → DWord → DWord) (he : ∀ s, exec i s = longOp p d l g s)
    (h : ∀ x y, f x y = g x y) : (longRowOf p d l f).Holds i := by
  refine value_holds _ _ he (fun s c h => h) (fun s k vs t u hu => ?_) (fun sd t => setD_idem sd true d 0 t)
  simp only [Option.some.injEq] at hu
  rw [← hu, h]

/-- A floating instruction (R344, R345). -/
theorem floatOp_holds {i : Instr} {pk f p d l useC} (g op : FOp) (he : ∀ s, exec i s = floatOp pk f p d l useC g s)
    (h : op = g) : (floatRowOf pk f p d l useC op).Holds i := by
  subst h
  refine value_holds _ _ he (fun s c h => h) (fun s k vs t u hu => ?_) (fun sd t => setD_idem sd _ d 0 t)
  simp only [Option.some.injEq] at hu
  rw [← hu]

/-- A floating comparison (R352). -/
theorem fcmpOp_holds {i : Instr} {f any p d a b} (g rel : FVal → FVal → Bool) (he : ∀ s, exec i s = fcmpOp f any p d a b g s)
    (h : ∀ x y, rel x y = g x y) : (fcmpRowOf f any p d a b rel).Holds i := by
  refine value_holds (fun _ _ => true) _ he (fun s c h => h) (fun s k vs t u hu => ?_) (fun _ t => setPred_idem d.toNat t)
  simp only [Option.some.injEq] at hu
  rw [← hu, h]
  simp only [sigIn, List.any_cons, List.any_nil, Bool.or_false]

end Sys2Proof.Machine
end

