-- ==== Sys2Proof/Tests/Slice0.lean ====
section
/-! SUPPORT. Tests: words written out from the encodings of chapters 02 and 20 to 23, ill-formed terms, one step of each family on a
small state, and for every obligation a state that meets its hypotheses. -/

namespace Sys2Proof.Tests

open Sys2Proof.Machine Sys2Proof.Safety

set_option Elab.async false

/-- No prefix. -/
def p : Pfx := { vx := none, mxa := none }

theorem test_decode_0 : decodeSeq [0#6 ++ 0#3 ++ 0#7 ++ 18#8 ++ 52#8] = .ok (.br 0x1234#16) ∧
    decodeSeq [0#6 ++ 1#3 ++ 9#7 ++ 18#8 ++ 52#8] = .ok (.brp 9#7 0x1234#16) ∧
    decodeSeq [0#6 ++ 2#3 ++ 9#7 ++ 18#8 ++ 52#8] = .ok (.brpNot 9#7 0x1234#16) ∧
    decodeSeq [0#6 ++ 3#3 ++ 0#7 ++ 18#8 ++ 52#8] = .ok (.call 0x1234#16) := by
  and_intros <;> rfl

theorem test_decode_1a : decodeSeq [1#6 ++ 0#3 ++ 0#7 ++ 0#8 ++ 0#8] = .ok (.ret) ∧
    decodeSeq [1#6 ++ 1#3 ++ 0#7 ++ 7#8 ++ 0#8] = .ok (.brx (.reg 7#7)) ∧
    decodeSeq [1#6 ++ 2#3 ++ 0#7 ++ 0#8 ++ 0#8] = .ok (.exit) ∧
    decodeSeq [1#6 ++ 3#3 ++ 0#7 ++ 0#8 ++ 0#8] = .ok (.nop) ∧
    decodeSeq [1#6 ++ 4#3 ++ 0#7 ++ 0#8 ++ 0#8] = .ok (.yield) ∧
    decodeSeq [1#6 ++ 5#3 ++ 0#7 ++ 0#8 ++ 0#8] = .ok (.brk) ∧
    decodeSeq [1#6 ++ 6#3 ++ 0#7 ++ 0#8 ++ 5#8] = .ok (.trap 5#3) ∧
    decodeSeq [1#6 ++ 7#3 ++ 0#7 ++ 0#8 ++ 0#8] = .ok (.rfhRetry p) ∧
    decodeSeq [1#6 ++ 7#3 ++ 0#7 ++ 1#8 ++ 0#8] = .ok (.rfhSkip p) := by
  and_intros <;> rfl

theorem test_decode_1b : decodeSeq [1#6 ++ 7#3 ++ 0#7 ++ 2#8 ++ 0#8] = .ok (.rfhEnd p) := by
  and_intros <;> rfl

theorem test_decode_2 : decodeSeq [2#6 ++ 0#3 ++ 0#7 ++ 11#8 ++ 0#8] = .ok (.enrol p 11#4) ∧
    decodeSeq [2#6 ++ 1#3 ++ 0#7 ++ 11#8 ++ 0#8] = .ok (.join p 11#4) ∧
    decodeSeq [2#6 ++ 2#3 ++ 0#7 ++ 11#8 ++ 0#8] = .ok (.strike p 11#4) ∧
    decodeSeq [2#6 ++ 3#3 ++ 0#7 ++ 0#8 ++ 0#8] = .ok (.reform p) ∧
    decodeSeq [2#6 ++ 4#3 ++ 3#7 ++ 6#8 ++ 201#8] = .ok (.jmask p 3#7 6#4 (.imm 9#5)) ∧
    decodeSeq [2#6 ++ 4#3 ++ 3#7 ++ 22#8 ++ 201#8] = .ok (.jmaskArr p 3#7 6#4 (.imm 9#5)) := by
  and_intros <;> rfl

theorem test_decode_3 : decodeSeq [3#6 ++ 0#3 ++ 5#7 ++ 134#8 ++ 7#8] = .ok (.plogAnd p 5#7 0x86#8 0x07#8) ∧
    decodeSeq [3#6 ++ 1#3 ++ 5#7 ++ 134#8 ++ 7#8] = .ok (.plogOr p 5#7 0x86#8 0x07#8) ∧
    decodeSeq [3#6 ++ 2#3 ++ 5#7 ++ 134#8 ++ 7#8] = .ok (.plogXor p 5#7 0x86#8 0x07#8) ∧
    decodeSeq [3#6 ++ 3#3 ++ 5#7 ++ 134#8 ++ 7#8] = .ok (.plogAndn p 5#7 0x86#8 0x07#8) ∧
    decodeSeq [3#6 ++ 4#3 ++ 5#7 ++ 134#8 ++ 0#8] = .ok (.pmov p 5#7 0x86#8) ∧
    decodeSeq [3#6 ++ 5#3 ++ 8#7 ++ 0#8 ++ 131#8] = .ok (.pset p 8#7 (.sreg 3#5)) ∧
    decodeSeq [3#6 ++ 6#3 ++ 5#7 ++ 9#8 ++ 0#8] = .ok (.ballot p 5#7 9#7) := by
  and_intros <;> rfl

theorem test_decode_4 : decodeSeq [4#6 ++ 0#3 ++ 5#7 ++ 6#8 ++ 131#8] = .ok (.cmpEq p 5#7 (.reg 6#7) (.sreg 3#5)) ∧
    decodeSeq [4#6 ++ 1#3 ++ 5#7 ++ 6#8 ++ 131#8] = .ok (.cmpNe p 5#7 (.reg 6#7) (.sreg 3#5)) ∧
    decodeSeq [4#6 ++ 2#3 ++ 5#7 ++ 6#8 ++ 131#8] = .ok (.cmpLt p 5#7 (.reg 6#7) (.sreg 3#5)) ∧
    decodeSeq [4#6 ++ 3#3 ++ 5#7 ++ 6#8 ++ 131#8] = .ok (.cmpLe p 5#7 (.reg 6#7) (.sreg 3#5)) ∧
    decodeSeq [4#6 ++ 4#3 ++ 5#7 ++ 6#8 ++ 131#8] = .ok (.cmpGt p 5#7 (.reg 6#7) (.sreg 3#5)) ∧
    decodeSeq [4#6 ++ 5#3 ++ 5#7 ++ 6#8 ++ 131#8] = .ok (.cmpGe p 5#7 (.reg 6#7) (.sreg 3#5)) ∧
    decodeSeq [4#6 ++ 6#3 ++ 5#7 ++ 6#8 ++ 131#8] = .ok (.cmpLtn p 5#7 (.reg 6#7) (.sreg 3#5)) ∧
    decodeSeq [4#6 ++ 7#3 ++ 5#7 ++ 6#8 ++ 131#8] = .ok (.cmpGen p 5#7 (.reg 6#7) (.sreg 3#5)) := by
  and_intros <;> rfl

theorem test_decode_5 : decodeSeq [5#6 ++ 0#3 ++ 5#7 ++ 6#8 ++ 131#8] = .ok (.fcmpF32Eq p 5#7 (.reg 6#7) (.sreg 3#5)) ∧
    decodeSeq [5#6 ++ 1#3 ++ 5#7 ++ 6#8 ++ 131#8] = .ok (.fcmpF32Ne p 5#7 (.reg 6#7) (.sreg 3#5)) ∧
    decodeSeq [5#6 ++ 2#3 ++ 5#7 ++ 6#8 ++ 131#8] = .ok (.fcmpF32Lt p 5#7 (.reg 6#7) (.sreg 3#5)) ∧
    decodeSeq [5#6 ++ 3#3 ++ 5#7 ++ 6#8 ++ 131#8] = .ok (.fcmpF32Le p 5#7 (.reg 6#7) (.sreg 3#5)) ∧
    decodeSeq [5#6 ++ 4#3 ++ 5#7 ++ 6#8 ++ 131#8] = .ok (.fcmpF32Gt p 5#7 (.reg 6#7) (.sreg 3#5)) ∧
    decodeSeq [5#6 ++ 5#3 ++ 5#7 ++ 6#8 ++ 131#8] = .ok (.fcmpF32Ge p 5#7 (.reg 6#7) (.sreg 3#5)) ∧
    decodeSeq [5#6 ++ 6#3 ++ 5#7 ++ 6#8 ++ 131#8] = .ok (.fcmpF32Un p 5#7 (.reg 6#7) (.sreg 3#5)) ∧
    decodeSeq [5#6 ++ 7#3 ++ 5#7 ++ 6#8 ++ 131#8] = .ok (.fcmpF32Or p 5#7 (.reg 6#7) (.sreg 3#5)) := by
  and_intros <;> rfl

theorem test_decode_6 : decodeSeq [6#6 ++ 0#3 ++ 5#7 ++ 6#8 ++ 131#8] = .ok (.fcmpF64Eq p 5#7 (.reg 6#7) (.sreg 3#5)) ∧
    decodeSeq [6#6 ++ 1#3 ++ 5#7 ++ 6#8 ++ 131#8] = .ok (.fcmpF64Ne p 5#7 (.reg 6#7) (.sreg 3#5)) ∧
    decodeSeq [6#6 ++ 2#3 ++ 5#7 ++ 6#8 ++ 131#8] = .ok (.fcmpF64Lt p 5#7 (.reg 6#7) (.sreg 3#5)) ∧
    decodeSeq [6#6 ++ 3#3 ++ 5#7 ++ 6#8 ++ 131#8] = .ok (.fcmpF64Le p 5#7 (.reg 6#7) (.sreg 3#5)) ∧
    decodeSeq [6#6 ++ 4#3 ++ 5#7 ++ 6#8 ++ 131#8] = .ok (.fcmpF64Gt p 5#7 (.reg 6#7) (.sreg 3#5)) ∧
    decodeSeq [6#6 ++ 5#3 ++ 5#7 ++ 6#8 ++ 131#8] = .ok (.fcmpF64Ge p 5#7 (.reg 6#7) (.sreg 3#5)) ∧
    decodeSeq [6#6 ++ 6#3 ++ 5#7 ++ 6#8 ++ 131#8] = .ok (.fcmpF64Un p 5#7 (.reg 6#7) (.sreg 3#5)) ∧
    decodeSeq [6#6 ++ 7#3 ++ 5#7 ++ 6#8 ++ 131#8] = .ok (.fcmpF64Or p 5#7 (.reg 6#7) (.sreg 3#5)) := by
  and_intros <;> rfl

theorem test_decode_7 : decodeSeq [7#6 ++ 0#3 ++ 5#7 ++ 6#8 ++ 131#8] = .ok (.add p 5#7 (.reg 6#7) (.sreg 3#5)) ∧
    decodeSeq [7#6 ++ 1#3 ++ 5#7 ++ 6#8 ++ 131#8] = .ok (.sub p 5#7 (.reg 6#7) (.sreg 3#5)) ∧
    decodeSeq [7#6 ++ 2#3 ++ 5#7 ++ 6#8 ++ 131#8] = .ok (.mul p 5#7 (.reg 6#7) (.sreg 3#5)) ∧
    decodeSeq [7#6 ++ 3#3 ++ 5#7 ++ 6#8 ++ 131#8] = .ok (.mulh p 5#7 (.reg 6#7) (.sreg 3#5)) ∧
    decodeSeq [7#6 ++ 4#3 ++ 5#7 ++ 6#8 ++ 131#8] = .ok (.mulhN p 5#7 (.reg 6#7) (.sreg 3#5)) ∧
    decodeSeq [7#6 ++ 5#3 ++ 5#7 ++ 6#8 ++ 131#8] = .ok (.min p 5#7 (.reg 6#7) (.sreg 3#5)) ∧
    decodeSeq [7#6 ++ 6#3 ++ 5#7 ++ 6#8 ++ 131#8] = .ok (.max p 5#7 (.reg 6#7) (.sreg 3#5)) ∧
    decodeSeq [7#6 ++ 7#3 ++ 5#7 ++ 6#8 ++ 131#8] = .ok (.minN p 5#7 (.reg 6#7) (.sreg 3#5)) := by
  and_intros <;> rfl

theorem test_decode_8 : decodeSeq [8#6 ++ 0#3 ++ 5#7 ++ 6#8 ++ 131#8] = .ok (.div p 5#7 (.reg 6#7) (.sreg 3#5)) ∧
    decodeSeq [8#6 ++ 1#3 ++ 5#7 ++ 6#8 ++ 131#8] = .ok (.divN p 5#7 (.reg 6#7) (.sreg 3#5)) ∧
    decodeSeq [8#6 ++ 2#3 ++ 5#7 ++ 6#8 ++ 131#8] = .ok (.rem p 5#7 (.reg 6#7) (.sreg 3#5)) ∧
    decodeSeq [8#6 ++ 3#3 ++ 5#7 ++ 6#8 ++ 131#8] = .ok (.remN p 5#7 (.reg 6#7) (.sreg 3#5)) ∧
    decodeSeq [8#6 ++ 4#3 ++ 5#7 ++ 6#8 ++ 131#8] = .ok (.maxN p 5#7 (.reg 6#7) (.sreg 3#5)) ∧
    decodeSeq [8#6 ++ 5#3 ++ 5#7 ++ 241#8 ++ 0#8] = .ok (.abs p 5#7 .thread) ∧
    decodeSeq [8#6 ++ 6#3 ++ 5#7 ++ 241#8 ++ 0#8] = .ok (.neg p 5#7 .thread) ∧
    decodeSeq [8#6 ++ 7#3 ++ 5#7 ++ 6#8 ++ 131#8] = .ok (.mad p 5#7 (.reg 6#7) (.sreg 3#5)) := by
  and_intros <;> rfl

theorem test_decode_9 : decodeSeq [9#6 ++ 0#3 ++ 5#7 ++ 6#8 ++ 131#8] = .ok (.and p 5#7 (.reg 6#7) (.sreg 3#5)) ∧
    decodeSeq [9#6 ++ 1#3 ++ 5#7 ++ 6#8 ++ 131#8] = .ok (.or p 5#7 (.reg 6#7) (.sreg 3#5)) ∧
    decodeSeq [9#6 ++ 2#3 ++ 5#7 ++ 6#8 ++ 131#8] = .ok (.xor p 5#7 (.reg 6#7) (.sreg 3#5)) ∧
    decodeSeq [9#6 ++ 3#3 ++ 5#7 ++ 6#8 ++ 131#8] = .ok (.andn p 5#7 (.reg 6#7) (.sreg 3#5)) ∧
    decodeSeq [9#6 ++ 4#3 ++ 5#7 ++ 241#8 ++ 0#8] = .ok (.not p 5#7 .thread) ∧
    decodeSeq [9#6 ++ 5#3 ++ 5#7 ++ 6#8 ++ 131#8] = .ok (.sel p 5#7 (.reg 6#7) (.sreg 3#5)) ∧
    decodeSeq [9#6 ++ 6#3 ++ 5#7 ++ 241#8 ++ 0#8] = .ok (.mov p 5#7 .thread) ∧
    decodeSeq [9#6 ++ 7#3 ++ 5#7 ++ 6#8 ++ 0#8] = .ok (.smov p 5#7 (.reg 6#7)) ∧
    decodeSeq [9#6 ++ 7#3 ++ 5#7 ++ 6#8 ++ 1#8] = .ok (.smovHi p 5#7 (.reg 6#7)) := by
  and_intros <;> rfl

theorem test_decode_10 : decodeSeq [10#6 ++ 0#3 ++ 5#7 ++ 6#8 ++ 131#8] = .ok (.shl p 5#7 (.reg 6#7) (.sreg 3#5)) ∧
    decodeSeq [10#6 ++ 1#3 ++ 5#7 ++ 6#8 ++ 131#8] = .ok (.shr p 5#7 (.reg 6#7) (.sreg 3#5)) ∧
    decodeSeq [10#6 ++ 2#3 ++ 5#7 ++ 6#8 ++ 131#8] = .ok (.sra p 5#7 (.reg 6#7) (.sreg 3#5)) ∧
    decodeSeq [10#6 ++ 3#3 ++ 5#7 ++ 241#8 ++ 0#8] = .ok (.popc p 5#7 .thread) ∧
    decodeSeq [10#6 ++ 4#3 ++ 5#7 ++ 241#8 ++ 0#8] = .ok (.clz p 5#7 .thread) ∧
    decodeSeq [10#6 ++ 5#3 ++ 5#7 ++ 241#8 ++ 0#8] = .ok (.brev p 5#7 .thread) := by
  and_intros <;> rfl

theorem test_decode_11 : decodeSeq [11#6 ++ 0#3 ++ 5#7 ++ 6#8 ++ 131#8] = .ok (.bfe p 5#7 (.reg 6#7) (.sreg 3#5)) ∧
    decodeSeq [11#6 ++ 1#3 ++ 5#7 ++ 6#8 ++ 131#8] = .ok (.bfeN p 5#7 (.reg 6#7) (.sreg 3#5)) ∧
    decodeSeq [11#6 ++ 2#3 ++ 5#7 ++ 6#8 ++ 131#8] = .ok (.bfi p 5#7 (.reg 6#7) (.sreg 3#5)) ∧
    decodeSeq [11#6 ++ 3#3 ++ 5#7 ++ 6#8 ++ 131#8] = .ok (.perm p 5#7 (.reg 6#7) (.sreg 3#5)) := by
  and_intros <;> rfl

theorem test_decode_12 : decodeSeq [12#6 ++ 0#3 ++ 4#7 ++ 6#8 ++ 131#8] = .ok (.addI64 p 4#7 (.reg 6#7) (.sreg 3#5)) ∧
    decodeSeq [12#6 ++ 1#3 ++ 4#7 ++ 6#8 ++ 131#8] = .ok (.subI64 p 4#7 (.reg 6#7) (.sreg 3#5)) ∧
    decodeSeq [12#6 ++ 2#3 ++ 4#7 ++ 6#8 ++ 131#8] = .ok (.mulI64 p 4#7 (.reg 6#7) (.sreg 3#5)) ∧
    decodeSeq [12#6 ++ 3#3 ++ 4#7 ++ 6#8 ++ 131#8] = .ok (.shlI64 p 4#7 (.reg 6#7) (.sreg 3#5)) ∧
    decodeSeq [12#6 ++ 4#3 ++ 4#7 ++ 6#8 ++ 131#8] = .ok (.shrI64 p 4#7 (.reg 6#7) (.sreg 3#5)) ∧
    decodeSeq [12#6 ++ 5#3 ++ 4#7 ++ 241#8 ++ 0#8] = .ok (.movI64 p 4#7 .thread) := by
  and_intros <;> rfl

theorem test_decode_13 : decodeSeq [13#6 ++ 0#3 ++ 5#7 ++ 6#8 ++ 131#8] = .ok (.fadd p 5#7 (.reg 6#7) (.sreg 3#5)) ∧
    decodeSeq [13#6 ++ 1#3 ++ 5#7 ++ 6#8 ++ 131#8] = .ok (.fsub p 5#7 (.reg 6#7) (.sreg 3#5)) ∧
    decodeSeq [13#6 ++ 2#3 ++ 5#7 ++ 6#8 ++ 131#8] = .ok (.fmul p 5#7 (.reg 6#7) (.sreg 3#5)) ∧
    decodeSeq [13#6 ++ 3#3 ++ 5#7 ++ 6#8 ++ 131#8] = .ok (.ffma p 5#7 (.reg 6#7) (.sreg 3#5)) ∧
    decodeSeq [13#6 ++ 4#3 ++ 5#7 ++ 6#8 ++ 131#8] = .ok (.fmin p 5#7 (.reg 6#7) (.sreg 3#5)) ∧
    decodeSeq [13#6 ++ 5#3 ++ 5#7 ++ 6#8 ++ 131#8] = .ok (.fmax p 5#7 (.reg 6#7) (.sreg 3#5)) ∧
    decodeSeq [13#6 ++ 6#3 ++ 5#7 ++ 241#8 ++ 0#8] = .ok (.fabs p 5#7 .thread) ∧
    decodeSeq [13#6 ++ 7#3 ++ 5#7 ++ 241#8 ++ 0#8] = .ok (.fneg p 5#7 .thread) := by
  and_intros <;> rfl

theorem test_decode_14 : decodeSeq [14#6 ++ 0#3 ++ 5#7 ++ 6#8 ++ 131#8] = .ok (.faddF16x2 p 5#7 (.reg 6#7) (.sreg 3#5)) ∧
    decodeSeq [14#6 ++ 1#3 ++ 5#7 ++ 6#8 ++ 131#8] = .ok (.fsubF16x2 p 5#7 (.reg 6#7) (.sreg 3#5)) ∧
    decodeSeq [14#6 ++ 2#3 ++ 5#7 ++ 6#8 ++ 131#8] = .ok (.fmulF16x2 p 5#7 (.reg 6#7) (.sreg 3#5)) ∧
    decodeSeq [14#6 ++ 3#3 ++ 5#7 ++ 6#8 ++ 131#8] = .ok (.ffmaF16x2 p 5#7 (.reg 6#7) (.sreg 3#5)) ∧
    decodeSeq [14#6 ++ 4#3 ++ 5#7 ++ 6#8 ++ 131#8] = .ok (.fminF16x2 p 5#7 (.reg 6#7) (.sreg 3#5)) ∧
    decodeSeq [14#6 ++ 5#3 ++ 5#7 ++ 6#8 ++ 131#8] = .ok (.fmaxF16x2 p 5#7 (.reg 6#7) (.sreg 3#5)) ∧
    decodeSeq [14#6 ++ 6#3 ++ 5#7 ++ 241#8 ++ 0#8] = .ok (.fabsF16x2 p 5#7 .thread) ∧
    decodeSeq [14#6 ++ 7#3 ++ 5#7 ++ 241#8 ++ 0#8] = .ok (.fnegF16x2 p 5#7 .thread) := by
  and_intros <;> rfl

theorem test_decode_15 : decodeSeq [15#6 ++ 0#3 ++ 5#7 ++ 6#8 ++ 131#8] = .ok (.faddBf16x2 p 5#7 (.reg 6#7) (.sreg 3#5)) ∧
    decodeSeq [15#6 ++ 1#3 ++ 5#7 ++ 6#8 ++ 131#8] = .ok (.fsubBf16x2 p 5#7 (.reg 6#7) (.sreg 3#5)) ∧
    decodeSeq [15#6 ++ 2#3 ++ 5#7 ++ 6#8 ++ 131#8] = .ok (.fmulBf16x2 p 5#7 (.reg 6#7) (.sreg 3#5)) ∧
    decodeSeq [15#6 ++ 3#3 ++ 5#7 ++ 6#8 ++ 131#8] = .ok (.ffmaBf16x2 p 5#7 (.reg 6#7) (.sreg 3#5)) ∧
    decodeSeq [15#6 ++ 4#3 ++ 5#7 ++ 6#8 ++ 131#8] = .ok (.fminBf16x2 p 5#7 (.reg 6#7) (.sreg 3#5)) ∧
    decodeSeq [15#6 ++ 5#3 ++ 5#7 ++ 6#8 ++ 131#8] = .ok (.fmaxBf16x2 p 5#7 (.reg 6#7) (.sreg 3#5)) ∧
    decodeSeq [15#6 ++ 6#3 ++ 5#7 ++ 241#8 ++ 0#8] = .ok (.fabsBf16x2 p 5#7 .thread) ∧
    decodeSeq [15#6 ++ 7#3 ++ 5#7 ++ 241#8 ++ 0#8] = .ok (.fnegBf16x2 p 5#7 .thread) := by
  and_intros <;> rfl

theorem test_decode_16 : decodeSeq [16#6 ++ 0#3 ++ 4#7 ++ 6#8 ++ 131#8] = .ok (.faddF64 p 4#7 (.reg 6#7) (.sreg 3#5)) ∧
    decodeSeq [16#6 ++ 1#3 ++ 4#7 ++ 6#8 ++ 131#8] = .ok (.fsubF64 p 4#7 (.reg 6#7) (.sreg 3#5)) ∧
    decodeSeq [16#6 ++ 2#3 ++ 4#7 ++ 6#8 ++ 131#8] = .ok (.fmulF64 p 4#7 (.reg 6#7) (.sreg 3#5)) ∧
    decodeSeq [16#6 ++ 3#3 ++ 4#7 ++ 6#8 ++ 131#8] = .ok (.ffmaF64 p 4#7 (.reg 6#7) (.sreg 3#5)) ∧
    decodeSeq [16#6 ++ 4#3 ++ 4#7 ++ 6#8 ++ 131#8] = .ok (.fminF64 p 4#7 (.reg 6#7) (.sreg 3#5)) ∧
    decodeSeq [16#6 ++ 5#3 ++ 4#7 ++ 6#8 ++ 131#8] = .ok (.fmaxF64 p 4#7 (.reg 6#7) (.sreg 3#5)) ∧
    decodeSeq [16#6 ++ 6#3 ++ 4#7 ++ 241#8 ++ 0#8] = .ok (.fabsF64 p 4#7 .thread) ∧
    decodeSeq [16#6 ++ 7#3 ++ 4#7 ++ 241#8 ++ 0#8] = .ok (.fnegF64 p 4#7 .thread) := by
  and_intros <;> rfl

theorem test_decode_17 : decodeSeq [17#6 ++ 0#3 ++ 5#7 ++ 241#8 ++ 0#8] = .ok (.frcp p 5#7 .thread) ∧
    decodeSeq [17#6 ++ 1#3 ++ 5#7 ++ 241#8 ++ 0#8] = .ok (.frsq p 5#7 .thread) ∧
    decodeSeq [17#6 ++ 2#3 ++ 5#7 ++ 241#8 ++ 0#8] = .ok (.fsqrt p 5#7 .thread) ∧
    decodeSeq [17#6 ++ 3#3 ++ 5#7 ++ 241#8 ++ 0#8] = .ok (.fexp2 p 5#7 .thread) ∧
    decodeSeq [17#6 ++ 4#3 ++ 5#7 ++ 241#8 ++ 0#8] = .ok (.flog2 p 5#7 .thread) ∧
    decodeSeq [17#6 ++ 5#3 ++ 5#7 ++ 6#8 ++ 131#8] = .ok (.fdiv p 5#7 (.reg 6#7) (.sreg 3#5)) := by
  and_intros <;> rfl

theorem test_decode_18 : decodeSeq [18#6 ++ 0#3 ++ 5#7 ++ 241#8 ++ 0#8] = .ok (.frnd p 5#7 .thread) ∧
    decodeSeq [18#6 ++ 1#3 ++ 5#7 ++ 6#8 ++ 131#8] = .ok (.fclass p 5#7 (.reg 6#7) (.sreg 3#5)) ∧
    decodeSeq [18#6 ++ 2#3 ++ 5#7 ++ 0#8 ++ 131#8] = .ok (.fflag p 5#7 (.sreg 3#5)) ∧
    decodeSeq [18#6 ++ 3#3 ++ 5#7 ++ 6#8 ++ 131#8] = .ok (.fscl p 5#7 (.reg 6#7) (.sreg 3#5)) ∧
    decodeSeq [18#6 ++ 4#3 ++ 5#7 ++ 6#8 ++ 131#8] = .ok (.fdot2 p 5#7 (.reg 6#7) (.sreg 3#5)) ∧
    decodeSeq [18#6 ++ 5#3 ++ 5#7 ++ 6#8 ++ 131#8] = .ok (.fdot4 p 5#7 (.reg 6#7) (.sreg 3#5)) ∧
    decodeSeq [18#6 ++ 6#3 ++ 5#7 ++ 6#8 ++ 131#8] = .ok (.fdot8 p 5#7 (.reg 6#7) (.sreg 3#5)) := by
  and_intros <;> rfl

theorem test_decode_19 : decodeSeq [19#6 ++ 3#3 ++ 5#7 ++ 6#8 ++ 42#8] = .ok (.cvt p 3#3 5#7 (.reg 6#7) 0x2A#8) := by
  and_intros <;> rfl

theorem test_decode_20 : decodeSeq [20#6 ++ 0#3 ++ 5#7 ++ 6#8 ++ 36#8] = .ok (.cvtnPk p 5#7 (.reg 6#7) 0x24#8) ∧
    decodeSeq [20#6 ++ 1#3 ++ 5#7 ++ 6#8 ++ 36#8] = .ok (.cvtnUp p 5#7 (.reg 6#7) 0x24#8) ∧
    decodeSeq [20#6 ++ 2#3 ++ 5#7 ++ 6#8 ++ 36#8] = .ok (.cvtnPk6 p 5#7 (.reg 6#7) 0x24#8) ∧
    decodeSeq [20#6 ++ 3#3 ++ 5#7 ++ 6#8 ++ 36#8] = .ok (.cvtnUp6 p 5#7 (.reg 6#7) 0x24#8) ∧
    decodeSeq [20#6 ++ 4#3 ++ 4#7 ++ 6#8 ++ 36#8] = .ok (.mxscale p 4#7 (.reg 6#7) 0x24#8) := by
  and_intros <;> rfl

theorem test_decode_21a : decodeSeq [21#6 ++ 0#3 ++ 5#7 ++ 6#8 ++ 131#8] = .ok (.shflI p 5#7 (.reg 6#7) (.sreg 3#5)) ∧
    decodeSeq [21#6 ++ 1#3 ++ 5#7 ++ 6#8 ++ 131#8] = .ok (.shflX p 5#7 (.reg 6#7) (.sreg 3#5)) ∧
    decodeSeq [21#6 ++ 2#3 ++ 5#7 ++ 6#8 ++ 131#8] = .ok (.shflD p 5#7 (.reg 6#7) (.sreg 3#5)) ∧
    decodeSeq [21#6 ++ 3#3 ++ 5#7 ++ 6#8 ++ 131#8] = .ok (.bcast p 5#7 (.reg 6#7) (.sreg 3#5)) ∧
    decodeSeq [21#6 ++ 4#3 ++ 5#7 ++ 6#8 ++ 8#8] = .ok (.redAdd p 5#7 (.reg 6#7) 2#2) ∧
    decodeSeq [21#6 ++ 5#3 ++ 5#7 ++ 6#8 ++ 8#8] = .ok (.redMin p 5#7 (.reg 6#7) 2#2) ∧
    decodeSeq [21#6 ++ 6#3 ++ 5#7 ++ 6#8 ++ 8#8] = .ok (.redMax p 5#7 (.reg 6#7) 2#2) ∧
    decodeSeq [21#6 ++ 7#3 ++ 5#7 ++ 6#8 ++ 20#8] = .ok (.scanAdd p 5#7 (.reg 6#7) true 1#2) ∧
    decodeSeq [21#6 ++ 7#3 ++ 5#7 ++ 6#8 ++ 21#8] = .ok (.scanMin p 5#7 (.reg 6#7) true 1#2) := by
  and_intros <;> rfl

theorem test_decode_21b : decodeSeq [21#6 ++ 7#3 ++ 5#7 ++ 6#8 ++ 22#8] = .ok (.scanMax p 5#7 (.reg 6#7) true 1#2) := by
  and_intros <;> rfl

theorem test_decode_22 : decodeSeq [22#6 ++ 0#3 ++ 5#7 ++ 11#8 ++ 131#8] = .ok (.tatomWr p 5#7 11#4 (.sreg 3#5)) ∧
    decodeSeq [22#6 ++ 1#3 ++ 5#7 ++ 11#8 ++ 131#8] = .ok (.tatomAdd p 5#7 11#4 (.sreg 3#5)) ∧
    decodeSeq [22#6 ++ 2#3 ++ 5#7 ++ 11#8 ++ 131#8] = .ok (.tatomMax p 5#7 11#4 (.sreg 3#5)) ∧
    decodeSeq [22#6 ++ 3#3 ++ 5#7 ++ 11#8 ++ 131#8] = .ok (.tatomCas p 5#7 11#4 (.sreg 3#5)) := by
  and_intros <;> rfl

theorem test_decode_23 : decodeSeq [23#6 ++ 0#3 ++ 3#7 ++ 241#8 ++ 0#8] = .ok (.sdq p 3#7 .thread) ∧
    decodeSeq [23#6 ++ 1#3 ++ 3#7 ++ 241#8 ++ 0#8] = .ok (.sendx p 3#7 .thread) ∧
    decodeSeq [23#6 ++ 2#3 ++ 5#7 ++ 11#8 ++ 0#8] = .ok (.qstatE p 5#7 11#4) ∧
    decodeSeq [23#6 ++ 3#3 ++ 0#7 ++ 11#8 ++ 0#8] = .ok (.qflushE p 11#4) ∧
    decodeSeq [23#6 ++ 4#3 ++ 5#7 ++ 11#8 ++ 0#8] = .ok (.qend p 5#7 11#4) := by
  and_intros <;> rfl

theorem test_decode_24 : decodeSeq [24#6 ++ 0#3 ++ 5#7 ++ 241#8 ++ 0#8] = .ok (.feed p 5#7 .thread) ∧
    decodeSeq [24#6 ++ 1#3 ++ 5#7 ++ 241#8 ++ 0#8] = .ok (.feedEnd p 5#7 .thread) ∧
    decodeSeq [24#6 ++ 2#3 ++ 5#7 ++ 2#8 ++ 0#8] = .ok (.recvx p 5#7 2#2) ∧
    decodeSeq [24#6 ++ 3#3 ++ 5#7 ++ 11#8 ++ 0#8] = .ok (.qstatA p 5#7 11#4) ∧
    decodeSeq [24#6 ++ 4#3 ++ 0#7 ++ 11#8 ++ 0#8] = .ok (.qflushA p 11#4) := by
  and_intros <;> rfl

theorem test_decode_25 : decodeSeq [25#6 ++ 0#3 ++ 5#7 ++ 6#8 ++ 131#8] = .ok (.ldqB8 p 5#7 (.reg 6#7) (.sreg 3#5)) ∧
    decodeSeq [25#6 ++ 1#3 ++ 5#7 ++ 6#8 ++ 131#8] = .ok (.ldqB16 p 5#7 (.reg 6#7) (.sreg 3#5)) ∧
    decodeSeq [25#6 ++ 2#3 ++ 5#7 ++ 6#8 ++ 131#8] = .ok (.ldqB32 p 5#7 (.reg 6#7) (.sreg 3#5)) ∧
    decodeSeq [25#6 ++ 3#3 ++ 5#7 ++ 6#8 ++ 131#8] = .ok (.ldqB64 p 5#7 (.reg 6#7) (.sreg 3#5)) ∧
    decodeSeq [25#6 ++ 4#3 ++ 5#7 ++ 6#8 ++ 131#8] = .ok (.ldqK16 p 5#7 (.reg 6#7) (.sreg 3#5)) ∧
    decodeSeq [25#6 ++ 5#3 ++ 5#7 ++ 6#8 ++ 131#8] = .ok (.ldqLine p 5#7 (.reg 6#7) (.sreg 3#5)) := by
  and_intros <;> rfl

theorem test_decode_26 : decodeSeq [26#6 ++ 0#3 ++ 5#7 ++ 6#8 ++ 131#8] = .ok (.ldI8 p 5#7 (.reg 6#7) (.sreg 3#5)) ∧
    decodeSeq [26#6 ++ 1#3 ++ 5#7 ++ 6#8 ++ 131#8] = .ok (.ldN8 p 5#7 (.reg 6#7) (.sreg 3#5)) ∧
    decodeSeq [26#6 ++ 2#3 ++ 5#7 ++ 6#8 ++ 131#8] = .ok (.ldI16 p 5#7 (.reg 6#7) (.sreg 3#5)) ∧
    decodeSeq [26#6 ++ 3#3 ++ 5#7 ++ 6#8 ++ 131#8] = .ok (.ldN16 p 5#7 (.reg 6#7) (.sreg 3#5)) ∧
    decodeSeq [26#6 ++ 4#3 ++ 5#7 ++ 6#8 ++ 131#8] = .ok (.ldI32 p 5#7 (.reg 6#7) (.sreg 3#5)) ∧
    decodeSeq [26#6 ++ 5#3 ++ 5#7 ++ 6#8 ++ 131#8] = .ok (.ldN32 p 5#7 (.reg 6#7) (.sreg 3#5)) ∧
    decodeSeq [26#6 ++ 6#3 ++ 5#7 ++ 6#8 ++ 131#8] = .ok (.ldB64 p 5#7 (.reg 6#7) (.sreg 3#5)) := by
  and_intros <;> rfl

theorem test_decode_27 : decodeSeq [27#6 ++ 0#3 ++ 5#7 ++ 6#8 ++ 131#8] = .ok (.stB8 p 5#7 (.reg 6#7) (.sreg 3#5)) ∧
    decodeSeq [27#6 ++ 1#3 ++ 5#7 ++ 6#8 ++ 131#8] = .ok (.stB16 p 5#7 (.reg 6#7) (.sreg 3#5)) ∧
    decodeSeq [27#6 ++ 2#3 ++ 5#7 ++ 6#8 ++ 131#8] = .ok (.stB32 p 5#7 (.reg 6#7) (.sreg 3#5)) ∧
    decodeSeq [27#6 ++ 3#3 ++ 5#7 ++ 6#8 ++ 131#8] = .ok (.stB64 p 5#7 (.reg 6#7) (.sreg 3#5)) ∧
    decodeSeq [27#6 ++ 4#3 ++ 3#7 ++ 6#8 ++ 131#8] = .ok (.staB8 p 3#7 (.reg 6#7) (.sreg 3#5)) ∧
    decodeSeq [27#6 ++ 5#3 ++ 3#7 ++ 6#8 ++ 131#8] = .ok (.staB16 p 3#7 (.reg 6#7) (.sreg 3#5)) ∧
    decodeSeq [27#6 ++ 6#3 ++ 3#7 ++ 6#8 ++ 131#8] = .ok (.staB32 p 3#7 (.reg 6#7) (.sreg 3#5)) ∧
    decodeSeq [27#6 ++ 7#3 ++ 3#7 ++ 6#8 ++ 131#8] = .ok (.staB64 p 3#7 (.reg 6#7) (.sreg 3#5)) := by
  and_intros <;> rfl

theorem test_decode_28a : decodeSeq [28#6 ++ 0#3 ++ 69#7 ++ 6#8 ++ 131#8] = .ok (.atomAdd p true 5#5 (.reg 6#7) (.sreg 3#5)) ∧
    decodeSeq [28#6 ++ 1#3 ++ 69#7 ++ 6#8 ++ 131#8] = .ok (.atomMin p true 5#5 (.reg 6#7) (.sreg 3#5)) ∧
    decodeSeq [28#6 ++ 1#3 ++ 37#7 ++ 6#8 ++ 131#8] = .ok (.atomMinN p false 5#5 (.reg 6#7) (.sreg 3#5)) ∧
    decodeSeq [28#6 ++ 2#3 ++ 69#7 ++ 6#8 ++ 131#8] = .ok (.atomMax p true 5#5 (.reg 6#7) (.sreg 3#5)) ∧
    decodeSeq [28#6 ++ 2#3 ++ 37#7 ++ 6#8 ++ 131#8] = .ok (.atomMaxN p false 5#5 (.reg 6#7) (.sreg 3#5)) ∧
    decodeSeq [28#6 ++ 3#3 ++ 69#7 ++ 6#8 ++ 131#8] = .ok (.atomAnd p true 5#5 (.reg 6#7) (.sreg 3#5)) ∧
    decodeSeq [28#6 ++ 4#3 ++ 69#7 ++ 6#8 ++ 131#8] = .ok (.atomOr p true 5#5 (.reg 6#7) (.sreg 3#5)) ∧
    decodeSeq [28#6 ++ 5#3 ++ 69#7 ++ 6#8 ++ 131#8] = .ok (.atomXor p true 5#5 (.reg 6#7) (.sreg 3#5)) ∧
    decodeSeq [28#6 ++ 6#3 ++ 69#7 ++ 6#8 ++ 131#8] = .ok (.atomXchg p true 5#5 (.reg 6#7) (.sreg 3#5)) := by
  and_intros <;> rfl

theorem test_decode_28b : decodeSeq [28#6 ++ 7#3 ++ 68#7 ++ 6#8 ++ 131#8] = .ok (.cas p true 4#5 (.reg 6#7) (.sreg 3#5)) := by
  and_intros <;> rfl

theorem test_decode_29 : decodeSeq [29#6 ++ 0#3 ++ 5#7 ++ 6#8 ++ 131#8] = .ok (.credAddI32 p 5#7 (.reg 6#7) (.sreg 3#5)) ∧
    decodeSeq [29#6 ++ 1#3 ++ 5#7 ++ 6#8 ++ 131#8] = .ok (.credAddF32 p 5#7 (.reg 6#7) (.sreg 3#5)) ∧
    decodeSeq [29#6 ++ 2#3 ++ 5#7 ++ 6#8 ++ 131#8] = .ok (.credMinI32 p 5#7 (.reg 6#7) (.sreg 3#5)) ∧
    decodeSeq [29#6 ++ 3#3 ++ 5#7 ++ 6#8 ++ 131#8] = .ok (.credMaxI32 p 5#7 (.reg 6#7) (.sreg 3#5)) ∧
    decodeSeq [29#6 ++ 4#3 ++ 5#7 ++ 6#8 ++ 131#8] = .ok (.credOrB32 p 5#7 (.reg 6#7) (.sreg 3#5)) ∧
    decodeSeq [29#6 ++ 5#3 ++ 5#7 ++ 6#8 ++ 131#8] = .ok (.credAddI64 p 5#7 (.reg 6#7) (.sreg 3#5)) ∧
    decodeSeq [29#6 ++ 6#3 ++ 5#7 ++ 6#8 ++ 131#8] = .ok (.credMaxF32 p 5#7 (.reg 6#7) (.sreg 3#5)) := by
  and_intros <;> rfl

theorem test_decode_30 : decodeSeq [30#6 ++ 0#3 ++ 0#7 ++ 0#8 ++ 0#8] = .ok (.fence p) ∧
    decodeSeq [30#6 ++ 1#3 ++ 0#7 ++ 6#8 ++ 131#8] = .ok (.pref p (.reg 6#7) (.sreg 3#5)) ∧
    decodeSeq [30#6 ++ 2#3 ++ 0#7 ++ 50#8 ++ 0#8] = .ok (.tgive p 50#6) ∧
    decodeSeq [30#6 ++ 3#3 ++ 0#7 ++ 50#8 ++ 0#8] = .ok (.tclaim p 50#6) ∧
    decodeSeq [30#6 ++ 4#3 ++ 5#7 ++ 50#8 ++ 0#8] = .ok (.tchk p 5#7 50#6) := by
  and_intros <;> rfl

theorem test_decode_31 : decodeSeq [31#6 ++ 0#3 ++ 5#7 ++ 6#8 ++ 131#8] = .ok (.fopen p 5#7 (.reg 6#7) (.sreg 3#5)) ∧
    decodeSeq [31#6 ++ 1#3 ++ 5#7 ++ 11#8 ++ 131#8] = .ok (.fadv p 5#7 11#4 (.sreg 3#5)) ∧
    decodeSeq [31#6 ++ 2#3 ++ 0#7 ++ 11#8 ++ 0#8] = .ok (.fend p 11#4) ∧
    decodeSeq [31#6 ++ 3#3 ++ 0#7 ++ 11#8 ++ 0#8] = .ok (.fclose p 11#4) := by
  and_intros <;> rfl

theorem test_decode_32 : decodeSeq [32#6 ++ 0#3 ++ 5#7 ++ 6#8 ++ 131#8] = .ok (.kins p 5#7 (.reg 6#7) (.sreg 3#5)) ∧
    decodeSeq [32#6 ++ 1#3 ++ 5#7 ++ 6#8 ++ 131#8] = .ok (.kget p 5#7 (.reg 6#7) (.sreg 3#5)) ∧
    decodeSeq [32#6 ++ 2#3 ++ 5#7 ++ 0#8 ++ 131#8] = .ok (.ringClaim p 5#7 (.sreg 3#5)) ∧
    decodeSeq [32#6 ++ 3#3 ++ 0#7 ++ 6#8 ++ 131#8] = .ok (.ringPost p (.reg 6#7) (.sreg 3#5)) ∧
    decodeSeq [32#6 ++ 4#3 ++ 5#7 ++ 0#8 ++ 131#8] = .ok (.ringTake p 5#7 (.sreg 3#5)) ∧
    decodeSeq [32#6 ++ 5#3 ++ 0#7 ++ 6#8 ++ 131#8] = .ok (.ringFree p (.reg 6#7) (.sreg 3#5)) := by
  and_intros <;> rfl

theorem test_decode_33 : decodeSeq [33#6 ++ 0#3 ++ 5#7 ++ 6#8 ++ 131#8] = .ok (.kick p 5#7 (.reg 6#7) (.sreg 3#5)) ∧
    decodeSeq [33#6 ++ 1#3 ++ 5#7 ++ 6#8 ++ 131#8] = .ok (.mbinit p 5#7 (.reg 6#7) (.sreg 3#5)) ∧
    decodeSeq [33#6 ++ 2#3 ++ 5#7 ++ 6#8 ++ 131#8] = .ok (.mbexp p 5#7 (.reg 6#7) (.sreg 3#5)) ∧
    decodeSeq [33#6 ++ 3#3 ++ 0#7 ++ 6#8 ++ 131#8] = .ok (.mbarr p (.reg 6#7) (.sreg 3#5)) ∧
    decodeSeq [33#6 ++ 4#3 ++ 5#7 ++ 6#8 ++ 131#8] = .ok (.mbwait p 5#7 (.reg 6#7) (.sreg 3#5)) ∧
    decodeSeq [33#6 ++ 5#3 ++ 5#7 ++ 6#8 ++ 131#8] = .ok (.xform p 5#7 (.reg 6#7) (.sreg 3#5)) := by
  and_intros <;> rfl

theorem test_decode_34 : decodeSeq [34#6 ++ 0#3 ++ 0#7 ++ 11#8 ++ 131#8] = .ok (.arrive p 11#4 (.sreg 3#5)) ∧
    decodeSeq [34#6 ++ 1#3 ++ 0#7 ++ 11#8 ++ 131#8] = .ok (.arwait p 11#4 (.sreg 3#5)) ∧
    decodeSeq [34#6 ++ 2#3 ++ 0#7 ++ 11#8 ++ 0#8] = .ok (.bwait p 11#4) := by
  and_intros <;> rfl

theorem test_decode_35 : decodeSeq [35#6 ++ 0#3 ++ 5#7 ++ 6#8 ++ 131#8] = .ok (.ngetB32 p 5#7 (.reg 6#7) (.sreg 3#5)) ∧
    decodeSeq [35#6 ++ 1#3 ++ 0#7 ++ 6#8 ++ 131#8] = .ok (.nsend p (.reg 6#7) (.sreg 3#5)) ∧
    decodeSeq [35#6 ++ 2#3 ++ 0#7 ++ 0#8 ++ 0#8] = .ok (.nfence p) := by
  and_intros <;> rfl

theorem test_decode_36 : decodeSeq [36#6 ++ 0#3 ++ 5#7 ++ 6#8 ++ 0#8] = .ok (.kvlk p 5#7 (.reg 6#7)) ∧
    decodeSeq [36#6 ++ 1#3 ++ 5#7 ++ 6#8 ++ 131#8] = .ok (.kvins p 5#7 (.reg 6#7) (.sreg 3#5)) ∧
    decodeSeq [36#6 ++ 2#3 ++ 5#7 ++ 6#8 ++ 0#8] = .ok (.kvdel p 5#7 (.reg 6#7)) ∧
    decodeSeq [36#6 ++ 3#3 ++ 5#7 ++ 6#8 ++ 131#8] = .ok (.kvref p 5#7 (.reg 6#7) (.sreg 3#5)) ∧
    decodeSeq [36#6 ++ 4#3 ++ 5#7 ++ 6#8 ++ 131#8] = .ok (.kvpos p 5#7 (.reg 6#7) (.sreg 3#5)) ∧
    decodeSeq [36#6 ++ 5#3 ++ 5#7 ++ 6#8 ++ 131#8] = .ok (.kvq p 5#7 (.reg 6#7) (.sreg 3#5)) := by
  and_intros <;> rfl

theorem test_decode_37a : decodeSeq [37#6 ++ 0#3 ++ 5#7 ++ 241#8 ++ 0#8] = .ok (.mcv p 5#7 .thread) ∧
    decodeSeq [0xFD232428#32, 37#6 ++ 1#3 ++ 93#7 ++ 33#8 ++ 14#8] = .ok (.mma p { afmt := 0x23#8, bfmt := 0x24#8, pbase := 40#8, bank := 2#2, kb := 3#2, acc := 5#3, atile := 33#6, stage := false, sp := true, cv := 6#3 }) ∧
    decodeSeq [0xFD232428#32, 37#6 ++ 1#3 ++ 93#7 ++ 97#8 ++ 14#8] = .ok (.mmaMinplus p { afmt := 0x23#8, bfmt := 0x24#8, pbase := 40#8, bank := 2#2, kb := 3#2, acc := 5#3, atile := 33#6, stage := false, sp := true, cv := 6#3 }) ∧
    decodeSeq [0xFD232428#32, 37#6 ++ 1#3 ++ 93#7 ++ 161#8 ++ 14#8] = .ok (.mmaMaxtimes p { afmt := 0x23#8, bfmt := 0x24#8, pbase := 40#8, bank := 2#2, kb := 3#2, acc := 5#3, atile := 33#6, stage := false, sp := true, cv := 6#3 }) ∧
    decodeSeq [0xFD232428#32, 37#6 ++ 1#3 ++ 93#7 ++ 225#8 ++ 14#8] = .ok (.mmaOrand p { afmt := 0x23#8, bfmt := 0x24#8, pbase := 40#8, bank := 2#2, kb := 3#2, acc := 5#3, atile := 33#6, stage := false, sp := true, cv := 6#3 }) ∧
    decodeSeq [0xFD232428#32, 37#6 ++ 1#3 ++ 93#7 ++ 33#8 ++ 30#8] = .ok (.mmaStage p { afmt := 0x23#8, bfmt := 0x24#8, pbase := 40#8, bank := 2#2, kb := 3#2, acc := 5#3, atile := 33#6, stage := true, sp := true, cv := 6#3 }) ∧
    decodeSeq [37#6 ++ 2#3 ++ 5#7 ++ 0#8 ++ 0#8] = .ok (.mzero p 5#7) ∧
    decodeSeq [37#6 ++ 3#3 ++ 5#7 ++ 30#8 ++ 0#8] = .ok (.mrdF32 p 5#7 6#3 true true) ∧
    decodeSeq [37#6 ++ 3#3 ++ 5#7 ++ 54#8 ++ 0#8] = .ok (.mrdSt p 5#7 6#3 true) := by
  and_intros <;> rfl

theorem test_decode_37b : decodeSeq [37#6 ++ 4#3 ++ 5#7 ++ 30#8 ++ 0#8] = .ok (.mwrF32 p 5#7 6#3 true true) ∧
    decodeSeq [37#6 ++ 4#3 ++ 5#7 ++ 54#8 ++ 0#8] = .ok (.mwrSt p 5#7 6#3 true) ∧
    decodeSeq [37#6 ++ 5#3 ++ 0#7 ++ 6#8 ++ 0#8] = .ok (.mcont p (.reg 6#7)) ∧
    decodeSeq [37#6 ++ 6#3 ++ 5#7 ++ 6#8 ++ 81#8] = .ok (.mscl p 5#7 6#3 0x51#8) := by
  and_intros <;> rfl

theorem test_decode_38 : decodeSeq [38#6 ++ 0#3 ++ 29#7 ++ 6#8 ++ 81#8] = .ok (.smx p 0x1D#7 (.reg 6#7) 0x51#8) ∧
    decodeSeq [38#6 ++ 1#3 ++ 5#7 ++ 6#8 ++ 0#8] = .ok (.smrg p 5#7 6#3) ∧
    decodeSeq [38#6 ++ 2#3 ++ 5#7 ++ 0#8 ++ 0#8] = .ok (.smfin p 5#7) := by
  and_intros <;> rfl

theorem test_decode_39a : decodeSeq [39#6 ++ 0#3 ++ 0#7 ++ 6#8 ++ 0#8] = .ok (.tenq p (.reg 6#7)) ∧
    decodeSeq [39#6 ++ 1#3 ++ 5#7 ++ 241#8 ++ 0#8] = .ok (.vabort p 5#7 .thread) ∧
    decodeSeq [39#6 ++ 2#3 ++ 5#7 ++ 0#8 ++ 0#8] = .ok (.tstamp p 5#7) ∧
    decodeSeq [39#6 ++ 3#3 ++ 5#7 ++ 69#8 ++ 0#8] = .ok (.rdsr p 5#7 0x45#7) ∧
    decodeSeq [39#6 ++ 4#3 ++ 69#7 ++ 6#8 ++ 0#8] = .ok (.wrsr p 0x45#7 (.reg 6#7)) ∧
    decodeSeq [39#6 ++ 5#3 ++ 0#7 ++ 131#8 ++ 0#8] = .ok (.tlbi p (.sreg 3#5)) ∧
    decodeSeq [39#6 ++ 5#3 ++ 0#7 ++ 0#8 ++ 1#8] = .ok (.tlbiAll p) ∧
    decodeSeq [39#6 ++ 6#3 ++ 5#7 ++ 0#8 ++ 131#8] = .ok (.mcallTelemetry p 5#7 (.sreg 3#5)) ∧
    decodeSeq [39#6 ++ 6#3 ++ 5#7 ++ 1#8 ++ 0#8] = .ok (.mcallLocate p 5#7) := by
  and_intros <;> rfl

theorem test_decode_39b : decodeSeq [39#6 ++ 6#3 ++ 5#7 ++ 2#8 ++ 131#8] = .ok (.mcallPeer p 5#7 (.sreg 3#5)) := by
  and_intros <;> rfl

/-- A VX prefix. -/
def vx (zero : Bool) (rc : BitVec 3) (c : BitVec 8) : Pfx :=
  { vx := some { mask := 5, neg := false, zero := zero, rc := rc, c := c }, mxa := none }
/-- An MXA prefix. -/
def mx (order : BitVec 3) (obs : BitVec 5) (hint : BitVec 2) (rope : Bool) : Pfx :=
  { vx := none, mxa := some { obs := obs, order := order, hint := hint, rope := rope } }
/-- Fields of an `mma`. -/
def mm (stage : Bool) : MmaArgs :=
  { afmt := 0, bfmt := 0, pbase := 0, bank := 0, kb := 0, acc := 0, atile := 0, stage := stage, sp := false, cv := 0 }

/-- VX: what an entry does not accept (R37, R39). -/
theorem test_wf_vx : (Instr.enrol (vx true 0 0) 1).wf = false ∧ (Instr.enrol (vx false 1 0) 1).wf = false ∧
    (Instr.enrol (vx false 0 1) 1).wf = false ∧ (Instr.add (vx true 1 0) 1 (.reg 1) (.reg 1)).wf = false ∧
    (Instr.add (vx true 0 1) 1 (.reg 1) (.reg 1)).wf = false ∧ (Instr.mad (vx true 1 1) 1 (.reg 1) (.reg 1)).wf = false ∧
    (Instr.fadd (vx true 1 1) 1 (.reg 1) (.reg 1)).wf = false ∧ (Instr.smx (vx true 1 0) 1 (.reg 1) 0).wf = false ∧
    (Instr.smx (vx false 1 1) 1 (.reg 1) 0).wf = false ∧ (Instr.ffma (vx true 1 1) 1 (.reg 1) (.reg 1)).wf = true := by decide

/-- IMX: not in A, and of a packed pair only 16 bits (R33, R43). -/
theorem test_wf_imx : (Instr.add p 1 (.imx 1) (.reg 1)).wf = false ∧ (Instr.faddF16x2 p 1 (.reg 1) (.imx 0x10000)).wf = false ∧
    (Instr.faddF16x2 p 1 (.reg 1) (.imx 0xFFFF)).wf = true ∧ (Instr.brx (.imx 1)).wf = false := by decide

/-- MXA: order and mask that agree, an assigned order, and what an entry accepts (R34, Table 6-4). -/
theorem test_wf_mxa : (Instr.ldI32 (mx 1 0 0 false) 1 (.reg 1) (.reg 1)).wf = false ∧
    (Instr.ldI32 (mx 0 1 0 false) 1 (.reg 1) (.reg 1)).wf = false ∧ (Instr.atomAdd (mx 5 1 0 false) true 1 (.reg 1) (.reg 1)).wf = false ∧
    (Instr.ldI32 (mx 2 1 0 false) 1 (.reg 1) (.reg 1)).wf = false ∧ (Instr.stB32 (mx 1 1 0 false) 1 (.reg 1) (.reg 1)).wf = false ∧
    (Instr.ldI32 (mx 0 0 0 true) 1 (.reg 1) (.reg 1)).wf = false ∧ (Instr.ldqK16 (mx 0 0 0 true) 1 (.reg 1) (.reg 1)).wf = true ∧
    (Instr.fence (mx 0 0 0 false)).wf = false ∧ (Instr.kick (mx 1 1 0 false) 1 (.reg 1) (.reg 1)).wf = false ∧
    (Instr.fopen (mx 1 1 0 false) 1 (.reg 1) (.reg 1)).wf = false ∧ (Instr.ngetB32 (mx 1 1 0 false) 1 (.reg 1) (.reg 1)).wf = false ∧
    (Instr.nsend (mx 2 1 0 false) (.reg 1) (.reg 1)).wf = false ∧ (Instr.kget (mx 2 1 0 false) 1 (.reg 1) (.reg 1)).wf = false ∧
    (Instr.add (mx 1 1 0 false) 1 (.reg 1) (.reg 1)).wf = false := by decide

/-- `mma`: STAGE tells the two forms of semiring 0 apart. -/
theorem test_wf_mma : (Instr.mma p (mm true)).wf = false ∧ (Instr.mmaStage p (mm false)).wf = false ∧ (Instr.mma p (mm false)).wf = true := by
  decide

/-- The same faults in words: a prefix that the entry does not accept, a reserved source code, an unassigned opcode, a field that
must be 0 (R35, R43, R46, R49, R53). -/
theorem test_decode_refused : decodeSeq [0xFC000020#32, 7#6 ++ 0#3 ++ 5#7 ++ 6#8 ++ 7#8] = .error .badPfx ∧
    decodeSeq [7#6 ++ 0#3 ++ 5#7 ++ 0xF5#8 ++ 7#8] = .error (.badOperand .both false none) ∧
    decodeSeq [40#6 ++ 0#3 ++ 5#7 ++ 6#8 ++ 7#8] = .error .illegalOp ∧ decodeSeq [1#6 ++ 3#3 ++ 1#7 ++ 0#8 ++ 0#8] = .error (.badOperand .both false none) := by
  and_intros <;> rfl

/-- A team of one group of four lanes on core 0, with the local window's first two tiles. -/
def team0 : Team :=
  { noTeam with task := 1, slots := [0], tpg := 4, gpt := 1, mode := .running,
                lim := { vregs := 64, xregs := 32, nq := 4, depth := 8, tiles := 4, accs := 4 },
                sE := [(1, freshUReg 9)], nb := [(0, freshBarrier (some 4)), (15, freshBarrier (some 4))] }
/-- A thread of the execute side: v1 = −7, v2 = 2, v3 = 0x12345678, v4 = 5, v8 to v11 f32 numbers 1, 2, −3 and a quiet NaN; p1 holds. -/
def eThread (lane : Nat) : Thread :=
  { freshThread 0 lane 0 with
    v := [(1, 0xFFFFFFF9), (2, 2), (3, 0x12345678), (4, 5), (5, BitVec.ofNat 32 lane), (8, 0x3F800000), (9, 0x40000000), (10, 0xC0400000),
          (11, 0x7FC00000), (16, 0xFFFFFFFF), (17, 0), (18, 1), (19, 0)],
    preds := 2 }
/-- A thread of the access side: x1 = −7, x2 = 2, x3 = 0x123456789ABCDEF0, x4 an address of its own in the local window. -/
def aThread (lane : Nat) : Thread :=
  { freshThread 0 lane 0 with
    x := [(1, 0xFFFFFFFFFFFFFFF9), (2, 2), (3, 0x123456789ABCDEF0), (4, localWin + BitVec.ofNat 64 (64 * lane)), (5, localWin)],
    preds := 2 }
/-- A group of the team at an instruction of a block. -/
def grpAt (sd : Side) : Group :=
  { noGroup with side := sd, members := [0, 1, 2, 3], pc := 0x1008, hdr := 0x1000, len := 4 }
/-- The place of the instruction. -/
def at_ (sd : Side) : Cur :=
  { tm := 0, side := sd, gid := match sd with | .e => 0 | .a => 1, pc := 0x1008, hdr := 0x1000, len := 4, next := 0x100C, last := false }
/-- The machine: partition 0 with one core, its task running. -/
def st : State :=
  { State.reset with
    up := true, nextId := 10, cycle := 100, gtc := 1000
    parts := [(0, { freshPart { noCfg with cores := [0], telCap := 4 } with seed := 3 })]
    tasks := [(1, { noTask with state := 3, tpg := 4, gpt := 1, teams := 1, bound := 1, prio := 7, pa := 0x8000, va := 0x8000 })]
    cores := [(0, { freshCore with part := some 0 })]
    clusters := [(0, { task := 1, no := 0, nb15E := freshBarrier (some 4), nb15A := freshBarrier (some 4), teams := [0], restore := false, started := true, saving := false })]
    teams := [(0, team0)]
    threads := [(0, eThread 0), (1, eThread 1), (2, eThread 2), (3, eThread 3), (1024, aThread 0), (1025, aThread 1), (1026, aThread 2), (1027, aThread 3)]
    groups := [(0, grpAt .e), (1, grpAt .a)] }
/-- An issue of the execute group. -/
def onE : State := { st with cur := some (at_ .e) }
/-- An issue of the access group. -/
def onA : State := { st with cur := some (at_ .a) }
/-- The next state, if there is one. -/
noncomputable def nx (i : Instr) (s : State) : Option State := match exec i s with | .next t => some t | _ => none
/-- v(n) of an execute thread after an instruction. -/
noncomputable def vE (i : Instr) (u n : Nat) : Option Word := (nx i onE).map (fun t => (t.thr u).getV n)
/-- x(n) of an access thread after an instruction. -/
noncomputable def xA (i : Instr) (u n : Nat) : Option DWord := (nx i onA).map (fun t => (t.thr (1024 + u)).getX n)
/-- Predicate n of an execute thread after an instruction. -/
noncomputable def pE (i : Instr) (u n : Nat) : Option Bool := (nx i onE).map (fun t => (t.thr u).pred n)
/-- The cause with which a thread of a side enters the handler, or with which its task ends. -/
noncomputable def code (i : Instr) (s : State) : Option Cause :=
  (nx i s).map (fun t => match s.cur with | some c => (t.thr (tkey 0 c.side 0)).h.cause | none => .none)

/-- Integer arithmetic of −7 and 2 at 32 and at 64 bits (Table 20-1). -/
theorem test_arith : vE (.add p 20 (.reg 1) (.reg 2)) 0 20 = some 0xFFFFFFFB ∧ vE (.sub p 20 (.reg 1) (.reg 2)) 0 20 = some 0xFFFFFFF7 ∧
    vE (.mul p 20 (.reg 1) (.reg 2)) 0 20 = some 0xFFFFFFF2 ∧ vE (.mulh p 20 (.reg 1) (.reg 2)) 0 20 = some 0xFFFFFFFF ∧
    vE (.mulhN p 20 (.reg 1) (.reg 2)) 0 20 = some 1 ∧ vE (.min p 20 (.reg 1) (.reg 2)) 0 20 = some 0xFFFFFFF9 ∧
    vE (.max p 20 (.reg 1) (.reg 2)) 0 20 = some 2 ∧ vE (.minN p 20 (.reg 1) (.reg 2)) 0 20 = some 2 ∧
    vE (.maxN p 20 (.reg 1) (.reg 2)) 0 20 = some 0xFFFFFFF9 ∧ vE (.abs p 20 (.reg 1)) 0 20 = some 7 ∧
    vE (.neg p 20 (.reg 2)) 0 20 = some 0xFFFFFFFE ∧
    vE (.mad { vx := some { mask := 0, neg := false, zero := false, rc := 0, c := 4 }, mxa := none } 20 (.reg 1) (.reg 2)) 0 20 = some 0xFFFFFFF7 ∧
    xA (.add p 20 (.reg 1) (.reg 2)) 3 20 = some 0xFFFFFFFFFFFFFFFB ∧ xA (.mulhN p 20 (.reg 1) (.reg 2)) 3 20 = some 1 := by decide +kernel
/-- Divisions truncate (Table 20-1); by 0 they raise DIV_ZERO (R324). -/
theorem test_div : vE (.div p 20 (.reg 1) (.reg 2)) 0 20 = some 0xFFFFFFFD ∧ vE (.divN p 20 (.reg 1) (.reg 2)) 0 20 = some 0x7FFFFFFC ∧
    vE (.rem p 20 (.reg 1) (.reg 2)) 0 20 = some 0xFFFFFFFF ∧ vE (.remN p 20 (.reg 1) (.reg 2)) 0 20 = some 1 := by decide +kernel
/-- Bitwise functions, shifts by less and by more than the width, counts (Tables 20-3 and 20-8). -/
theorem test_bits : vE (.and p 20 (.reg 1) (.reg 4)) 0 20 = some 1 ∧ vE (.or p 20 (.reg 1) (.reg 2)) 0 20 = some 0xFFFFFFFB ∧
    vE (.xor p 20 (.reg 1) (.reg 4)) 0 20 = some 0xFFFFFFFC ∧ vE (.andn p 20 (.reg 4) (.reg 1)) 0 20 = some 4 ∧
    vE (.not p 20 (.reg 1)) 0 20 = some 6 ∧
    vE (.sel { vx := some { mask := 0, neg := false, zero := false, rc := 0, c := 2 }, mxa := none } 20 (.reg 3) (.reg 4)) 0 20 = some 0x12345678 ∧
    vE (.mov p 20 (.sreg 1)) 2 20 = some 9 ∧ vE (.shl p 20 (.reg 4) (.reg 2)) 0 20 = some 20 ∧ vE (.shr p 20 (.reg 1) (.reg 2)) 0 20 = some 0x3FFFFFFE ∧
    vE (.sra p 20 (.reg 1) (.reg 2)) 0 20 = some 0xFFFFFFFE ∧ vE (.shl p 20 (.reg 4) (.imx 32)) 0 20 = some 0 ∧
    vE (.popc p 20 (.reg 3)) 0 20 = some 13 ∧ vE (.clz p 20 (.reg 3)) 0 20 = some 3 ∧ vE (.brev p 20 (.reg 2)) 0 20 = some 0x40000000 := by decide +kernel
/-- Bit fields (R332) and the examples of Table 22-8 for `perm`, with a = 0x12345678. -/
theorem test_fields : vE (.bfe p 20 (.reg 3) (.imx 0x0404)) 0 20 = some 7 ∧ vE (.bfe p 20 (.reg 3) (.imx 0x0403)) 0 20 = some 0xFFFFFFFF ∧
    vE (.bfeN p 20 (.reg 3) (.imx 0x0403)) 0 20 = some 0xF ∧ vE (.bfi p 3 (.reg 1) (.imx 0x0808)) 0 3 = some 0x1234F978 ∧
    vE (.perm p 20 (.reg 3) (.imx 0x0123)) 0 20 = some 0x78563412 := by decide +kernel
/-- 64-bit arithmetic of v pairs (Table 22-1): 0xFFFFFFFF + 1 carries into the high word. -/
theorem test_long : vE (.addI64 p 20 (.reg 16) (.reg 18)) 0 21 = some 1 ∧ vE (.subI64 p 20 (.reg 18) (.reg 16)) 0 21 = some 0xFFFFFFFF ∧
    vE (.mulI64 p 20 (.reg 16) (.reg 16)) 0 21 = some 0xFFFFFFFE ∧ vE (.shlI64 p 20 (.reg 16) (.imm 20)) 0 21 = some 0xF ∧
    vE (.shrI64 p 20 (.reg 16) (.imm 20)) 0 20 = some 0x0FFFFFFF ∧ vE (.movI64 p 20 (.reg 16)) 0 20 = some 0xFFFFFFFF := by decide +kernel
/-- Comparisons of −7 and 2 (Table 20-9). -/
theorem test_cmp : pE (.cmpEq p 5 (.reg 1) (.reg 2)) 0 5 = some false ∧ pE (.cmpNe p 5 (.reg 1) (.reg 2)) 0 5 = some true ∧
    pE (.cmpLt p 5 (.reg 1) (.reg 2)) 0 5 = some true ∧ pE (.cmpLe p 5 (.reg 1) (.reg 2)) 0 5 = some true ∧
    pE (.cmpGt p 5 (.reg 1) (.reg 2)) 0 5 = some false ∧ pE (.cmpGe p 5 (.reg 1) (.reg 2)) 0 5 = some false ∧
    pE (.cmpLtn p 5 (.reg 1) (.reg 2)) 0 5 = some false ∧ pE (.cmpGen p 5 (.reg 1) (.reg 2)) 0 5 = some true ∧
    pE (.cmpEq p 0 (.reg 1) (.reg 1)) 0 0 = some true ∧ pE (.fcmpF32Lt p 5 (.reg 8) (.reg 9)) 0 5 = some true ∧
    pE (.fcmpF32Un p 5 (.reg 8) (.reg 11)) 0 5 = some true ∧ pE (.fcmpF32Ne p 5 (.reg 8) (.reg 11)) 0 5 = some true ∧
    pE (.fcmpF32Or p 5 (.reg 8) (.reg 11)) 0 5 = some false := by decide +kernel
/-- 1 + 2, 1 − 2, 2 · −3, 2 · −3 + 1, the smaller, the absolute value and the negative of f32 numbers (R344). -/
theorem test_float : vE (.fadd p 20 (.reg 8) (.reg 9)) 0 20 = some 0x40400000 ∧ vE (.fsub p 20 (.reg 8) (.reg 9)) 0 20 = some 0xBF800000 ∧
    vE (.fmul p 20 (.reg 9) (.reg 10)) 0 20 = some 0xC0C00000 ∧
    vE (.ffma { vx := some { mask := 0, neg := false, zero := false, rc := 0, c := 8 }, mxa := none } 20 (.reg 9) (.reg 10)) 0 20 = some 0xC0A00000 ∧
    vE (.fmin p 20 (.reg 9) (.reg 10)) 0 20 = some 0xC0400000 ∧ vE (.fmax p 20 (.reg 9) (.reg 10)) 0 20 = some 0x40000000 ∧
    vE (.fabs p 20 (.reg 10)) 0 20 = some 0x40400000 ∧ vE (.fneg p 20 (.reg 10)) 0 20 = some 0x40400000 := by decide +kernel
/-- Exact cases of the special functions: 1/2, 2^2, log2 2, and 1/2 by division; 2.0 to an integer and back to a smaller format. -/
theorem test_special : vE (.frcp p 20 (.reg 9)) 0 20 = some 0x3F000000 ∧ vE (.fexp2 p 20 (.reg 9)) 0 20 = some 0x40800000 ∧
    vE (.flog2 p 20 (.reg 9)) 0 20 = some 0x3F800000 ∧ vE (.fdiv p 20 (.reg 8) (.reg 9)) 0 20 = some 0x3F000000 := by decide +kernel
/-- Predicates (R378), and the lane and thread sources. -/
theorem test_preds : pE (.plogAnd p 5 1 0) 0 5 = some true ∧ pE (.plogXor p 5 1 0) 0 5 = some false ∧ pE (.pmov p 5 0x81) 0 5 = some false ∧
    pE (.pset p 8 (.imx 0x5A)) 0 9 = some true ∧ pE (.pset p 8 (.imx 0x5A)) 0 10 = some false ∧ vE (.mov p 20 .lane) 3 20 = some 3 := by decide +kernel
/-- Across lanes: lane 0 reads lane 2, an exchange with the neighbour, the sum of the lane numbers and its scans (R387, R388). -/
theorem test_cross : vE (.shflI p 20 (.reg 5) (.imm 18)) 0 20 = some 2 ∧ vE (.shflX p 20 (.reg 5) (.imm 17)) 2 20 = some 3 ∧
    vE (.shflD p 20 (.reg 5) (.imm 17)) 3 20 = some 3 ∧ vE (.redAdd p 20 (.reg 5) 0) 1 20 = some 6 ∧ vE (.redMax p 20 (.reg 5) 0) 1 20 = some 3 ∧
    vE (.scanAdd p 20 (.reg 5) true 0) 3 20 = some 3 ∧ vE (.scanAdd p 20 (.reg 5) false 0) 3 20 = some 6 ∧
    vE (.bcast p 20 (.reg 5) (.imm 18)) 0 20 = some 2 := by decide +kernel
/-- A guard that holds for no thread: with zero = 1 every destination becomes 0, without it nothing changes (R39). -/
theorem test_inactive : vE (.add { vx := some { mask := 1, neg := true, zero := true, rc := 0, c := 0 }, mxa := none } 1 (.reg 1) (.reg 2)) 0 1 = some 0 ∧
    vE (.add { vx := some { mask := 1, neg := true, zero := false, rc := 0, c := 0 }, mxa := none } 1 (.reg 1) (.reg 2)) 0 1 = some 0xFFFFFFF9 := by
  decide +kernel
/-- A store enters the store buffer, its drain writes the window's bytes, the lowest address least significant (R48, R394). -/
theorem test_store : ((nx (.stB32 p 3 (.reg 4) .zero) onA).bind (nx (.drain 0 1))).map (fun t => t.readMs (.scratch 0 64) 4) =
    some [0xF0, 0xDE, 0xBC, 0x9A] := by decide +kernel
/-- Loads extend by sign or by zero, and see the store buffer's own bytes (R365, Table 6-2). -/
theorem test_load : ((nx (.stB32 p 3 (.reg 4) .zero) onA).bind (fun t => nx (.ldI8 p 20 (.reg 4) .zero) { t with cur := some (at_ .a) })).map
      (fun t => (t.thr 1025).getX 20) = some 0xFFFFFFFFFFFFFFF0 ∧
    ((nx (.stB32 p 3 (.reg 4) .zero) onA).bind (fun t => nx (.ldN16 p 20 (.reg 4) .zero) { t with cur := some (at_ .a) })).map
      (fun t => (t.thr 1025).getX 20) = some 0xDEF0 := by decide +kernel
/-- Every thread's own step at one word, in ascending lane (R329): each receives the sum before its own. -/
theorem test_atom : xA (.atomAdd p true 20 (.reg 5) (.reg 2)) 3 20 = some 0 := by decide +kernel
/-- The cells of the nonzero bytes of a dword. -/
def cells (pa : Nat) (v : Nat) : List Host.Cell :=
  ((List.range 8).zip (leBytes 8 v)).filterMap (fun e => if e.2 = 0 then none else some (pa + e.1, e.2))
/-- A header of LEN 4, of a kind. -/
def hdrWord (kind : Nat) : Nat := 62 * 2 ^ 26 + 4 * 2 ^ 16 + kind * 2 ^ 36
/-- Memory: tables that map the first 2 MiB to 0x400000, headers at 0x1000, 0x1018 and 0x1040 (where the block at 0x1000 ends), a handler
at 0x3000 that the table at 0x2000 names for DIV_ZERO of both sides; and more above. -/
def memOf (l : List Host.Cell) : List Host.Cell :=
  cells 0x100000 0x200001 ++ cells 0x200000 0x201001 ++ cells 0x201000 0x40003B ++ cells 0x401000 (hdrWord 0) ++ cells 0x401008 (62 * 2 ^ 26) ++
    cells 0x401018 (hdrWord 0) ++ cells 0x401040 (hdrWord 0) ++ [(0x402109, 0x30), (0x402509, 0x30)] ++ cells 0x403000 (hdrWord 1) ++ l
/-- The machine with memory, and a directory at 0x8000. -/
def sm : State :=
  { st with
    parts := [(0, { placedPart with seed := 3, htab := 0x2000, kvdir := 0x8004, kvsalt := 1, eddl := 100 })]
    mem := memOf [] }
/-- An issue of the execute group on it. -/
def mE : State := { sm with cur := some (at_ .e) }
/-- An issue of the access group on it. -/
def mA : State := { sm with cur := some (at_ .a) }
/-- An issue in handler code. -/
def inH (s : State) : State := { s with groups := kmod s.groups 0 (fun g => { g with priv := true }) }
theorem sm_wf : Memory.wf sm.mem = true := by decide +kernel

/-- An issue passes the checks made before its operands, and the group may fall on. -/
def met (s : State) (need : SideReq) (priv : Bool) (q : Pfx) : Bool :=
  match s.cur with
  | some c => s.power && !(s.activeOf c q).isEmpty && !(need == .eOnly && c.side == .a) && !(need == .aOnly && c.side == .e) &&
      (!priv || (s.grp c.gid).priv) && !(c.last && s.fallFault c.tm c.next)
  | none => false
theorem met_spec {s : State} {need : SideReq} {priv : Bool} {q : Pfx} (h : met s need priv q = true) :
    ∃ c, s.cur = some c ∧ Issues s c (s.activeOf c q) need priv q ∧ Falls s c := by
  unfold met at h
  cases hc : s.cur with
  | none => simp [hc] at h
  | some c =>
    refine ⟨c, rfl, ?_⟩
    simp only [hc, Bool.and_eq_true, Bool.not_eq_true', Bool.or_eq_true, Bool.and_eq_false_iff, beq_eq_false_iff_ne] at h
    obtain ⟨⟨⟨⟨⟨h1, h2⟩, h3⟩, h4⟩, h5⟩, h6⟩ := h
    refine ⟨⟨h1, hc, rfl, ?_, ?_, ?_, ?_⟩, ?_⟩
    · intro h; simp [h] at h2
    · rintro ⟨a, b⟩; simp_all
    · rintro ⟨a, b⟩; simp_all
    · intro a; simp_all
    · unfold Falls; cases hl : c.last <;> simp_all

/-- The hypotheses of a statement on rows of one thread each are met at a state. -/
def laneMeets (row : Instr → Option LaneRow) (i : Instr) (s : State) : Bool :=
  match row i, s.cur with
  | some r, some c => met s r.need r.priv r.p && r.ok s c && (s.activeOf c r.p).all (fun u => match r.f s c (c.key u) with | .ok _ => true | _ => false)
  | _, _ => false
theorem laneMeets_spec {row : Instr → Option LaneRow} {i : Instr} {s : State} (h : laneMeets row i s = true) :
    ∃ r c act, row i = some r ∧ Issues s c act r.need r.priv r.p ∧ Falls s c ∧ r.ok s c = true ∧ ∀ u ∈ act, ∃ l, r.f s c (c.key u) = .ok l := by
  unfold laneMeets at h
  cases hr : row i with
  | none => simp [hr] at h
  | some r =>
    cases hc : s.cur with
    | none => simp [hr, hc] at h
    | some c =>
      simp only [hr, hc, Bool.and_eq_true, List.all_eq_true] at h
      obtain ⟨⟨h1, h2⟩, h3⟩ := h
      obtain ⟨c', hc', hi, hf⟩ := met_spec h1
      rw [hc] at hc'; cases hc'
      refine ⟨r, c, _, rfl, hi, hf, h2, fun u hu => ?_⟩
      have := h3 u hu
      cases hx : r.f s c (c.key u) <;> simp_all

/-- The hypotheses of a statement on rows of steps are met at a state. -/
def seqMeets (row : Instr → Option SeqRow) (i : Instr) (s : State) : Bool :=
  match row i, s.cur with
  | some r, some c => met s r.need r.priv r.p && r.ok s c &&
      (s.activeOf c r.p).all (fun u => match r.pre s (c.key u) with | .ok _ => true | _ => false) &&
      (inOrder c (r.f c) (s.activeOf c r.p) s).isSome
  | _, _ => false
theorem seqMeets_spec {row : Instr → Option SeqRow} {i : Instr} {s : State} (h : seqMeets row i s = true) :
    ∃ r c act s', row i = some r ∧ Issues s c act r.need r.priv r.p ∧ Falls s c ∧ r.ok s c = true ∧ (∀ u ∈ act, r.pre s (c.key u) = .ok ()) ∧
      inOrder c (r.f c) act s = some s' := by
  unfold seqMeets at h
  cases hr : row i with
  | none => simp [hr] at h
  | some r =>
    cases hc : s.cur with
    | none => simp [hr, hc] at h
    | some c =>
      simp only [hr, hc, Bool.and_eq_true, List.all_eq_true] at h
      obtain ⟨⟨⟨h1, h2⟩, h3⟩, h4⟩ := h
      obtain ⟨c', hc', hi, hf⟩ := met_spec h1
      rw [hc] at hc'; cases hc'
      obtain ⟨s', hs⟩ := Option.isSome_iff_exists.mp h4
      refine ⟨r, c, _, s', rfl, hi, hf, h2, fun u hu => ?_, hs⟩
      have := h3 u hu
      cases hx : r.pre s (c.key u) <;> simp_all

/-- A guard that p2 holds. -/
def q1 : Pfx := { vx := some { mask := 2, neg := false, zero := false, rc := 0, c := 0 }, mxa := none }
/-- VX with a small immediate 0 as fourth operand. -/
def pc (c : Nat) : Pfx := { vx := some { mask := 0, neg := false, zero := false, rc := 0, c := BitVec.ofNat 8 c }, mxa := none }
/-- A pair with a word in each queue of a thread's: a stream on q2 whose last place is popped, a word in rq1 and in sq1. -/
def fullPair : Pair :=
  { freshPair with q := [(1, { freshQueue with places := [.full 7 false [] false] }),
                         (2, { freshQueue with stream := some { addr := localWin, stride := 4, esz := 2, rem := 0, tail := false, order := 0, mask := 0, stopped := false } })],
                   rq := [(1, [{ w := 7, clk := [], bad := false }])], sq := [(1, [{ w := 7, clk := [], bad := false }, { w := 8, clk := [], bad := false }])] }
/-- Every pair holds words. -/
def withQ (s : State) : State := { s with pairs := [(0, fullPair), (1, fullPair), (2, fullPair), (3, fullPair)] }
/-- A guard that holds for no thread. -/
def never : Pfx := { vx := some { mask := 1, neg := true, zero := true, rc := 0, c := 0 }, mxa := none }

/-- The hypotheses of IntegerArithmetic (laneMeets_spec), for each instruction, on both sides where it has both. -/
theorem witness_IntegerArithmetic : ([.add p 20 (.reg 1) (.reg 2), .sub p 20 (.reg 1) (.reg 2), .mul p 20 (.reg 1) (.reg 2), .mulh p 20 (.reg 1) (.reg 2), .mulhN p 20 (.reg 1) (.reg 2), .min p 20 (.reg 1) (.reg 2), .max p 20 (.reg 1) (.reg 2), .minN p 20 (.reg 1) (.reg 2), .maxN p 20 (.reg 1) (.reg 2), .abs p 20 (.reg 1), .neg p 20 (.imm 0), .mad (pc 4) 20 (.reg 1) .zero].all (fun i => laneMeets arithRow i onE)) = true ∧
    ([.add p 20 (.reg 1) (.reg 2), .sub p 20 (.reg 1) (.reg 2), .mul p 20 (.reg 1) (.reg 2), .mulh p 20 (.reg 1) (.reg 2), .mulhN p 20 (.reg 1) (.reg 2), .min p 20 (.reg 1) (.reg 2), .max p 20 (.reg 1) (.reg 2), .minN p 20 (.reg 1) (.reg 2), .maxN p 20 (.reg 1) (.reg 2), .abs p 20 (.reg 1), .neg p 20 (.imm 0), .mad (pc 4) 20 (.reg 1) .zero].all (fun i => laneMeets arithRow i onA)) = true ∧
    ([.and p 20 (.reg 1) (.reg 2), .or p 20 (.reg 1) (.reg 2), .xor p 20 (.reg 1) (.reg 2), .andn p 20 (.reg 1) (.reg 2), .shl p 20 (.reg 1) (.reg 2), .shr p 20 (.reg 1) (.reg 2), .sra p 20 (.reg 1) (.reg 2), .not p 20 (.reg 1), .mov p 20 (.reg 1), .popc p 20 (.reg 1), .clz p 20 (.reg 1), .brev p 20 (.reg 1), .sel (pc 4) 20 (.reg 1) (.reg 2)].all (fun i => laneMeets bitRow i onE)) = true ∧
    ([.and p 20 (.reg 1) (.reg 2), .or p 20 (.reg 1) (.reg 2), .xor p 20 (.reg 1) (.reg 2), .andn p 20 (.reg 1) (.reg 2), .shl p 20 (.reg 1) (.reg 2), .shr p 20 (.reg 1) (.reg 2), .sra p 20 (.reg 1) (.reg 2), .not p 20 (.reg 1), .mov p 20 (.reg 1), .popc p 20 (.reg 1), .clz p 20 (.reg 1), .brev p 20 (.reg 1), .sel (pc 4) 20 (.reg 1) (.reg 2)].all (fun i => laneMeets bitRow i onA)) = true ∧
    ([.bfe p 20 (.reg 3) (.imx 0), .bfeN p 20 (.reg 3) (.imx 0x2000), .bfi p 20 (.reg 1) (.imx 0x0808), .perm p 20 (.reg 3) (.imx 0x0123)].all (fun i => laneMeets fieldRow i onE)) = true ∧
    ([.bfe p 20 (.reg 3) (.imx 0), .bfeN p 20 (.reg 3) (.imx 0x2000), .bfi p 20 (.reg 1) (.imx 0x0808), .perm p 20 (.reg 3) (.imx 0x0123)].all (fun i => laneMeets fieldRow i onA)) = true ∧
    ([.addI64 p 62 (.reg 16) (.reg 18), .subI64 p 62 (.reg 16) (.reg 18), .mulI64 p 62 (.reg 16) (.reg 18), .shlI64 p 62 (.reg 16) (.reg 18), .shrI64 p 62 (.reg 16) (.reg 18), .movI64 p 62 (.reg 16)].all (fun i => laneMeets longRow i onE)) = true := by decide +kernel
/-- Of Division. -/
theorem witness_Division : ([.div p 20 (.reg 1) (.reg 2), .divN p 20 (.reg 1) (.reg 2), .rem p 20 (.reg 1) (.reg 2), .remN p 20 (.reg 1) (.reg 2)].all (fun i => laneMeets divRow i onE)) = true ∧
    ([.div p 20 (.reg 1) (.reg 2), .divN p 20 (.reg 1) (.reg 2), .rem p 20 (.reg 1) (.reg 2), .remN p 20 (.reg 1) (.reg 2)].all (fun i => laneMeets divRow i onA)) = true := by decide +kernel
/-- Of ComparisonsAndPredicates. -/
theorem witness_ComparisonsAndPredicates : ([.cmpEq p 0 (.reg 1) (.reg 2), .cmpNe p 0 (.reg 1) (.reg 2), .cmpLt p 0 (.reg 1) (.reg 2), .cmpLe p 0 (.reg 1) (.reg 2), .cmpGt p 0 (.reg 1) (.reg 2), .cmpGe p 0 (.reg 1) (.reg 2), .cmpLtn p 0 (.reg 1) (.reg 2), .cmpGen p 0 (.reg 1) (.reg 2)].all (fun i => laneMeets cmpRow i onE)) = true ∧
    ([.cmpEq p 0 (.reg 1) (.reg 2), .cmpNe p 0 (.reg 1) (.reg 2), .cmpLt p 0 (.reg 1) (.reg 2), .cmpLe p 0 (.reg 1) (.reg 2), .cmpGt p 0 (.reg 1) (.reg 2), .cmpGe p 0 (.reg 1) (.reg 2), .cmpLtn p 0 (.reg 1) (.reg 2), .cmpGen p 0 (.reg 1) (.reg 2)].all (fun i => laneMeets cmpRow i onA)) = true ∧
    ([.plogAnd p 5 1 0, .plogOr p 5 1 0, .plogXor p 5 1 0, .plogAndn p 5 1 0, .pmov p 5 0x81, .pset p 120 (.imx 0x5A), .tstamp p 20].all (fun i => laneMeets predRow i onE)) = true ∧
    ([.plogAnd p 5 1 0, .plogOr p 5 1 0, .plogXor p 5 1 0, .plogAndn p 5 1 0, .pmov p 5 0x81, .pset p 120 (.imx 0x5A), .tstamp p 20].all (fun i => laneMeets predRow i onA)) = true := by decide +kernel
/-- Of FloatArithmetic. -/
theorem witness_FloatArithmetic : ([.fadd p 20 (.reg 8) (.reg 9), .fsub p 20 (.reg 8) (.reg 9), .fmul p 20 (.reg 8) (.reg 9), .fmin p 20 (.reg 8) (.reg 9), .fmax p 20 (.reg 8) (.reg 9), .ffma p 20 (.reg 8) (.reg 9), .fabs p 20 (.reg 8), .fneg p 20 (.reg 8), .faddF16x2 p 20 (.reg 8) (.reg 9), .fsubF16x2 p 20 (.reg 8) (.reg 9), .fmulF16x2 p 20 (.reg 8) (.reg 9), .fminF16x2 p 20 (.reg 8) (.reg 9), .fmaxF16x2 p 20 (.reg 8) (.reg 9), .ffmaF16x2 p 20 (.reg 8) (.reg 9), .fabsF16x2 p 20 (.reg 8), .fnegF16x2 p 20 (.reg 8), .faddBf16x2 p 20 (.reg 8) (.reg 9), .fsubBf16x2 p 20 (.reg 8) (.reg 9), .fmulBf16x2 p 20 (.reg 8) (.reg 9), .fminBf16x2 p 20 (.reg 8) (.reg 9), .fmaxBf16x2 p 20 (.reg 8) (.reg 9), .ffmaBf16x2 p 20 (.reg 8) (.reg 9), .fabsBf16x2 p 20 (.reg 8), .fnegBf16x2 p 20 (.reg 8), .faddF64 p 20 (.reg 16) (.reg 18), .fsubF64 p 20 (.reg 16) (.reg 18), .fmulF64 p 20 (.reg 16) (.reg 18), .fminF64 p 20 (.reg 16) (.reg 18), .fmaxF64 p 20 (.reg 16) (.reg 18), .ffmaF64 p 20 (.reg 16) (.reg 18), .fabsF64 p 20 (.reg 16), .fnegF64 p 20 (.reg 16)].all (fun i => laneMeets floatRow i onE)) = true ∧
    ([.fcmpF32Eq p 3 (.reg 8) (.reg 11), .fcmpF32Ne p 3 (.reg 8) (.reg 11), .fcmpF32Lt p 3 (.reg 8) (.reg 11), .fcmpF32Le p 3 (.reg 8) (.reg 11), .fcmpF32Gt p 3 (.reg 8) (.reg 11), .fcmpF32Ge p 3 (.reg 8) (.reg 11), .fcmpF32Un p 3 (.reg 8) (.reg 11), .fcmpF32Or p 3 (.reg 8) (.reg 11), .fcmpF64Eq p 3 (.reg 16) (.reg 18), .fcmpF64Ne p 3 (.reg 16) (.reg 18), .fcmpF64Lt p 3 (.reg 16) (.reg 18), .fcmpF64Le p 3 (.reg 16) (.reg 18), .fcmpF64Gt p 3 (.reg 16) (.reg 18), .fcmpF64Ge p 3 (.reg 16) (.reg 18), .fcmpF64Un p 3 (.reg 16) (.reg 18), .fcmpF64Or p 3 (.reg 16) (.reg 18)].all (fun i => laneMeets fcmpRow i onE)) = true := by decide +kernel
/-- Of SpecialAndConversions. -/
theorem witness_SpecialAndConversions : ([.frcp p 20 (.reg 9), .frsq p 20 (.reg 9), .fsqrt p 20 (.reg 9), .fexp2 p 20 (.reg 9), .flog2 p 20 (.reg 9), .frnd p 20 (.reg 9), .fdiv p 20 (.reg 8) (.reg 9), .fclass p 3 (.reg 8) (.imx 1), .fflag p 20 (.imx 31), .fscl p 20 (.reg 8) (.imm 0), .fdot2 (pc 0x30) 20 (.reg 8) (.reg 9), .fdot4 (pc 0x23) 20 (.reg 8) (.reg 9), .fdot8 (pc 0x20) 20 (.reg 8) (.reg 9)].all (fun i => laneMeets specialRow i onE)) = true ∧
    ([.cvt p 0 20 (.reg 8) 0x2A, .cvtnPk p 20 (.reg 8) 0x23, .cvtnUp p 20 (.reg 8) 0x23, .cvtnPk6 p 20 (.reg 40) 0x21, .cvtnUp6 p 20 (.reg 40) 0x21, .mxscale p 20 (.reg 32) 0x20].all (fun i => laneMeets convRow i onE)) = true := by decide +kernel
/-- Of CrossLane. -/
theorem witness_CrossLane : ([.shflI p 20 (.reg 5) (.imm 0), .shflX p 20 (.reg 5) (.imm 31), .shflD p 20 (.reg 5) (.imm 31), .redAdd p 20 (.reg 5) 2, .redMin p 20 (.reg 5) 2, .redMax p 20 (.reg 5) 2, .scanAdd p 20 (.reg 5) true 0, .scanMin p 20 (.reg 5) true 0, .scanMax p 20 (.reg 5) true 0].all (fun i => laneMeets crossRow i onE)) = true := by decide +kernel
/-- Of QueueInstructions: a word in each queue, and an open stream. -/
theorem witness_QueueInstructions : ([.sdq p 3 (.reg 1), .sendx p 3 (.reg 1), .qstatE p 20 3, .qend p 3 3].all (fun i => laneMeets queueRow i (withQ onE))) = true ∧
    ([.qstatA p 20 3, .feed p 3 (.reg 1), .feedEnd p 3 (.reg 1), .recvx p 20 1, .fadv p 2 2 (.reg 2), .fend p 2, .fclose p 2].all (fun i => laneMeets queueRow i (withQ onA))) = true := by decide +kernel
/-- Of FencesAndReads. -/
theorem witness_FencesAndReads : ([.fence p, .nfence p, .rdsr p 20 0x02, .tchk p 3 3].all (fun i => laneMeets plainRow i onA)) = true ∧
    ([.rdsr p 20 0x00].all (fun i => laneMeets plainRow i onE)) = true := by decide +kernel
/-- Of TeamRegisters (seqMeets_spec), for each instruction. -/
theorem witness_TeamRegisters : ([.smov p 31 (.reg 1), .smovHi p 31 (.reg 1), .tatomWr p 20 15 (.reg 1), .tatomAdd p 20 15 (.reg 1), .tatomMax p 20 0 (.reg 1), .tatomCas (pc 4) 20 0 (.reg 1)].all (fun i => seqMeets teamRow i onE)) = true ∧
    ([.smov p 31 (.reg 1), .tatomWr p 20 15 (.reg 1), .tatomAdd p 20 15 (.reg 1), .tatomMax p 20 0 (.reg 1), .tatomCas (pc 4) 20 0 (.reg 1)].all (fun i => seqMeets teamRow i onA)) = true := by decide +kernel
/-- Of Loads: the first and the last bytes of the window's first tiles, and memory. -/
theorem witness_Loads : ([.ldI8 p 20 (.reg 4) .zero, .ldN8 p 20 (.reg 4) .zero, .ldI16 p 20 (.reg 4) .zero, .ldN16 p 20 (.reg 4) .zero, .ldI32 p 20 (.reg 4) .zero, .ldN32 p 20 (.reg 4) .zero, .ldB64 p 20 (.reg 4) .zero].all (fun i => seqMeets loadRow i onA)) = true ∧
    ([.ldB64 p 20 (.reg 9) .zero].all (fun i => seqMeets loadRow i mA)) = true := by decide +kernel
/-- Of Stores. -/
theorem witness_Stores : ([.stB8 p 3 (.reg 4) .zero, .stB16 p 3 (.reg 4) .zero, .stB32 p 3 (.reg 4) .zero, .stB64 p 3 (.reg 4) .zero].all (fun i => seqMeets storeRow i onA)) = true ∧
    ([.stB8 p 3 (.reg 4) .zero, .stB16 p 3 (.reg 4) .zero, .stB32 p 3 (.reg 4) .zero, .stB64 p 3 (.reg 4) .zero].all (fun i => seqMeets storeRow i mA)) = true ∧
    ([.staB8 p 1 (.reg 4) .zero, .staB16 p 1 (.reg 4) .zero, .staB32 p 1 (.reg 4) .zero, .staB64 p 1 (.reg 4) .zero].all (fun i => seqMeets storeRow i (withQ onA))) = true := by decide +kernel
/-- Of Atomics. -/
theorem witness_Atomics : ([.atomAdd p true 20 (.reg 5) .zero, .atomMin p false 20 (.reg 5) .zero, .atomMinN p true 20 (.reg 5) .zero, .atomMax p false 20 (.reg 5) .zero, .atomMaxN p true 20 (.reg 5) .zero, .atomAnd p false 20 (.reg 5) .zero, .atomOr p true 20 (.reg 5) .zero, .atomXor p false 20 (.reg 5) .zero, .atomXchg p true 20 (.reg 5) .zero, .cas p true 20 (.reg 5) .zero].all (fun i => seqMeets atomRow i onA)) = true ∧
    ([.atomAdd p true 20 (.reg 5) .zero, .atomMin p false 20 (.reg 5) .zero, .atomMinN p true 20 (.reg 5) .zero, .atomMax p false 20 (.reg 5) .zero, .atomMaxN p true 20 (.reg 5) .zero, .atomAnd p false 20 (.reg 5) .zero, .atomOr p true 20 (.reg 5) .zero, .atomXor p false 20 (.reg 5) .zero, .atomXchg p true 20 (.reg 5) .zero, .cas p true 20 (.reg 5) .zero].all (fun i => seqMeets atomRow i mA)) = true := by decide +kernel
/-- The team changed. -/
def wTeam (s : State) (f : Team → Team) : State := { s with teams := kmod s.teams 0 f }
/-- The access threads changed, by lane. -/
def wA (s : State) (f : Nat → Thread → Thread) : State := { s with threads := s.threads.map (fun e => (e.1, if e.1 < 1024 then e.2 else f (e.1 - 1024) e.2)) }
/-- Bytes of the scratchpad: a stream record at 0x1000 (COUNT 1), a copy record at 0x1020 (16 bytes from memory at 0x9000 to tile 1), an mb
object at 0x1040 (TCOUNT 100), a send record at 0x1080. -/
def recs : KMap Byte := [(0x1008, 1), (0x104C, 100)]
/-- The access group's issue with records, rings, a key-value descriptor at 0x9800 (page 0xC000, one reference) and an engine-owned tile 3;
p2 holds in its lowest thread. -/
def uA : State :=
  wA { wTeam mA (fun t => { t with scratch := recs, owner := 8 }) with
       mem := memOf (cells 0x409800 0xC000 ++ cells 0x409810 1)
       rings := [(3, { part := 0, cfg := { base := 0xE000, deadline := true, ssize := 1, logn := 3 }, tail := 4, pub := 0, head := 0, rel := 0, posted := [],
                       freed := [], postClk := [], freeClk := [] }),
                 (4, { part := 0, cfg := { base := 0xE000, deadline := true, ssize := 1, logn := 3 }, tail := 4, pub := 4, head := 0, rel := 0, posted := [],
                       freed := [], postClk := [], freeClk := [] }),
                 (5, { part := 0, cfg := { base := 0xE000, deadline := true, ssize := 1, logn := 3 }, tail := 4, pub := 4, head := 4, rel := 0, posted := [],
                       freed := [], postClk := [], freeClk := [] })] }
     (fun l t => { t with preds := if l = 0 then 6 else 2, x := t.x ++ [(6, BitVec.ofNat 64 (0xE000 + 128 * l)), (7, 0x9000), (8, 0x9800)] })
theorem uA_wf : Memory.wf uA.mem = true := by decide +kernel
/-- A team of 32 lanes a group and four groups. -/
def wide (s : State) : State := wTeam s (fun t => { t with tpg := 32, gpt := 4, slots := [0, 1, 2, 3] })

/-- Of Updates. -/
theorem witness_Updates : ([.credAddI32 p 3 (.reg 5) .zero, .credAddF32 p 3 (.reg 5) .zero, .credMinI32 p 3 (.reg 5) .zero, .credMaxI32 p 3 (.reg 5) .zero, .credOrB32 p 3 (.reg 5) .zero, .credAddI64 p 3 (.reg 5) .zero, .credMaxF32 p 3 (.reg 5) .zero, .pref p (.reg 4) .zero, .fopen p 3 (.reg 5) (.imx 0x1000)].all (fun i => seqMeets updateRow i uA)) = true := by decide +kernel
/-- Of Units. -/
theorem witness_Units : ([.kins q1 8 (.reg 7) (.imx 5), .kget q1 20 (.reg 7) (.imm 23), .ringClaim q1 20 (.imx 3), .ringPost q1 (.reg 6) (.imx 3), .ringTake q1 20 (.imx 4), .ringFree q1 (.reg 6) (.imx 5), .kvlk q1 20 (.reg 10), .kvins q1 20 (.reg 10) (.reg 8), .kvdel q1 20 (.reg 10), .kvref q1 20 (.reg 10) (.imm 17), .kvpos q1 20 (.reg 8) (.imx 7), .kvq q1 3 (.reg 7) (.reg 7), .mbinit q1 2 (.reg 5) (.imx 0x2000), .mbexp q1 2 (.reg 5) (.imx 0x2000), .mbarr q1 (.reg 5) (.imx 0x1040), .mbwait q1 2 (.reg 5) (.imx 0x1040), .xform q1 20 (.reg 5) .zero].all (fun i => seqMeets unitRow i uA)) = true := by decide +kernel
/-- Of SystemInstructions: TCBs that are refused, an own task, and privileged code. -/
theorem witness_SystemInstructions : ([.tenq p (.tr 0), .vabort p 20 .zero].all (fun i => seqMeets systemRow i mE)) = true ∧
    ([.tenq p (.reg 7), .vabort p 20 (.reg 7)].all (fun i => seqMeets systemRow i uA)) = true ∧
    ([.wrsr p 0x01 (.reg 18), .wrsr p 0x10 (.reg 18), .tlbi p (.sreg 0), .tlbiAll p].all (fun i => seqMeets systemRow i (inH mE))) = true ∧
    ([.mcv p 7 (.imx 0x30201)].all (fun i => seqMeets systemRow i (wide { mE with teams := kmod mE.teams 0 (fun t => t) }))) = true := by decide +kernel
/-- An attempt succeeds. -/
def okT {α : Type} (t : Try α) : Bool := match t with | .ok _ => true | _ => false
/-- A step answers a next state. -/
def isN (o : Out) : Bool := match o with | .next _ => true | _ => false
/-- An attempt meets a cause. -/
def traps {α : Type} (t : Try α) (c : Cause) : Bool := match t with | .trap d _ => c == d | _ => false
/-- Reset with a NOP placed. -/
def placedNop : State := State.reset.withFetchWord 32 0x05800000
/-- A state in which a group is due. -/
def dueNop : State := { placedNop with agenda := [], due := [3], cycle := 5 }

/-- The same before the block. -/
def entersNop : State := { placedNop with agenda := [], groups := kmod placedNop.groups 3 (fun g => { g with pc := placedHdr, entering := true }) }
/-- The words at a group's place are fetched. -/
def fetches (s : State) (gid : Nat) (ws : List Word) : Bool :=
  match s.fetchSeq (s.grp gid).tm (s.grp gid).pc (s.grp gid).left with | .ok l => l == ws | .error _ => false
/-- A group enters its block, matches no breakpoint there, and its words are fetched. -/
def enters (s : State) (gid : Nat) (ws : List Word) : Bool :=
  match s.enter gid with | .ok t => !t.matches gid && fetches t gid ws | .error _ => false
theorem atInstr_enters {s : State} {gid : Nat} {g : Group} {ws : List Word} (h1 : kget s.groups gid = some g) (h2 : s.mayIssue gid = true)
    (h3 : g.entering = true) (h : enters (s.noteIssue gid) gid ws = true) : ∃ t, AtInstr s t gid g ∧ fetches t gid ws = true := by
  unfold enters at h
  cases he : (s.noteIssue gid).enter gid with
  | error e => simp [he] at h
  | ok t =>
    simp only [he, Bool.and_eq_true, Bool.not_eq_true'] at h
    exact ⟨t, ⟨h1, h2, by rw [if_pos h3]; exact he, h.1⟩, h.2⟩
/-- Of StepRunsDecoded: the issue that the agenda or the order of the cycle names next, at an instruction of a block, and before a block. -/
theorem witness_StepRunsDecoded : NextIssue placedNop { placedNop with agenda := [] } 3 ∧ NextIssue dueNop { dueNop with due := [] } 3 ∧
    AtInstr { placedNop with agenda := [] } (({ placedNop with agenda := [] }).noteIssue 3) 3 (placedNop.grp 3) ∧
    fetches (({ placedNop with agenda := [] }).noteIssue 3) 3 [0x05800000] = true ∧
    (∃ t, AtInstr entersNop t 3 (entersNop.grp 3) ∧ fetches t 3 [0x05800000] = true) ∧ decodeSeq [0x05800000] = .ok .nop := by
  refine ⟨Or.inl ⟨[], rfl, rfl⟩, Or.inr ⟨fun _ _ h => (by cases h), rfl, [], rfl, rfl⟩, ⟨by decide +kernel, by decide +kernel, ?_, by decide +kernel⟩, by decide +kernel,
    atInstr_enters (by decide +kernel) (by decide +kernel) (by decide +kernel) (by decide +kernel), rfl⟩
  rw [if_neg (by decide +kernel)]
/-- Of RoundTrip. -/
theorem witness_RoundTrip : (Instr.nop).wf = true ∧ encode .nop ≠ [] := by decide +kernel
/-- Of StepKeepsMemory. -/
theorem witness_StepKeepsMemory : Memory.wf placedNop.mem = true ∧ isN (step placedNop) = true := by decide +kernel
/-- Of ReadAfterWrite: the last byte of a team's scratchpad, and HBM. -/
theorem witness_ReadAfterWrite : (∀ tm off, Loc.scratch 0 (2 ^ 20 - 1) = .scratch tm off → (kget st.teams tm).isSome ∧ off < 2 ^ 20) ∧
    (∀ tm off, Loc.hbm 5 = .scratch tm off → (kget st.teams tm).isSome ∧ off < 2 ^ 20) := by
  refine ⟨fun tm off h => ?_, fun tm off h => by cases h⟩
  cases h; decide +kernel
/-- Of PowerOff. -/
theorem witness_PowerOff : ({ st with power := false }).power = false ∧ ∀ n, Instr.nop ≠ .powerGood n := ⟨rfl, fun _ => by simp⟩
/-- Of SideMismatch: one instruction for either side, on the other. -/
theorem witness_SideMismatch : entry (.ldB64 p 20 (.reg 4) .zero) = some (.aOnly, false, p) ∧ onE.power = true ∧ onE.cur = some (at_ .e) ∧
    onE.activeOf (at_ .e) p = [0, 1, 2, 3] ∧ entry (.fadd p 20 (.reg 8) (.reg 9)) = some (.eOnly, false, p) ∧ onA.cur = some (at_ .a) ∧
    onA.activeOf (at_ .a) p = [0, 1, 2, 3] := by decide +kernel
/-- Of Privilege. -/
theorem witness_Privilege : entry (.wrsr p 1 (.reg 18)) = some (.both, true, p) ∧ onE.power = true ∧ onE.cur = some (at_ .e) ∧
    onE.activeOf (at_ .e) p = [0, 1, 2, 3] ∧ (onE.grp 0).priv = false ∧ (0x11#7).toNat = 0x11 ∧ (0x1D#7).toNat ∈ [0x11, 0x1C, 0x1D] := by decide +kernel
/-- Of InactiveRetires, with zero = 1 and without. -/
theorem witness_InactiveRetires : entry (.add never 20 (.reg 1) (.reg 2)) = some (.both, false, never) ∧ onE.activeOf (at_ .e) never = [] ∧
    Falls onE (at_ .e) ∧ never.zeroes = true ∧ onE.activeOf (at_ .e) { vx := some { mask := 1, neg := true, zero := false, rc := 0, c := 0 }, mxa := none } = [] ∧
    (laneRow (.add never 20 (.reg 1) (.reg 2))).map (fun r => r.ok onE (at_ .e)) = some true := by
  refine ⟨by decide +kernel, by decide +kernel, ?_, by decide +kernel, by decide +kernel, by decide +kernel⟩
  unfold Falls; decide +kernel
/-- Of SourceValues: an element at the head of a data queue and of a return queue. -/
theorem witness_SourceValues : keySide 0 = .e ∧ keySide 1024 = .a ∧ (fullPair.queue 1).places = [.full 7 false [] false] ∧ (fullPair.queue 1).flushed = false ∧
    fullPair.getRq 1 = [{ w := 7, clk := [], bad := false }] := by decide +kernel
/-- Of Predicates: the last predicate. -/
theorem witness_Predicates : (127 ≠ 0 ∧ 127 < 128) ∧ 0 ∈ uA.activeOf (at_ .a) q1 := by decide +kernel
/-- Of HeaderWordIllegal: the word in the block at 0x1000. -/
theorem witness_HeaderWordIllegal : sm.power = true ∧ opM 0xF8000000 = 62 ∧ sm.matches 0 = false ∧
    fetches sm 0 ([] ++ [0xF8000000]) = true := by decide +kernel
/-- Of ExceptionRegisters: a second entry in a row, and one after progress. -/
theorem witness_ExceptionRegisters : (({ noHandler with progressed := false }).fpc = 0 ∧ ({ noHandler with progressed := false }).progressed = false) ∧
    (noHandler.fpc ≠ 8 ∨ noHandler.progressed = true) := by decide +kernel
/-- Of ExceptionEntry: DIV_ZERO of the execute group. -/
theorem witness_ExceptionEntry : (sm.hit .divZero 0).owed = .none ∧ CanEnter sm 0 0x1008 0x1000 (sm.hit .divZero 0) 0x3000 := by
  refine ⟨by decide +kernel, ?_⟩
  unfold CanEnter; decide +kernel
/-- Of HandlerEnds: in handler code, a 64th entry, an entry of 0 and a table that cannot be read. -/
theorem witness_HandlerEnds : (kget mE.groups 0).isSome ∧ (kget mE.teams 0).isSome ∧ (kget mE.tasks (mE.team 0).task).isSome ∧ (mE.grp 0).members ≠ [] ∧
    (mE.grp 0).members.Nodup ∧ ((inH mE).grp 0).priv = true ∧
    entryCount { noHandler with fpc := 0x1008, fcount := 63, progressed := false } 0x1008 = 64 ∧
    (sm.setRegs 0 .e [0, 1, 2, 3] 0x1008 0x1000 (fun _ => sm.hit .perm 0)).vector 0 .e .perm = (some 0, false) ∧
    (st.setRegs 0 .e [0, 1, 2, 3] 0x1008 0x1000 (fun _ => st.hit .perm 0)).vector 0 .e .perm = (none, false) := by decide +kernel
/-- Of DivZero: v19 holds 0. -/
theorem witness_DivZero : met onE .both false p = true ∧ srcsOk onE (at_ .e) [(.int32, .reg 1), (.int32, .reg 19)] = true ∧ dstOk .e false 20 = true ∧
    (∀ u ∈ [0, 1, 2, 3], okT (onE.readSrcs u [(.int32, .reg 1), (.int32, .reg 19)] (onE.rd u)) = true) ∧
    intValue (fun _ _ y _ => y) 0 [0xFFFFFFF9, 0] = 0 ∧ intValue (fun _ _ y _ => y) 1024 [7, 0] = 0 := by decide +kernel
/-- Of LoadValue: a load of each width, and a misaligned one. -/
theorem witness_LoadValue : (∀ n ∈ [1, 2, 4, 8], okT (loadTry n true p 20 (.reg 5) .zero onA 1024) = true) ∧
    (onA.addr 1024 (.reg 5) (.imx 1)).toNat % 8 ≠ 0 ∧ (onA.resolve 0 (onA.addr 1024 (.reg 5) .zero)).isSome ∧
    onA.owesMerge ((Loc.scratch 0 0).words 8) = false := by decide +kernel
/-- A prefix with the order sc to every class. -/
def psc : Pfx := { vx := none, mxa := some { order := ordSc, obs := allClasses, hint := 0, rope := false } }
/-- Of StoreBytes: the last dword of the window's first tile, plain and sc, and a misaligned address. -/
theorem witness_StoreBytes : (∀ n ∈ [1, 2, 4, 8], okT (storeTry n p 3 (.reg 5) (.imx 0x3FF8) onA 1024) = true ∧
      okT (storeTry n psc 3 (.reg 5) (.imx 0x3FF8) onA 1024) = true) ∧ psc.order = ordSc ∧ p.order ≠ ordSc ∧
    (onA.resolve 0 (onA.addr 1024 (.reg 5) (.imx 0x3FF8))).map (·.loc) = some (.scratch 0 0x3FF8) ∧ (onA.addr 1024 (.reg 5) (.imx 4)).toNat % 8 ≠ 0 ∧
    onA.versioned 1024 (.scratch 0 0x3FF8) ordSc = false := by decide +kernel
/-- Of AtomicStep, in both widths, in the window and in memory. -/
theorem witness_AtomicStep : okT (atomTry p true 20 (.reg 5) .zero false (fun _ m => m + 1) onA 1024) = true ∧
    okT (atomTry p false 20 (.reg 7) .zero true (fun _ m => m + 1) uA 1024) = true ∧ (uA.resolve 0 0x9000).map (·.loc) = some (.hbm 0x409000) ∧
    uA.owesMerge ((Loc.hbm 0x409000).words 4) = false := by decide +kernel
/-- Of NopAndYield. -/
theorem witness_NopAndYield : met onE .both false noPfx = true ∧ met onA .both false noPfx = true ∧ (kget onE.groups 0).isSome ∧ (at_ .e).last = false := by decide +kernel
/-- Of RejoinMasks: the first and the last word of a set. -/
theorem witness_RejoinMasks : met onE .eOnly false p = true ∧ (kget onE.teams 0).isSome ∧ srcsOk onE (at_ .e) [(.int32, .imm 31)] = true ∧ (31#7).toNat < 32 ∧
    (inOrder (at_ .e) (jmaskTry 31 (.imm 31) 5 (at_ .e) [0, 1, 2, 3]) [0, 1, 2, 3] onE).isSome ∧
    (match onE.readSrcs 0 [(.int32, .imm 31)] (onE.rd 0) with | .ok ([v], _) => decide (v = 15) | _ => false) = true := by decide +kernel
/-- A rejoin mask in which threads 0 and 1 are enrolled, or all, or none. -/
def enrolled (m : BitVec 1024) : State := wTeam { onE with nextId := 10 } (fun t => { t with jm := [(0, { freshJMask with enrolled := m })] })
/-- Of Join: some, all and none of the group enrolled. -/
theorem witness_Join : ([3, 15, 0].all (fun m => met (enrolled m) .eOnly false p && kget (enrolled m).groups 0 == some (grpAt .e) &&
    (kget (enrolled m).teams 0).isSome)) = true ∧ (grpAt .e).stack = [] ∧ 0 < (enrolled 3).nextId ∧
    [0, 1, 2, 3].filter (fun u => (((enrolled 3).team 0).jmask 0).enrolled.getLsbD u) = [0, 1] := by decide +kernel
/-- The execute group at the last instruction of its block, with a guard that lets thread 0 through only. -/
def lastE : State :=
  { mE with cur := some { at_ .e with pc := 0x1014, next := 0x1018, last := true }
            threads := kmod mE.threads 0 (fun t => { t with preds := 6 }) }
/-- Of Reform. -/
theorem witness_Reform : met lastE .eOnly false q1 = true ∧ kget lastE.groups 0 = some (grpAt .e) ∧ (grpAt .e).stack = [] ∧ lastE.coreOf 0 = 0 ∧
    (lastE.core 0).freeBin = some 0 ∧ (lastE.core 0).bins = [] ∧ lastE.activeOf { at_ .e with pc := 0x1014, next := 0x1018, last := true } q1 = [0] ∧
    [0].length < (lastE.team 0).tpg := by decide +kernel
/-- Of BallotAndBroadcast: a lane that is active, and one that is not. -/
theorem witness_BallotAndBroadcast : met onE .both false p = true ∧ met onA .both false p = true ∧ (kget onE.teams 0).isSome ∧ uniform (.imm 18) = true ∧
    srcsOk onE (at_ .e) [(.int32, .reg 5), (.int32, .imm 18)] = true ∧ okT (onE.readSrc 0 .int32 (.imm 18) (onE.rd 0)) = true ∧
    [0, 1, 2, 3].find? (fun u => (onE.thr u).lane == 2 % 32) = some 2 ∧ [0, 1, 2, 3].find? (fun u => (onE.thr u).lane == 31 % 32) = none ∧
    okT (onE.readSrc 2 .int32 (.reg 5) (onE.rd 2)) = true := by decide +kernel
/-- The other side has exited. -/
def aGone : State := { onE with threads := onE.threads.map (fun e => (e.1, if 1024 ≤ e.1 then { e.2 with exited := true } else e.2)) }
/-- Of Exit: the last threads of a team. -/
theorem witness_Exit : met aGone .both false noPfx = true ∧ (∀ u ∈ [0, 1, 2, 3], okT (aGone.exitTry u) = true ∧ u < 1024) ∧ 0 < aGone.nextId ∧
    (kget aGone.teams 0).isSome ∧ (aGone.team 0).gpt * (aGone.team 0).tpg = 4 ∧
    (∀ n ∈ [0, 1, 2, 3], (aGone.thr (tkey 0 .a n)).exited = true) := by decide +kernel
/-- A return stack, in thread 0 of another header. -/
def stacked : State := { mE with threads := mE.threads.map (fun e => (e.1, { e.2 with rstack := [if e.1 = 0 then 0x1040 else 0x1018] })) }
/-- Every thread's target may be entered. -/
def goesAll (i : Instr) (s : State) (c : Cur) : Bool :=
  met s .both false noPfx && !s.badRcv c.tm c.hdr && (s.activeOf c noPfx).all (fun u => mayGo i s c u && match wants i s c u with
    | some (some a) => s.targetFault c.tm a == none
    | some none => !(c.last && s.fallFault c.tm c.next)
    | none => false)
/-- Of Transfers: each of them, taken and not. -/
theorem witness_Transfers : ([.br 3, .brp 0 8, .brpNot 0 8, .call 3, .ret, .brx (.sreg 2)].all (fun i => goesAll i
      (wTeam stacked (fun t => { t with sE := [(2, freshUReg 0x1018)] })) (at_ .e))) = true ∧ [0, 1, 2, 3].Nodup ∧
    (kget stacked.groups 0).isSome ∧ (stacked.grp 0).stack = [] := by decide +kernel
/-- Of Split: two of them. -/
theorem witness_Split : goesAll .ret stacked (at_ .e) = true ∧ stacked.rcvOf 0 0x1000 = none ∧ (∀ k ∈ kkeys stacked.groups, k < stacked.nextId) ∧
    goesTo .ret stacked (at_ .e) 0 ≠ goesTo .ret stacked (at_ .e) 1 ∧
    (∀ u ∈ [1, 2, 3], goesTo .ret stacked (at_ .e) u = goesTo .ret stacked (at_ .e) 1) := by decide +kernel
/-- The execute group in handler code, taken from the instruction at 0x1010. -/
def inHand (done : Bool) : State :=
  inH { mE with threads := mE.threads.map (fun e => (e.1, { e.2 with h := { noHandler with fpc := 0x1010, fhdr := 0x1000, done := done } })) }
/-- Of HandlerReturn: threads that are done, and threads that are not. -/
theorem witness_HandlerReturn : (∀ b ∈ [true, false], met (inHand b) .both true p = true ∧ (kget (inHand b).groups 0).isSome ∧ ((inHand b).grp 0).stack = [] ∧
    (inHand b).badRcv 0 0x1000 = false ∧ (∀ u ∈ [0, 1, 2, 3], let x := ((inHand b).thr u).h
      u < 1024 ∧ x.fpc = 0x1010 ∧ x.fhdr = 0x1000 ∧ x.place = none ∧ x.done = b ∧ (inHand b).returnFault 0 x = none)) ∧
    (kget (inHand true).teams 0).isSome ∧ (kget (inHand true).tasks ((inHand true).team 0).task).isSome := by decide +kernel
/-- Of TrapAndBreak, without a debugger and with one. -/
theorem witness_TrapAndBreak : met onE .both false noPfx = true ∧ (onE.part (onE.partOf 0)).debug = false ∧
    met { onE with parts := kmod onE.parts 0 (fun q => { q with debug := true }) } .both false noPfx = true ∧
    (({ onE with parts := kmod onE.parts 0 (fun q => { q with debug := true }) } : State).part 0).debug = true ∧ (kget onE.teams 0).isSome := by decide +kernel
/-- Of NamedBarriers: nb0 with count 0, nb1 with the count 4 that none has set, and nb15. -/
theorem witness_NamedBarriers : met onE .both false p = true ∧ met onA .both false p = true ∧ BarExists onE 0 0 ∧ BarExists onE 0 1 ∧ BarExists onE 0 15 ∧
    srcsOk onE (at_ .e) [(.int32, .imm 16)] = true ∧ (∀ u ∈ [0, 1, 2, 3], okT (onE.arriveTry 0 (.imm 16) u) = true ∧
      okT (onE.arriveTry 1 (.imm 20) u) = true ∧ okT (onE.arriveTry 1 (.imx 2048) u) = true ∧ okT (onE.arriveTry 15 (.imm 16) u) = true) ∧
    perSide 0 = true ∧ perSide 15 = true ∧ perSide 1 = false ∧ perSide 14 = false ∧ (onE.bar 0 .e 1).expected = none := by
  unfold BarExists; decide +kernel
/-- Of QueueFlush, on both sides: the last queue of the team. -/
theorem witness_QueueFlush : met (withQ onE) .eOnly false p = true ∧ met (withQ onA) .aOnly false p = true ∧ (3#4).toNat < (withQ onE).nq 0 ∧
    (∀ u ∈ [0, 1, 2, 3], ((withQ onE).thr (tkey 0 .a u)).park = .none) := by decide +kernel
/-- A prefix for `nget`. -/
def okLoad (i : Instr) (s : State) : Bool :=
  match queueLoad i, s.cur with
  | some (q, ok, f), some c => met s .aOnly false q && ok s c && (inOrder c (f c) (s.activeOf c q) s).isSome
  | _, _ => false
/-- Of QueueLoads: one of each, guarded; a line into a queue that holds it; a queue that is flushed. -/
theorem witness_QueueLoads : ([.ldqB8 q1 3 (.reg 5) .zero, .ldqB16 q1 3 (.reg 5) .zero, .ldqB32 q1 0 (.reg 5) .zero, .ldqB64 q1 0 (.reg 5) .zero,
      .ldqK16 q1 0 (.reg 8) .zero].all (fun i => okLoad i uA)) = true ∧
    okLoad (.ldqLine q1 0 (.reg 5) .zero) (wTeam uA (fun t => { t with lim := { t.lim with depth := 32 } })) = true ∧
    okT (ldqTry 4 p 1 (.reg 5) .zero (at_ .a) uA 1024) = true ∧ uA.retries (at_ .a) 1024 1 = false ∧ okT (uA.loadCheck 1024 (uA.addr 1024 (.reg 5) .zero) 4 4 0 0) = true ∧
    ((uA.pair 0).queue 1).flushed = false := by decide +kernel
/-- What holds of the next state, if there is one. -/
def nxt (i : Instr) (s : State) (f : State → Bool) : Bool := match exec i s with | .next t => f t | _ => false
/-- Whether an attempt of an engine passes. -/
def okX {α β : Type} (e : Except α β) : Bool := match e with | .ok _ => true | _ => false
/-- The machine with a group, a part, a core or a task changed, or its threads. -/
def wGrp (s : State) (n : Nat) (f : Group → Group) : State := { s with groups := kmod s.groups n f }
def wPart (s : State) (f : Part → Part) : State := { s with parts := kmod s.parts 0 f }
def wCore (s : State) (f : Core → Core) : State := { s with cores := kmod s.cores 0 f }
def wThr (s : State) (k : Nat) (f : Thread → Thread) : State := { s with threads := kmod s.threads k f }
def wPair (s : State) (q : Pair) : State := { s with pairs := [(0, q)] }
/-- The copy and the send record in place. -/
def uB : State :=
  wA (wTeam uA (fun t => { t with scratch := [(0x1008, 1), (0x1021, 0x90), (0x1029, 0x91), (0x1030, 0x10), (0x1032, 0x10), (0x104C, 100), (0x1081, 0x90), (0x1095, 0x10)] }))
    (fun _ t => { t with x := t.x ++ [(9, 1)] })
/-- Of TileOwnership: tile 1 given, tile 3 claimed; the numbers of tiles end at 63. -/
theorem witness_TileOwnership : met uA .aOnly false q1 = true ∧ met onA .aOnly false p = true ∧ (63#6).toNat < 64 ∧ (∀ s ∈ [uA, onA], (kget s.teams 0).isSome) ∧
    (1#6).toNat < (onA.team 0).lim.tiles ∧ (onA.team 0).owner.getLsbD 1 = false ∧ (onA.team 0).absent = [] ∧ (∀ u ∈ [0, 1, 2, 3], (onA.thr (1024 + u)).sb = []) ∧
    (3#6).toNat < (uA.team 0).lim.tiles ∧ uA.owedFor 1024 (fun d => d.tile == some 3) = none ∧ uA.tileNamed 0 3 = false ∧ 
    uA.activeOf (at_ .a) q1 = [0] := by decide +kernel
/-- Of Submissions. -/
theorem witness_Submissions : met uB .aOnly false q1 = true ∧ okT (kickTry 9 (.reg 5) (.imx 0x1020) uB 1024) = true ∧
    okT (nsendTry q1 (.reg 5) (.imx 0x1080) uB 1024) = true ∧ addrOk (.reg 5) (.imx 0x1020) = true ∧ uB.activeOf (at_ .a) q1 = [0] := by decide +kernel
/-- One step each: kick and nsend. -/
theorem test_kick_nsend : (
    (isN (exec (.kick q1 9 (.reg 5) (.imx 0x1020)) uB) && isN (exec (.nsend q1 (.reg 5) (.imx 0x1080)) uB))) = true := by decide +kernel
/-- A legal operation in each semiring. -/
def mmaArgs (f : BitVec 8) : MmaArgs := { afmt := f, bfmt := f, pbase := 0, bank := 0, kb := 0, acc := 1, atile := 3, stage := false, sp := false, cv := 2 }
/-- The convergence register declares the group's quarter first, and positions from n on are signed. -/
def signedFrom (n : Nat) (m : MmaArgs) (semi : Nat) : State :=
  wTeam onE (fun t => { t with owner := 8, cv := [(2, { declared := [0, 1, 2, 3], first := if n = 128 then none else some (m.imxWord, m.word semi), signed := (List.range (128 - n)).map (fun i => (n + i, ([], 500 + i, 1))), clk := [] })] })
/-- The hypotheses of BearSignatures. -/
def signs (n : Nat) (i : Instr) : Bool :=
  match mmaForm i with
  | some (semi, q, m) =>
    let s := signedFrom n m semi
    let v := (s.team 0).cvReg m.cv.toNat
    let act := s.activeOf (at_ .e) q
    met s .eOnly false q && m.inBounds (s.team 0).lim && m.legal semi && v.declared.contains 0 && (kget s.teams 0).isSome && 
    act.all (fun u => decide (u < 1024) && s.groupIx u == 0 && (s.thr u).lane == u && kget v.signed u == none && (s.thr u).park != .signedOn && sound (s.thr u) m.bRegs) &&
      (v.first == none || v.first == some (m.imxWord, m.word semi)) &&
      ((act.foldl (fun e u => kput e u (m.latch (s.thr u), u, kgetD (s.thr u).clk (threadAgent u) 0 + 1)) v.signed).length == (if n = 128 then 4 else 128)) && m.tiles.all (fun a => (s.team 0).owner.getLsbD a)
  | none => false
/-- Of BearSignatures: the first signers, and those that complete the set. -/
theorem witness_BearSignatures : ([128, 4].all (fun n => [.mma p (mmaArgs 0x30), .mmaMinplus p (mmaArgs 0x30), .mmaMaxtimes p (mmaArgs 0x30),
      .mmaOrand p (mmaArgs 0x35), .mmaStage p { mmaArgs 0x23 with stage := true }].all (signs n))) = true := by decide +kernel
/-- One step each: mma: a signature, and the one that completes the set (R223 to R225). -/
theorem test_mma : (
    (nxt (.mma p (mmaArgs 0x30)) (signedFrom 4 (mmaArgs 0x30) 0) (fun t => (t.core 0).bear.length == 1 && (t.thr 3).park != .none && ((t.team 0).cvReg 2).signed == [] && ((t.core 0).bear.map (·.tiles)) == [[3]])) &&
    (nxt (.mma p (mmaArgs 0x30)) (signedFrom 128 (mmaArgs 0x30) 0) (fun t => (t.core 0).bear.length == 0 && ((t.team 0).cvReg 2).signed.length == 4 && (t.grp 0).pc == 0x100C))) = true := by decide +kernel
/-- BearFree. -/
def bearFreeB (s : State) (c : Cur) (act accs tiles : List Nat) : Bool :=
  accs.all (fun t => decide (t < (s.team c.tm).lim.accs) && act.all (fun u => !s.signsOn (c.key u) t none)) &&
    tiles.all (fun t => decide (t < (s.team c.tm).lim.tiles) && (s.team c.tm).owner.getLsbD t)
theorem bearFreeB_spec {s : State} {c : Cur} {act accs tiles : List Nat} (h : bearFreeB s c act accs tiles = true) : BearFree s c act accs tiles := by
  simpa [bearFreeB, BearFree] using h
/-- Tile 3 is engine-owned. -/
def ownE : State := wTeam onE (fun t => { t with owner := 8 })
/-- The hypotheses of BearCommands. -/
def commands (i : Instr) : Bool :=
  match bearCommand ownE (at_ .e) (ownE.activeOf (at_ .e) p) i with
  | some (q, ok, accs, tiles, _) => q == p && ok && met ownE .eOnly false p && bearFreeB ownE (at_ .e) (ownE.activeOf (at_ .e) p) accs tiles
  | none => false
/-- Of BearCommands (bearFreeB_spec). -/
theorem witness_BearCommands : ([.mzero p 3, .mwrF32 p 32 3 true true, .mwrSt p 61 3 true, .mscl p 0 3 0x43, .smx p 0x18 (.sreg 1) 0x83, .smrg p 3 0, .smfin p 3].all commands) = true := by decide +kernel
/-- The hypotheses of a readout. -/
def reads (i : Instr) (q : Pfx) : Bool :=
  let act := ownE.activeOf (at_ .e) q
  match bearRead (act.map (at_ .e).key) (if q.zeroes then (ownE.inactive (at_ .e) act).map (at_ .e).key else []) i with
  | some (q', d, n, a, _) => q' == q && met ownE .eOnly false q && rangeOk (ownE.team 0).lim.vregs d n && bearFreeB ownE (at_ .e) act [a] [] && (kget ownE.groups 0).isSome
  | none => false
/-- Of WaitingCommands: the readouts. -/
theorem witness_WaitingCommands_read : reads (.mrdF32 p 32 3 true true) p = true ∧ reads (.mrdSt p 61 3 true) p = true := by decide +kernel
/-- Of its calls, on both sides. -/
theorem witness_WaitingCommands_call : [onE, onA].all (fun s => match s.cur with | some c => (inOrder c (fun s k => mcallTry 20 0 [(intOf c.side, .reg 1)] telemetryCall s k) (s.activeOf c p) s).isSome && 
  (inOrder c (fun s k => mcallTry 20 1 [] locateCall s k) (s.activeOf c p) s).isSome && 
  (inOrder c (fun s k => mcallTry 20 2 [(intOf c.side, .reg 2)] peerCall s k) (s.activeOf c p) s).isSome && (s.activeOf c p).Nodup && met s .both false p && srcsOk s c [(intOf c.side, .reg 1)] && srcsOk s c [(intOf c.side, .reg 2)] && dstOk c.side false 20 | none => false) = true := by decide +kernel
/-- One step each: a command of each kind enters the order (R235). -/
theorem test_bear_commands : (
    (([.mzero p 3, .mwrF32 p 32 3 true true, .mwrSt p 61 3 true, .mscl p 0 3 0x43, .smx p 0x18 (.sreg 1) 0x83, .smrg p 3 0, .smfin p 3].all (fun i => nxt i ownE (fun t => (t.core 0).bear.length == 1 && (t.grp 0).pc == 0x100C))))) = true := by decide +kernel
/-- A continuation block of an operation of one k-block, of which none is done, at 0x9000; one thread is active. -/
def contE : State :=
  { wTeam mE (fun t => { t with owner := 8, sE := [(1, freshUReg 0x9000)] }) with
    mem := memOf (cells 0x409000 0x14B584342 ++ cells 0x409008 (((mmaArgs 0x30).word 0).toNat + 2 ^ 32 * (mmaArgs 0x30).imxWord.toNat) ++
      cells 0x409010 (0x100 + 3 * 2 ^ 16 + 2 ^ 24))
    threads := onE.threads.map (fun e => (e.1, if e.1 = 0 then { e.2 with preds := 6 } else e.2)) }
theorem contE_wf : Memory.wf contE.mem = true := by decide +kernel
/-- Of WaitingCommands: a continuation. -/
theorem witness_WaitingCommands_cont : met contE .eOnly false q1 = true ∧ brxOk .e (.sreg 1) = true ∧
    (inOrder (at_ .e) (mcontTry (.sreg 1) (at_ .e)) (contE.activeOf (at_ .e) q1) contE).isSome = true := by decide +kernel
/-- A yield whose sixteen cycles are over, a bin whose oldest entry has waited AGE cycles, a wait of 256 cycles, a pair in deadlock, a breakpoint. -/
def timed : State :=
  wCore (wPart { wGrp sm 0 (fun g => { g with yielded := some 84 }) with cycle := 100 } (fun q => { q with bp := [(0, 0xA000000000001008)] }))
    (fun c => { c with age := 64, bins := [(2, { tm := 0, key := 0x1018, priv := false, filed := [{ thread := 1, cycle := 36 }, { thread := 2, cycle := 50 }] })] })
/-- A state, a value or a check of the witnesses below. -/
def waiter : State :=
  { wGrp { sm with cycle := 256 } 0 (fun g => { g with pc := 0x1018, hdr := 0x1018, entering := true, stack := [5], members := [0, 1] }) with
    splits := [(5, { hdr := 0x1018, members := [0, 1, 2, 3], first := some 0 })] }
/-- A state, a value or a check of the witnesses below. -/
def dead : State :=
  wThr (wThr sm 0 (fun t => { t with park := .retry (.popQ 1 0) })) 1024 (fun t => { t with park := .retry (.popRq 1) })
/-- A state, a value or a check of the witnesses below. -/
def stopper (b : Bool) : State := wPart (wTeam timed (fun t => { t with mode := if b then .stopped else .running })) (fun q => { q with debug := true })
/-- Of EventsOfTime, clause by clause. -/
theorem witness_EventsOfTime : ((timed.grp 0).tm = 0 ∧ (timed.grp 0).yielded = some 84 ∧ 84 + 16 ≤ timed.cycle) ∧
    ((kget (timed.core 0).bins 2).any (fun b => b.filed != [] && decide (b.oldest + max 1 (timed.core 0).age.toNat ≤ timed.cycle) && (timed.team b.tm).mode == .running)) = true ∧
    ((kget waiter.splits 5).any (fun r => r.first == some 0) = true ∧ 0 + 256 ≤ waiter.cycle ∧ waiter.waitersOf 5 = [0] ∧ waiter.awake 0 = true ∧ (waiter.grp 0).tm = 0) ∧
    (dead.groupOf 0 .e 0 = some 0 ∧ dead.deadlocked 0 0 = true ∧ dead.awake 0 = true) ∧
    ((timed.grp 0).tm = 0 ∧ (kget timed.groups 0).isSome ∧ timed.mayAct 0 = true ∧ timed.matches 0 = true ∧ (timed.part (timed.partOf 0)).debug = false ∧
      (stopper false).mayAct 0 = true ∧ (stopper false).matches 0 = true ∧ ((stopper false).part ((stopper false).partOf 0)).debug = true ∧ (kget (stopper false).teams 0).isSome) ∧
    (((stopper true).part 0).debug = true ∧ ((stopper true).team 0).part = 0 ∧ ((stopper true).team 0).mode = .stopped ∧ (stopper true).steppable 0 = true ∧ (kget (stopper true).parts 0).isSome) ∧
    mE.cur = some (at_ .e) ∧ met mE .both false p = true := by decide +kernel
/-- One step each: R73, R83, R203 to R205, R404. -/
theorem test_events_time : (
    (nxt (.yieldExpiry 0 0) timed (fun t => (t.grp 0).yielded == none)) &&
    (nxt (.binAgeDraw 0 2) timed (fun t => (kget (t.core 0).bins 2).isNone && t.groups.any (fun e => e.2.members == [1,2] && e.2.pc == 0x1018 && e.2.entering))) &&
    (nxt (.reconvergenceTimeout 0 5) waiter (fun t => kget t.splits 5 == none)) &&
    (nxt (.breakpointMatch 0 0) timed (fun t => t == timed.raise 0 (timed.grp 0).pc (timed.grp 0).hdr [0,1,2,3] (fun _ => { timed.hit .brk 0 with byMatch := true }))) &&
    (nxt (.breakpointMatch 0 0) (stopper false) (fun t => (t.team 0).mode == .stopped && (t.thr 0).park == .stopped .brk true)) &&
    (nxt (.resume 0) (stopper true) (fun t => (t.team 0).mode == .running)) &&
    (nxt (.stepGroup 0 0) (stopper true) (fun t => (t.team 0).mode == .stopped && (t.team 0).stepping == [0,1,2,3] && t.agenda.head? == some (.issue 0))) &&
    (nxt (.tilraxDbgSession 0 true) timed (fun t => (t.part 0).debug)) &&
    (nxt (.tilraxDbgSession 0 false) (stopper true) (fun t => !(t.part 0).debug && (t.team 0).mode == .running))) = true := by decide +kernel
/-- A flight to data queue 1. -/
def fly (c : Cargo) (done : Bool) : Flight := { id := 7, q := 1, clk := [], cargo := c, translated := done, fpc := 0x1008, fhdr := 0x1000 }
/-- Its pair, with two places that wait for it. -/
def flying (c : Cargo) (done : Bool) : Pair := { freshPair with q := [(1, { freshQueue with places := [.wait 7, .wait 7] })], flights := [fly c done] }
/-- A store to the last dword of the scratchpad in the store buffer, one to memory behind it, a host store outstanding, a partial of a word. -/
def buffered : State :=
  wCore (wThr sm 1024 (fun t => { t with out := [3, 4], sb := [{ loc := .scratch 0 (2 ^ 20 - 8), bytes := leBytes 8 1, order := 0, mask := 0, clk := [] },
      { loc := .hbm 0x409000, bytes := [5], order := 0, mask := 0, clk := [] }] }))
    (fun c => { c with upd := [(2 * 0x102400, { form := 0, val := 5, tasks := [1], tag := none })] })
/-- A state, a value or a check of the witnesses below. -/
def filling : State := wPair sm (flying (.data [1, 2]) true)
/-- A state, a value or a check of the witnesses below. -/
def translating (c : Cargo) : State := wThr (wPair sm (flying c false)) 1024 (fun t => { t with park := .translating 7 })
/-- A state, a value or a check of the witnesses below. -/
def pended : State :=
  wThr (wThr (wPair sm { freshPair with q := [(1, { freshQueue with places := [.pend .xlate 0x9000 none none] })] }) 0 (fun t => { t with park := .retry (.popQ 1 0) }))
    1024 (fun t => { t with park := .pending 1 })
/-- A stream with elements left, and one whose end element is due. -/
def someStream (rem : Nat) (tail : Bool) (e : BitVec 2) : Stream :=
  { addr := 0x9000, stride := 4, esz := e, rem := rem, tail := tail, order := 0, mask := 0, stopped := false }
/-- Queue 2 with a stream. -/
def streaming (rem : Nat) (tail : Bool) (e : BitVec 2) : State :=
  wPair sm { freshPair with q := [(2, { freshQueue with places := [.full 3 false [] false], stream := some (someStream rem tail e) })] }
/-- Of EventsOfMemory, clause by clause. -/
theorem witness_EventsOfMemory : ((buffered.thr (tkey 0 .a 0)).sb.map (·.loc) = [.scratch 0 (2 ^ 20 - 8), .hbm 0x409000] ∧
      buffered.versioned (tkey 0 .a 0) (.scratch 0 (2 ^ 20 - 8)) 0 = false ∧ (kget buffered.teams 0).isSome ∧ 2 ^ 20 - 8 + (leBytes 8 1).length ≤ 2 ^ 20) ∧
    (kget (buffered.core 0).upd (2 * 0x102400)).isSome ∧ (buffered.thr (tkey 0 .a 0)).out.find? (fun x => x % 2 == 0) = some 4 ∧
    ((filling.pair (pkey 0 0)).flights.find? (fun x => x.q == 1 && x.translated) = some (fly (.data [1, 2]) true) ∧
      ((filling.pair (pkey 0 0)).queue 1).places = List.replicate 2 (.wait 7)) ∧
    (∀ c ∈ [Cargo.data [1, 2], .fault .xlate 0x9000], ((translating c).pair (pkey 0 0)).flights.find? (fun x => !x.translated) = some (fly c false) ∧
      (translating c).groupOf 0 .a 0 = some 1 ∧ ((translating c).thr (tkey 0 .a 0)).park = .translating 7 ∧
      Place.wait 7 ∈ (((translating c).pair (pkey 0 0)).queue 1).places ∧ ((translating c).grp 1).members = [0, 1, 2, 3]) ∧
    ((pended.reachedPend (tkey 0 .a 0)).isSome ∧ pended.groupOf 0 .a 0 = some 1 ∧ pended.awake 1 = true) ∧
    (∀ s ∈ [streaming 1 false 2, streaming 0 true 3], s.partnerGone (tkey 0 .a 0) = false ∧ (s.team 0).mode = .running ∧
      ((s.pair (pkey 0 0)).queue 2).places = [.full 3 false [] false]) ∧
    (((streaming 1 false 2).pair (pkey 0 0)).queue 2).stream.any (fun x => x.rem == 1 && !x.stopped &&
      okT ((streaming 1 false 2).loadCheck (tkey 0 .a 0) x.addr (elemBytes x.esz) (elemBytes x.esz) x.order x.mask)) = true ∧
    (((streaming 0 true 3).pair (pkey 0 0)).queue 2).stream.any (fun x => x.rem == 0 && x.tail && !x.stopped) = true ∧ 1 + 1 ≤ (sm.team 0).lim.depth := by decide +kernel
/-- One step each: R99, R110, R111, R126, R135, R212, R346. -/
theorem test_events_memory : (
    (nxt (.drain 0 0) buffered (fun t => (t.thr 1024).sb.length == 1 && t.readM (.scratch 0 (2^20-8)) == 1)) &&
    (nxt (.merge 0 (lineKey (2 * 0x102400))) buffered (fun t => kget (t.core 0).upd (2 * 0x102400) == none && t.readM (.hbm 0x409000) == 5)) &&
    (nxt (.hostStoreCompletion 0 0) buffered (fun t => (t.thr 1024).out == [3])) &&
    (nxt (.ldqFill 0 0 1) filling (fun t => ((t.pair 0).queue 1).places == [.full 1 false [] false, .full 2 false [] false] && (t.pair 0).flights == [])) &&
    (nxt (.translationComplete 0 0) (translating (.data [1,2])) (fun t => t.thr 1024 == { (translating (.data [1,2])).thr 1024 with park := .none } && t.thr 1025 == (translating (.data [1,2])).thr 1025)) &&
    (nxt (.translationComplete 0 0) (translating (.fault .xlate 0x9000)) (fun t => (t.thr 1024).park == .pending 1 && ((t.pair 0).queue 1).places.contains (.pend .xlate 0x9000 none none))) &&
    (nxt (.pendingFaultDelivery 0 0) pended (fun t => t == pended.raise 1 (pended.grp 1).pc (pended.grp 1).hdr [0] (fun _ => { pended.hit .xlate 0x9000 with defer := true, place := some 1 }))) &&
    (nxt (.streamElement 0 0 2) (streaming 1 false 2) (fun t => ((t.pair 0).queue 2).places.length == 2 && ((t.pair 0).queue 2).stream.any (fun x => x.rem == 0 && x.addr == 0x9004))) &&
    (nxt (.streamElement 0 0 2) (streaming 0 true 3) (fun t => ((t.pair 0).queue 2).places == [.full 3 false [] false, .full 0 true [] false] && ((t.pair 0).queue 2).stream.any (fun x => !x.tail)))) = true := by decide +kernel
/-- A copy of rows of 16 bytes from an address to tile 1. -/
def someCopy (src : DWord) (rows : Nat) : Copy :=
  { id := 5, core := 0, tm := 0, thread := 1024, recAddr := localWin + 0x1020, crc := false, tr := false, rope := false, plane := 0, esz := 0, src := src,
    dst := 0x9100, policy := 0, dstr := 1, sstr := 1, rows := rows, len := 16, dfmt := 0, mb := none, sfmt := 0, mode := 0, row := 0, sum := 0xFFFFFFFF,
    snap := [], lines := [], clk := [] }
/-- A state, a value or a check of the witnesses below. -/
def copying (src dst : DWord) (rows : Nat) : State := { sm with copies := [{ someCopy src rows with dst := dst }] }
/-- The three outcomes of a row. -/
def copyOk (s : State) (c : Copy) : Option (Bool × Bool) :=
  let w := s.whoCopy { c with clk := (s.rowLines c).foldl (fun k l => clkJoin k (kgetD (s.team l.1).lineClk l.2 [])) c.clk }
  if (s.copies.find? (fun e => e.id == c.id)) = some c && !s.rowWaits c then
    match s.rowBytes c w with
    | .error _ => some (false, false)
    | .ok ((bs, _), s1) => match s1.rowChecks c w bs.length (c.row + 1 == c.dstRows) with
      | .error _ => some (true, false)
      | .ok (_, mb, x) => if mb = none && x.isEmpty then some (true, true) else none
  else none
/-- A request on tile 3, with a pair at Sett 9, and at its later stages. -/
def someKvq : Kvq :=
  { id := 6, tm := 0, thread := 1024, tile := 3, qrec := 0xA000, list := 0xB000, mb := none, pins := [], todo := [(9, [{ key := 0x9800, val := 0x9820 }])],
    triples := [], merged := none, failed := none, clk := [] }
/-- A state, a value or a check of the witnesses below. -/
def decoding (q : Kvq) : State :=
  { wTeam sm (fun t => { t with owner := 8 }) with
    mem := memOf (cells 0x409800 0xC000 ++ cells 0x409810 1 ++ cells 0x409820 0xD000 ++ cells 0x409828 (2 ^ 48)), kvqs := [q] }
/-- A state, a value or a check of the witnesses below. -/
def bearCmd (op : BearOp) : BearCmd :=
  { id := 8, tm := 0, thread := 0, gid := 0, mode := 0, gen := 0, clk := [], op := op, tiles := [3], split := false }
/-- A command in the Bear's order whose holder is parked on it. -/
def bearing (op : BearOp) : State := wThr (wCore (wTeam sm (fun t => { t with owner := 8 })) (fun c => { c with bear := [bearCmd op] })) 0 (fun t => { t with park := .bear 8 })
/-- A state, a value or a check of the witnesses below. -/
def anMma : BearOp := .mma 0 (mmaArgs 0x30) ((mmaArgs 0x30).word 0) (mmaArgs 0x30).imxWord [] 0 none
/-- A state, a value or a check of the witnesses below. -/
def called : State := wThr sm 3 (fun t => { t with park := .answer 0 5 20 })
/-- A state, a value or a check of the witnesses below. -/
def starving : State := wThr { sm with rings := uA.rings } 1024 (fun t => { t with park := .retry (.ringEmpty 5), since := some (.runs 900) })

/-- Of EventsOfEngines, clause by clause. -/
theorem witness_EventsOfEngines : (copyOk (copying 0x9000 0x9100 1) { someCopy 0x9000 1 with dst := 0x9100 } = some (true, true) ∧
      copyOk (copying 0x9000 0x9100 2) { someCopy 0x9000 2 with dst := 0x9100 } = some (true, true) ∧
      copyOk (copying 0x200000 0x9100 1) { someCopy 0x200000 1 with dst := 0x9100 } = some (false, false) ∧
      copyOk (copying 0x9000 0x200000 1) { someCopy 0x9000 1 with dst := 0x200000 } = some (true, false)) ∧
    ((decoding someKvq).kvqs.find? (fun q => q.id == 6) = some someKvq ∧ kget someKvq.todo 9 = some [{ key := 0x9800, val := 0x9820 }] ∧
      okX ((decoding someKvq).pairPass (settWho 0 6 [] 9) someKvq { key := 0x9800, val := 0x9820 } freshTriple) = true ∧
      okX ((decoding someKvq).pairPass (settWho 0 6 [] 9) someKvq { key := 0x9820, val := 0x9820 } freshTriple) = false) ∧
    (let q := { someKvq with todo := [], triples := [(9, freshTriple)] }; (decoding q).kvqs.find? (fun q => q.id == 6) = some q) ∧
    (let q := { someKvq with todo := [], merged := some freshTriple }; (decoding q).kvqs.find? (fun q => q.id == 6) = some q ∧
      okX ((decoding q).unitResAll (settWho 0 6 [] ((decoding q).settOf 0 q.list)) [(tileVa 3, 528)] true false) = true ∧
      okX ((decoding q).mbCheck (settWho 0 6 [] ((decoding q).settOf 0 q.list)) 0x9FF0) = true) ∧
    (let q := { someKvq with failed := some (.xlate, 0x9800, none) }; (decoding q).kvqs.find? (fun q => q.id == 6) = some q) ∧
    ((bearing anMma).bearNext 0 true = some (bearCmd anMma) ∧ okX ((bearing anMma).bearRun 0 (bearCmd anMma) 1) = true ∧ (kget (bearing anMma).teams 0).isSome ∧
      (bearing anMma).groupOf 0 .e 0 = some 0 ∧ (bearing anMma).awake 0 = true) ∧
    ((bearing (.mzero 3)).bearNext 0 false = some (bearCmd (.mzero 3)) ∧ (bearing (.smrg 3 0)).bearNext 0 false = some (bearCmd (.smrg 3 0))) ∧
    called.caller 0 3 = some (3, 0, 5, 20) ∧ (starving.groupOf 0 .a 0 = some 1 ∧ starving.starved (tkey 0 .a 0) = true ∧ starving.awake 1 = true) := by decide +kernel
/-- One step each: R225, R237, R258 to R261, R265 to R268, R306, R371. -/
theorem test_events_engines : (
    (nxt (.copyRow 5) (copying 0x9000 0x9100 1) (fun t => t.copies == [])) &&
    (nxt (.copyRow 5) (copying 0x9000 0x9100 2) (fun t => t.copies.map (·.row) == [1])) &&
    (nxt (.copyRow 5) (copying 0x200000 0x9100 1) (fun t => t.copies == [] && (t.thr 1024).deferred.any (fun d => d.id == 5 && d.cause == .xlate && d.faddr == localWin + 0x1020))) &&
    (nxt (.copyRow 5) (copying 0x9000 0x200000 1) (fun t => t.copies == [])) &&
    (nxt (.settPairPass 6 9) (decoding someKvq) (fun t => t.kvqs.any (fun q => kgetD q.todo 9 [] == [] && (kget q.triples 9).isSome && q.failed == none))) &&
    (let q := { someKvq with todo := [], triples := [(9, freshTriple)] }; nxt (.returnMerge 6) (decoding q) (fun t => t.kvqs == [{ q with triples := [], merged := some freshTriple }])) &&
    (let q := { someKvq with todo := [], merged := some freshTriple }; nxt (.kvqComplete 6) (decoding q) (fun t => t.kvqs == [] && (t.team 0).owner == 0)) &&
    (let q := { someKvq with failed := some (.xlate, 0x9800, none) }; nxt (.kvqFail 6) (decoding q) (fun t => t.kvqs == [] && (t.team 0).owner == 0 && (t.thr 1024).deferred.length == 1)) &&
    (nxt (.mmaComplete 0) (bearing anMma) (fun t => (t.core 0).bear == [] && (t.thr 0).park == .none)) &&
    (nxt (.bearCommandComplete 0) (bearing (.mzero 3)) (fun t => (t.core 0).bear == [] && ({ (t.team 0).accTile 3 with shadow := none } == freshAcc))) &&
    (nxt (.bearCommandComplete 0) (bearing (.smrg 3 0)) (fun t => (t.core 0).bear == [] )) &&
    (nxt (.mcallAnswer 0 3) called (fun t => t.thr 3 == { setD .e false 20 5 (called.thr 3) with park := .none })) &&
    (nxt (.expertStarved 0 0) starving (fun t => t == starving.raise 1 (starving.grp 1).pc (starving.grp 1).hdr [0,1,2,3] (fun v => if v = 0 then starving.hit .expertStarved 0 else starving.noHit)))) = true := by decide +kernel
/-- A partition with a peer whose window 0 takes 8 KiB and refuses reads, a window of its own at 0x9000, and flows. -/
def linked (s : State) : State :=
  wPart s (fun q => { q with
    cfg := { q.cfg with peers := [(2, { rod := true, rud := true, windows := [(0, { base := 0, size := 8192, readOk := true, writeOk := true })] })],
                        windows := [(1, { base := 0x9000, size := 4096, readOk := true, writeOk := true })] }
    flows := [(2, { id := 40, next := 9, unacked := 7, base := 0, accepted := [] })], rflows := [(50, { id := 50, next := 0, unacked := 0, base := 5, accepted := [7] })] })
/-- A transfer of 8192 bytes of memory. -/
def someSend : Send :=
  { id := 5, tm := 0, thread := 1024, recAddr := localWin + 0x1080, src := 0x10000, roff := 0, len := 8192, peer := 2, resid := 0, rmb := none, lmb := none,
    policy := 0, e5 := false, rsr := false, rfmt := 0, sf := 0, quant := 0, mode := 0, peerIx := 2, port := 320, flow := 40, seq := 7, nrows := 2, started := 0, acked := 0,
    flags := 0, pending := [], sent := [], dead := false, clk := [] }
/-- A quantised one of 32 elements. -/
def quantSend : Send := { someSend with len := 128, quant := 1, resid := 0x9000, nrows := 1 }
/-- A state, a value or a check of the witnesses below. -/
def sending (x : Send) : State := { linked sm with sends := [x] }
/-- A state, a value or a check of the witnesses below. -/
def ported (x : Send) : Bool :=
  (sending x).sends.find? (fun e => e.id == 5) = some x && (sending x).rowDue x && (sending x).shareFree ((sending x).partOf x.tm) x.port
/-- A state, a value or a check of the witnesses below. -/
def srcRead (x : Send) : Except Bad (List Byte × State) :=
  ((sending x).useCredit ((sending x).partOf x.tm) x.port).unitRead ((sending x).whoSend x) (x.src + BitVec.ofNat 64 (x.started * x.rowB)) (min x.rowB (x.len - x.started * x.rowB)) false
/-- A state, a value or a check of the witnesses below. -/
def quantises (x : Send) : Bool :=
  match srcRead x with
  | .ok (bs, s1) => match s1.unitRead ((sending x).whoSend x) (x.resid + BitVec.ofNat 64 (x.started * 1024 * 4)) (32 * 4) false with
    | .ok (es, _) => (quantRow x 1 (codesOf 32 32 bs) (codesOf 32 32 es)
        (((sending x).part 0).seed ^^^ (BitVec.ofNat 64 x.flow <<< 32) ^^^ (x.seq + BitVec.ofNat 32 x.started).setWidth 64)).isSome
    | _ => false
  | _ => false
/-- A state, a value or a check of the witnesses below. -/
def acks (x : Send) : Bool :=
  let s := sending x
  (s.sends.find? (fun e => e.id == 5)) = some x && decide (x.acked < x.started) &&
    okX (s.unitResAll (s.whoSend x) (pieces (x.resid + BitVec.ofNat 64 (x.acked * 1024 * 4)) (kgetD x.pending x.acked []).length) true false) &&
    okX (s.unitResAll (s.whoSend x) [(x.recAddr + 56, 8)] true false) && okX (s.lmbCheck (s.whoSend x) x.lmb)
/-- A state, a value or a check of the witnesses below. -/
def someRow (seq : Word) (off : DWord) : RemoteRow :=
  { part := 0, flow := 50, seq := seq, win := 1, offset := off, bytes := [1, 2, 3, 4], scaleAt := 0, scales := [], rmb := none, port := 321 }
/-- A state, a value or a check of the witnesses below. -/
def got : Flight := { id := 7, q := 1, clk := [], cargo := .remote 2 0, translated := false, fpc := 0x1008, fhdr := 0x1000 }
/-- A state, a value or a check of the witnesses below. -/
def getting : State := wThr (wPair (linked sm) { freshPair with q := [(1, { freshQueue with places := [.wait 7] })], flights := [got] }) 1024 (fun t => { t with out := [15] })
/-- Of EventsOfPeers, clause by clause. -/
theorem witness_EventsOfPeers : (ported someSend = true ∧ (sending someSend).rowRefused someSend 0 = false ∧ okX (srcRead someSend) = true ∧
      (let x := { someSend with started := 1 }; ported x = true ∧ (sending x).rowRefused x 1 = false ∧ okX (srcRead x) = true) ∧
      (let x := { someSend with peer := 3 }; ported x = true ∧ (sending x).rowRefused x 0 = true) ∧
      (let x := { someSend with src := 0x200000 }; ported x = true ∧ (sending x).rowRefused x 0 = false ∧ okX (srcRead x) = false) ∧
      ported quantSend = true ∧ (sending quantSend).rowRefused quantSend 0 = false ∧ quantises quantSend = true) ∧
    (acks { someSend with started := 1 } = true ∧ acks { someSend with started := 2, acked := 1 } = true ∧
      acks { quantSend with started := 1, pending := [(0, List.replicate 128 0)] } = true ∧ (kget (sending someSend).parts 0).isSome ∧
      (kget ((sending someSend).part 0).flows 2).isSome) ∧
    ((kget (linked sm).parts 0).isSome ∧ (kget ((linked sm).part 0).rflows 50).any (fun f => f.seen 4 && f.seen 7 && !f.seen 5 && !f.seen 1028 &&
        decide ((5 - f.base).toNat < Config.flowWindow) && decide ((1028 - f.base).toNat < Config.flowWindow)) = true ∧
      ((linked sm).windowRes 0 1 4093 4 true) = none ∧ ((linked sm).windowRes 0 1 4092 4 true).isSome ∧ ((linked sm).windowRes 0 1 0 0 true).isSome) ∧
    ((sending { someSend with started := 1 }).sends.find? (fun e => e.id == 5)).isSome ∧ (getting.getFlight (tkey 0 .a 0) 1 = some got) ∧
    ((linked sm).windowRes 0 1 0 4 false).any (fun l => !l.isEmpty) = true := by decide +kernel
/-- One step each: R277 to R286. -/
theorem test_events_peers : (
    (nxt (.nsendRow 5) (sending someSend) (fun t => t.sends.any (fun y => y.started == 1 && (kgetD y.sent 0 []).length == 4096))) &&
    (let x := { someSend with peer := 3 }; nxt (.nsendRow 5) (sending x) (fun t => t.sends == [] && (t.thr 1024).deferred.any (fun d => d.cause == .remoteRefused && d.send && d.faddr == x.recAddr))) &&
    (let x := { someSend with src := 0x200000 }; nxt (.nsendRow 5) (sending x) (fun t => t.sends == [] && (t.thr 1024).deferred.any (fun d => d.cause == .xlate && d.send))) &&
    (nxt (.nsendRow 5) (sending quantSend) (fun t => t.sends.any (fun y => y.started == 1 && (kgetD y.pending 0 []).length == 128))) &&
    (nxt (.rowAck 5) (sending { someSend with started := 1 }) (fun t => t.sends.map (·.acked) == [1] && (kget (t.part 0).flows 2).map (·.unacked) == some 8)) &&
    (nxt (.rowAck 5) (sending { someSend with started := 2, acked := 1 }) (fun t => t.sends == [] && (kget (t.part 0).flows 2).map (·.unacked) == some 9)) &&
    (nxt (.remoteRowArrival (someRow 7 0)) (linked sm) (fun t => kgetD t.dups 321 0 == 1)) &&
    (nxt (.remoteRowArrival (someRow 5 4092)) (linked sm) (fun t => (kget (t.part 0).rflows 50).any (fun f => f.base == 6 && f.accepted == [7]) && t.readM (.hbm 0x409FFF) == 4)) &&
    (nxt (.remoteTimeout (.send 5)) (sending { someSend with started := 1 }) (fun t => t.sends == [] && (t.thr 1024).deferred.any (fun d => d.cause == .remoteTimeout))) &&
    (nxt (.remoteRefused (.get 0 0 1)) getting (fun t => (t.thr 1024).out == [] && (t.pair 0).flights.any (fun y => match y.cargo with | .fault .remoteRefused _ => true | _ => false))) &&
    (nxt (.ngetResponse 0 0 1 77) getting (fun t => (t.thr 1024).out == [] && (t.pair 0).flights.any (fun y => y.cargo == .data [77]))) &&
    (nxt (.remoteRead 0 1 0) (linked sm) (fun t => t.peerRead == 0))) = true := by decide +kernel
/-- The task changed. -/
def wTask (s : State) (f : Task → Task) : State := { s with tasks := kmod s.tasks 1 f }
/-- A TCB at 0x9000: one team of one group of four threads, priority 5. -/
def tcbCells : List Host.Cell :=
  cells 0x409000 0x1000 ++ cells 0x409010 (1 + 2 ^ 32 + 4 * 2 ^ 40 + 2 ^ 48 + 2 ^ 52) ++ cells 0x409018 5 ++ cells 0x409060 (8 + 8 * 2 ^ 8 + 2 * 2 ^ 24)
/-- A state, a value or a check of the witnesses below. -/
def submitted : State := { sm with mem := memOf tcbCells }
/-- A state, a value or a check of the witnesses below. -/
def submits (s : State) (part : Nat) (va : DWord) : Bool :=
  let s0 := s.modPart part (fun q => { q with subTaken := q.subTaken + 1 })
  match s0.partRes part va with
  | some r =>
    let s1 := (s0.keepTlb r).mergeLines (r.loc.words 128)
    let q := tcbOf (s1.readMs r.loc 128)
    s1.tcbState r.loc == 0 && q.part == part && q.legal && q.fits && (match s1.partRead part (pieces q.code 16) with
      | .ok (_, s2) => (match s2.partRead part (if q.args = 0 then [] else pieces q.args 128) with | .ok _ => true | _ => false)
      | _ => false)
  | none => false
/-- A state, a value or a check of the witnesses below. -/
def committing : State := wTask sm (fun k => { k with teams := 1, retired := 1, ver := [(0x7FFF, 5), (0x8080, 6)], succs := [0x9000, 0x9080], cw := 1, ch := 1, preempt := true, migr := true })
/-- A second core, and a task whose one team waits. -/
def binding (tbl : KMap BindRec) : State :=
  { sm with
    cores := [(0, { freshCore with part := some 0 }), (1, { freshCore with part := some 0, table := tbl })]
    tasks := sm.tasks ++ [(2, { noTask with state := 2, va := 0x9000, cw := 1, ch := 1, tpg := 4, gpt := 1, teams := 1, lim := team0.lim })] }
/-- A record that grants slots. -/
def bindRec (slots : DWord) : BindRec := { tcb := 0x9000, slots := slots, place := 0, ctx := 1 }
/-- A state, a value or a check of the witnesses below. -/
def placed (mode : TeamMode) (restore : Bool) : State :=
  { wTeam committing (fun t => { t with mode := mode, savedBins := [{ tm := 0, key := 0x1018, priv := false, filed := [] }] }) with
    clusters := kmod sm.clusters 0 (fun x => { x with restore := restore }), gtc := 2000000 }
/-- A state, a value or a check of the witnesses below. -/
def someNeed : Need := { part := 0, prio := 9, slots := 0, eRegs := 0, aRegs := 0, qMem := 0, tiles := 64, accs := 0 }
/-- A state, a value or a check of the witnesses below. -/
def swapping (m : PartMode) : State := wPart sm (fun q => { q with mode := m })
/-- Of EventsOfTasks, clause by clause. -/
theorem witness_EventsOfTasks : (submitted.up = true ∧ (kget submitted.parts 0).isSome ∧ (0x9001#64).toNat % 128 ≠ 0 ∧ submits submitted 0 0x9000 = true) ∧
    (committing.mayCommit 1 = true ∧ committing.owesMerge ((locOfPa (committing.task 1).pa).words 128) = false ∧ (kkeys (committing.task 1).ver).Nodup ∧ (committing.task 1).pa = 0x8000) ∧ (committing.task 1).succs = [0x9000, 0x9080] ∧
    (committing.task 1).state = 3 ∧
    ((bindRec 1).valid = true ∧ ((binding []).core 1).part.isSome ∧ (binding []).handover = none ∧ (binding []).bindSound 1 (bindRec 1) = some (2, .fresh) ∧
      kget ((binding []).core 1).table 7 = none ∧
      (let s := binding [(7, bindRec 1)]; s.bindTask 1 (bindRec 1) = some 2 ∧ s.bindKind 1 2 (bindRec 1) = some .fresh ∧ kget (s.core 1).table 7 = some (bindRec 1) ∧
        (s.core 1).nextRecord = some 7 ∧ s.accepts 1 2 (bindRec 1) .fresh = true) ∧
      (let s := binding [(0, bindRec 3)]; s.bindTask 1 (bindRec 3) = some 2 ∧ s.bindKind 1 2 (bindRec 3) = some .fresh ∧ kget (s.core 1).table 0 = some (bindRec 3) ∧
        (s.core 1).nextRecord = some 0 ∧ s.accepts 1 2 (bindRec 3) .fresh = false)) := by decide +kernel
/-- Of its further clauses. -/
theorem witness_EventsOfTasks_teams :
    (∀ b ∈ [true, false], (kget (placed .placed b).clusters 0).any (fun x => (placed .placed b).clusterReady x && x.restore == b && x.teams == [0]) = true) ∧
    ((kget (placed .running true).clusters 0).any (fun x => !(placed .running true).clusterReady x && x.restore) = true ∧ (placed .running true).groupsBack 0 = true) ∧
    (committing.handover = none ∧ (committing.core 0).part = some someNeed.part ∧ (needAmounts someNeed).sub (committing.freeOn 0) ≠ noAmounts ∧
      (committing.victims 0 (committing.core 0).needs).length < (committing.victims 0 ((committing.core 0).needs ++ [someNeed])).length) ∧
    ((committing.team 0).mode = .running ∧ 0 ∈ (committing.team 0).held ∧ committing.slotQuiet 0 0 = true ∧ committing.mayBegin 0 0 = true ∧ (kget committing.teams 0).isSome) ∧
    ((placed .running false).liveTeams ((placed .running false).clusterTeams 0) = [0] ∧ ((placed .running false).team 0).mode = .running ∧ (placed .running false).teamQuiet 0 = true ∧
      (placed .running false).settled 0 = true ∧ ((placed .running false).task 1).migr = true ∧ ((placed .running false).task 1).preempt = true ∧
      ((placed .running false).team 0).task = 1) ∧
    ((wCore sm (fun c => { c with lent := [63] })).core 0).lent = [63] ∧
    ((kget sm.parts 0).isSome ∧ (sm.part 0).mode = .active ∧ (sm.part 0).migrating = false ∧ sm.partTeams 0 = [0] ∧ (sm.team 0).mode ≠ .placed ∧ sm.teamQuiet 0 = true) ∧
    (((swapping .swapped).part 0).mode = .swapped ∧ ((swapping .swapped).part 0).migrating = false ∧ ((swapping .swapped).part 0).sentAway = false) := by decide +kernel
/-- One step each: R171 to R187, R197, R311. -/
theorem test_events_tasks : (
    (nxt (.submit 0 0x9000) submitted (fun t => (kget t.tasks 10).any (fun k => k.va == 0x9000 && k.state == 2 && k.prio == 5 && k.teams == 1))) &&
    (nxt (.submit 0 0x9001) submitted (fun t => t.tasks == submitted.tasks && (t.part 0).subTaken == 1)) &&
    (nxt (.commit 1) committing (fun t => (t.task 1).state == 4 && (t.task 1).ver == [] && t.readM (.hbm 0x7FFF) == 5 && t.readM (.hbm 0x8080) == 6)) &&
    (nxt (.successorDecrement 1) committing (fun t => (t.task 1).succs == [0x9080])) &&
    (nxt (.taskEnded 1) committing (fun t => (t.task 1).state == 6 && t.teams == [])) &&
    (nxt (.bindRecord 1 7 (bindRec 1)) (binding []) (fun t => kget (t.core 1).table 7 == some (bindRec 1))) &&
    (nxt (.bindRecord 1 7 (bindRec 1)) (binding [(7, bindRec 1)]) (fun t => kget (t.core 1).table 7 == some ((bindRec 1).done false) && (t.team 10).mode == .placed && (t.team 10).core == 1 && (t.team 10).slots == [0])) &&
    (nxt (.bindRecord 1 0 (bindRec 3)) (binding [(0, bindRec 3)]) (fun t => kget (t.core 1).table 0 == some ((bindRec 3).done true))) &&
    (nxt (.teamStart 0) (placed .placed false) (fun t => (t.team 0).mode == .running)) &&
    (nxt (.teamStart 0) (placed .placed true) (fun t => (t.team 0).mode == .running || (t.team 0).mode == .stopped)) &&
    (nxt (.teamStart 0) (placed .running true) (fun t => (t.team 0).savedBins == [])) &&
    (nxt (.eviction 0 someNeed) committing (fun t => (t.core 0).needs == [someNeed])) &&
    (nxt (.groupSave 0 0) committing (fun t => (t.team 0).evicted == [0])) &&
    (nxt (.thermalMigration 0) (placed .running false) (fun t => (t.team 0).mode == .saved)) &&
    (nxt (.lentTileDrain 0) (wCore sm (fun c => { c with lent := [63] })) (fun t => (t.core 0).lent == [])) &&
    (nxt (.swapOut 0) sm (fun t => (t.part 0).mode == .swapped && (t.team 0).mode == .saved)) &&
    (nxt (.swapIn 0) (swapping .swapped) (fun t => (t.part 0).mode == .active))) = true := by decide +kernel
/-- A device with a second partition that has nothing, a spare in use in row 1, and degraded lanes. -/
def served : State :=
  { sm with
    cores := [(0, { freshCore with part := some 0 }), (20, freshCore), (21, freshCore)], cap := 15, spareUsed := [16], channels := [(11, 3)], lanes := [(320, 4)] }
/-- A state, a value or a check of the witnesses below. -/
def newCfg : PartCfg := { noCfg with cores := [20, 21], grant := [755], share := 64, verWays := 8, shadowWays := 8, rings := [(1023, { base := 0, deadline := false, ssize := 255, logn := 16 })] }
/-- No task of the partition runs. -/
def idle (s : State) : State := { s with tasks := kmod s.tasks 1 (fun k => { k with state := 6 }) }
/-- An error that source 0 finds. -/
def anErr (array kind : Byte) (addr : DWord) : MachineCheck := { source := 0, array := array, kind := kind, addr := addr, syndrome := 0, count := 0 }
/-- Of EventsOfService, clause by clause. -/
theorem witness_EventsOfService : (served.up = true ∧ (kget served.parts 0).isSome ∧ ¬ (7 = 0 ∧ 1 = 8) ∧ alignedWrite 17 8 = false) ∧
    (let s := wPart served (fun q => { q with apbase := 0x40000000 });
      2 ^ 30 - 1 + [(7 : Byte)].length ≤ 2 ^ 30 ∧ s.partRes 0 (0x40000000 + BitVec.ofNat 64 (2 ^ 30 - 1)) = none ∧
        pieces (0x40000000 + BitVec.ofNat 64 (2 ^ 30 - 1)) 1 = [(0x40000000 + BitVec.ofNat 64 (2 ^ 30 - 1), 1)]) ∧
    (served.partRes 0 0x9000).any (fun r => r.w && r.loc == .hbm 0x409000) = true ∧ pieces 0x9000 1 = [(0x9000, 1)] ∧
    ((∀ r ∈ [anErr 9 2 0x409000, anErr 9 1 0x409000, anErr 7 0 0x409000, anErr 0 2 130], r.array.toNat ≤ 9 ∧ r.kind.toNat ≤ 2 ∧
        (7 ≤ r.array.toNat ∨ (served.coreAt r.source.toNat).isSome) ∧ served.errOwner 0 (served.coreAt r.source.toNat) r.array.toNat r.addr.toNat = some 0) ∧
      (served.errCount 0 7).toNat + 1 < 2 ^ 32 ∧ isPow2 ((served.errCount 0 7).toNat + 1) = true) ∧
    (served.recovery = false ∧ served.waysFit newCfg = true ∧ (∀ e ∈ newCfg.rings, e.1 < 1024 ∧ kget served.rings e.1 = none ∧ ringLegal e.2 = true) ∧ kget served.parts 23 = none ∧ served.roomFor 23 newCfg.cores newCfg.grant = true ∧
      newCfg.share + served.parts.foldl (fun n e => n + e.2.cfg.share) 0 ≤ 64) ∧
    ((served.part 0).migrating = false ∧ (served.part 0).cfg.cores = [0] ∧ served.roomFor 0 [0, 20] [5] = true ∧
      (let s := { served with teams := [] }; s.roomFor 0 [20] [5] = true ∧ s.idleCore 0 = true)) := by decide +kernel
/-- Of EventsOfService, clause by clause. -/
theorem witness_EventsOfService_host : (∀ e ∈ (idle served).tasks, e.2.part = 0 → ¬ (1 ≤ e.2.state ∧ e.2.state ≤ 3)) ∧
    ((served.core 21).absent = false ∧ served.idleCore 21 = true ∧ (∃ c ∈ served.spareUsed, c / 15 = 21 / 15) ∧
      (let s := { served with spareUsed := [] }; s.idleCore 239 = true ∧ (s.core 239).absent = false ∧ ∀ c ∈ s.spareUsed, c / 15 ≠ 239 / 15)) ∧
    ((10 < 12 ∧ 63 < 64 ∧ ∀ e ∈ served.channels, e.1 ≠ 10) ∧ (2 < kgetD served.lanes 320 8) ∧ (4 < kgetD served.lanes 331 8)) ∧ (8 < served.pcieWidth) ∧
    (15 = served.cap ∧ 14 + 1 = served.cap) ∧ (State.reset.up = false ∧ State.reset.recovery = false ∧ State.reset.fuses = noFuses) ∧
    (served.handover = none ∧ served.recovery = false ∧ { served with handover := some [1] }.handover = some [1]) ∧
    ((kget served.parts 0).isSome ∧ ((wPart served (fun q => { q with debug := true })).part 0).debug = true ∧ srTakes (0x28 + 7) 4 = true) ∧ (kget served.groups 0).isSome := by decide +kernel
/-- One step each: R11, R307, R316 to R321, and the registers of chapter 24. -/
theorem test_events_service : (
    (nxt (.registerWrite 0 16 8 0xFFFFFFFFFFFFFFFF) served (fun t => (t.part 0).apbase == 0x00FFFFFFC0000000)) &&
    (nxt (.registerWrite 0 7 1 5) served (fun t => (t.part 0).subDropped == 1)) &&
    (nxt (.registerWrite 0 17 8 5) served (fun t => t == served)) &&
    (nxt (.hostApertureWrite 0 0x9000 [7]) served (fun t => t.readM (.hbm 0x409000) == 7)) &&
    (nxt (.hostApertureRead 0 (2^30-1) 1) (wPart served (fun q => { q with apbase := 0x40000000 })) (fun t => t.hostRead == [0xFF])) &&
    (nxt (.scrubError 0 { source := 0, array := 9, kind := 2, addr := 0x409000, syndrome := 0, count := 0 }) served (fun t => t.mclog.length == 1 && t.bad.contains (2 * (0x409000 / 4)))) &&
    (nxt (.partitionCreate 23 newCfg) served (fun t => kget t.parts 23 == some (freshPart newCfg) && (t.core 20).part == some 23)) &&
    (nxt (.partitionResize 0 [20] [5]) { served with teams := [] } (fun t => (t.part 0).cfg == { (served.part 0).cfg with cores := [20], grant := [5] } && (t.core 0).part == none && (t.core 20).part == some 0)) &&
    (nxt (.partitionDelete 0) (idle served) (fun t => kget t.parts 0 == none && t.teams == [])) &&
    (nxt (.coreRetirement 21) served (fun t => (t.core 21).absent && t.spareUsed == [16])) &&
    (nxt (.coreRetirement 239) { served with spareUsed := [] } (fun t => t.spareUsed == [239])) &&
    (nxt (.pseudoChannelRetirement 10 63) served (fun t => t.channels == [(11,3),(10,63)])) && !(nxt (.pseudoChannelRetirement 11 4) served (fun _ => true)) &&
    (nxt (.lynxLaneDegrade 320 2) served (fun t => kget t.lanes 320 == some 2)) &&
    (nxt (.pcieDegrade 8) served (fun t => t.pcieWidth == 8)) &&
    (nxt (.powerCap 14) served (fun t => t.cap == 14)) &&
    (nxt .coolantOverLimit served (fun t => t.power == false && t.tasks == [])) &&
    (nxt (.powerGood noFuses) State.reset (fun t => t.up && t.power)) &&
    (nxt (.ecideHandover [1] true) { served with handover := some [1] } (fun t => t.handover == none && t.slotB != served.slotB))) = true := by decide +kernel
/-- A partition that migrates: dirty frames, frames to send, a stage of the image. -/
def migr (f : Part → Part) : State := wPart sm f
/-- A state, a value or a check of the witnesses below. -/
def anAct : State := migr (fun q => { q with l2dirty := [64, 65], dirty := [(1, 2), (4095, 0x8000000000000000)] })
/-- A state, a value or a check of the witnesses below. -/
def aRound : State := migr (fun q => { q with migrating := true, dirty := [(0, 5)], round := 2 })
/-- A state, a value or a check of the witnesses below. -/
def frames (n : Nat) : State := migr (fun q => { q with migrating := true, toSend := [7, 8], fails := n })
/-- A state, a value or a check of the witnesses below. -/
def dest : State := { sm with tasks := [], teams := [] }
/-- A swapped-out partition whose image is being written, with a saved team and a command of it. -/
def imaging : State :=
  let s := migr (fun q => { q with mode := .swapped, migrating := true })
  wCore (wTeam s (fun t => { t with mode := .saved }))
    (fun c => { c with bear := [{ id := 8, tm := 0, thread := 0, gid := 0, mode := 0, gen := 0, clk := [], op := .mzero 1, tiles := [], split := false }] })
/-- The image with its header written, or with none. -/
def headed (s : State) : State := wPart s (fun q => { q with image := [imgRec 1 0 (.header 6 9 [] [] [])] })
/-- A partition that receives, before and after the header has come. -/
def receiving (seen : List Nat) : State := wPart dest (fun q => { q with mode := .receiving 20 30 seen })
/-- Of EventsOfMigration, clause by clause. -/
theorem witness_EventsOfMigration : (kget sm.parts 0).isSome ∧ 65 ∈ (anAct.part 0).l2dirty ∧ 4095 < (anAct.part 0).cfg.grant.length * 4096 ∧
    (aRound.part 0).migrating = true ∧ (kgetD (anAct.part 0).dirty 4095 0).getLsbD 63 = true ∧
    ((sm.part 0).toSend = [] ∧ (sm.part 0).image = [] ∧ (sm.part 0).mode = .active ∧ (sm.part 0).migrating = false ∧ (aRound.part 0).toSend = [] ∧
      (aRound.part 0).image = [] ∧ (aRound.part 0).cfg.threshold ≤ (aRound.part 0).named ∧ (imaging.part 0).l2dirty = []) ∧
    (∀ n ∈ [1, 2], ((frames n).part 0).migrating = true ∧ ((frames n).part 0).toSend = 7 :: [8] ∧ ((frames n).part 0).fails = n) ∧
    (dest.tasks = [] ∧ (dest.part 0).migrating = false ∧ (dest.part 0).mode = .active ∧ ((receiving []).part 0).mode = .receiving 20 30 [] ∧
      2 ^ 18 - 1 < (dest.part 0).cfg.grant.length * 2 ^ 18 ∧ (List.replicate 4112 (7 : Byte)).length = 4112) ∧
    ((imaging.part 0).mode = .swapped ∧ (imaging.part 0).migrating = true ∧ imaging.allSent 0 = true ∧ (imaging.part 0).image = [] ∧ ((headed imaging).part 0).image ≠ [] ∧
      (headed imaging).allSent 0 = true ∧ (kget imaging.teams 0).isSome ∧ (imaging.team 0).part = 0 ∧ (imaging.team 0).mode = .saved ∧ (kget imaging.tasks 1).isSome ∧
      (imaging.task 1).part = 0 ∧ (imaging.task 1).state = 3 ∧ imaging.partBear 0 0 ≠ []) ∧
    (((receiving [1]).part 0).mode = .receiving 20 30 [1] ∧ kget (receiving [1]).tasks 20 = none ∧ knownRecord 0x18001 = true ∧ knownRecord 0x18007 = false ∧
      knownRecord 0x10007 = false ∧ (aRound.part 0).migrating = true) := by decide +kernel
/-- A record of the image appended at its place. -/
def img (i : Instr) (n : Nat) : Bool := nxt i (headed imaging) (fun t => ((t.part 0).image.map (·.typ)) == [1, BitVec.ofNat 15 n] && (t.part 0).migrating)
/-- The header, the records after it, and the end once all of them stand. -/
theorem test_image : (
    (nxt (.partitionHeader 0) imaging (fun t => ((t.part 0).image.map (·.typ)) == [1])) &&
    (img (.teamContext 0 0) 2 && img (.taskRecord 0 1) 3 && img (.bearContinuation 0 0) 4 && img (.lynxFlows 0) 5 && img (.timeRecord 0) 6 &&
      img (.telemetryRingTail 0) 0x10 && img (.bearCheckStatistics 0) 0x11 && !(img (.endOfImage 0) 0x7FFF)) &&
    ([.teamContext 0 0, .taskRecord 0 1, .bearContinuation 0 0, .lynxFlows 0, .timeRecord 0, .endOfImage 0].foldl
      (fun s i => match exec i s with
        | .next t => t
        | _ => s) (headed imaging) |>.part 0 |>.migrating) == false) = true := by decide +kernel
/-- One step each: R311 to R315. -/
theorem test_events_migration : (
    (nxt (.l2WriteBack 0 65) anAct (fun t => (t.part 0).l2dirty == [64] && (kgetD (t.part 0).dirty 1 0).getLsbD 1)) &&
    (nxt (.dirtyHarvest 0 4095) anAct (fun t => kget (t.part 0).dirty 4095 == none && (t.part 0).toSend == [])) &&
    (nxt (.dirtyHarvest 0 0) aRound (fun t => kget (t.part 0).dirty 0 == none && (t.part 0).toSend == [0, 2])) &&
    (nxt (.migrationRound 0) aRound (fun t => (t.part 0).toSend == [0, 2] && (t.part 0).round == 3 && (t.part 0).dirty == [])) &&
    (nxt (.precopyFrame 0 7 [] true) (frames 1) (fun t => (t.part 0).toSend == [8] && (t.part 0).frames == 1 && (t.part 0).fails == 0)) &&
    (nxt (.precopyFrame 0 7 [] false) (frames 1) (fun t => (t.part 0).toSend == [7, 8] && (t.part 0).frames == 1 && (t.part 0).fails == 2)) &&
    (nxt (.precopyFrame 0 7 [] false) (frames 2) (fun t => !(t.part 0).migrating && (t.part 0).toSend == [])) &&
    (nxt (.unknownRecord 0 0x18007) (receiving [1]) (fun t => (t.part 0).mode == .active)) &&
    (nxt (.unknownRecord 0 0x10007) (receiving [1]) (fun t => (t.part 0).mode == .receiving 20 30 [1, 7])) &&
    (nxt (.imageRefused 0 5) aRound (fun t => !(t.part 0).migrating && (t.part 0).image == [])) &&
    (match (receiving [1]).recordCame 0 { imgRec 3 1 (.task 20 { noTask with part := 0, state := 2 }) with length := 0 } with
      | .next t => (kget t.tasks 20).any (fun k => k.state == 2)
      | _ => false)) = true := by decide +kernel
/-- Where an access leads, with no partial owed there or on the way. -/
def quiet (s : State) (va : DWord) (n : Nat) : Bool :=
  (s.resolve 0 va).any (fun r => !s.owesMerge (r.loc.words n) && match r.ent with
    | some e => !s.owesMerge ((s.walkCells e.va walkPlan (s.root e.part)).flatMap (fun c => (Loc.hbm c).words 8))
    | none => true)
/-- Such an access is what the statements suppose. -/
theorem quiet_spec {s : State} {va : DWord} {n : Nat} (h : quiet s va n = true) : ∃ r, s.resolve 0 va = some r ∧ Quiet s r n := by
  unfold quiet at h
  cases hr : s.resolve 0 va with
  | none => simp [hr] at h
  | some r =>
    simp only [hr, Option.any_some, Bool.and_eq_true, Bool.not_eq_true'] at h
    refine ⟨r, rfl, fun e he => ?_, h.1⟩
    simpa [he] using h.2
/-- The execute threads changed, all alike. -/
def wE (s : State) (f : Thread → Thread) : State := { s with threads := s.threads.map (fun e => (e.1, if e.1 < 1024 then f e.2 else e.2)) }
/-- A register of every execute thread holds an uncorrectable error. -/
def badE : State := wE onE (fun t => { t with bad := [3] })
/-- Of SourceValues: a register that holds an error, and threads without one. -/
theorem witness_SourceValues_bad : (3#7).toNat ∈ (badE.thr 0).bad ∧ (onE.thr 0).bad = [] ∧ (onA.thr 1024).bad = [] := by decide +kernel
/-- Of LoadValue, StoreBytes and AtomicStep: the window and memory, of sound registers. -/
theorem witness_Quiet : quiet onA localWin 8 = true ∧ quiet uA 0x9000 8 = true ∧ quiet uA 0x9000 64 = true ∧ quiet uA (localWin + 0x1040) 16 = true ∧
    ((kget onA.teams 0).isSome ∧ 0 + 8 ≤ 2 ^ 20) ∧ sound (onA.thr 1024) (regsOf [.reg 5, .imx 1, .reg 3]) = true := by decide +kernel
/-- Of Reform, HandlerReturn, QueueLoads and BearSignatures. -/
theorem witness_Issued : (lastE.core 0).filing = [] ∧ ((inHand true).afterSeq 0 0x1010 0x1000 false).entering = false ∧
    ((uA.pair 0).heldFlight 1 = none ∧ (uA.pair 0).flights = []) ∧
    (∀ e ∈ ((signedFrom 128 (mmaArgs 0x30) 0).team 0).cv, e.1 ≠ (mmaArgs 0x30).cv.toNat → ∀ f w, e.2.first = some (f, w) → (w.extractLsb' 16 3).toNat ≠ 1) := by
  refine ⟨by decide +kernel, by decide +kernel, by decide +kernel, ?_⟩
  intro e he hne f w hf
  have : (((signedFrom 128 (mmaArgs 0x30) 0).team 0).cv.all (fun e => e.1 == (mmaArgs 0x30).cv.toNat)) = true := by decide +kernel
  exact absurd (by simpa using List.all_eq_true.mp this e he) hne
/-- Of EventsOfTime: the bin's team is not being saved, no group stands past a `brk` of its block, and an issue at a decode fault. -/
theorem witness_EventsOfTime_more : timed.saving 0 = false ∧
    ((kkeys (stopper true).groups).all (fun g => !((stopper true).afterSeq ((stopper true).grp g).tm ((stopper true).grp g).pc ((stopper true).grp g).hdr
      ((stopper true).grp g).priv).entering)) = true ∧ met mE .both false { vx := none, mxa := none } = true := by decide +kernel
/-- A stream's queue that was flushed. -/
def flushedQ : State :=
  wPair sm { freshPair with q := [(2, { freshQueue with flushed := true, stream := some (someStream 1 false 2) })] }
/-- Of EventsOfMemory: what its clauses suppose besides. -/
theorem witness_EventsOfMemory_more : (∀ c ∈ [Cargo.data [1, 2], .fault .xlate 0x9000], ((translating c).pair 0).flights = fly c false :: [] ∧
      (fly c false).translated = false ∧ (translating c).awake 1 = true ∧ ((translating c).thr 1024).exited = false) ∧
    (fly (.data [1, 2]) false).fault = none ∧
    (∀ s ∈ [streaming 1 false 2, streaming 0 true 3], s.savedThr 1024 = false ∧ ((s.pair 0).queue 2).flushed = false) ∧
    (((flushedQ.pair 0).queue 2).flushed = true ∧ flushedQ.partnerGone 1024 = false ∧ flushedQ.savedThr 1024 = false ∧ (flushedQ.team 0).mode = .running) := by
  decide +kernel
/-- An accumulator tile holds an uncorrectable error. -/
def badAcc (op : BearOp) : State := { bearing op with badAcc := [(0, 3)] }
/-- Of EventsOfEngines: a command that reads a bad accumulator tile. -/
theorem witness_EventsOfEngines_more : (badAcc (.smrg 3 0)).bearNext 0 false = some (bearCmd (.smrg 3 0)) ∧ (bearCmd (.smrg 3 0)).op.reads = true ∧
    (BearOp.smrg 3 0).accs.find? (fun a => (badAcc (.smrg 3 0)).badAcc.contains (0, a)) = some 3 ∧ ((badAcc (.smrg 3 0)).thr 0).exited = false := by decide +kernel
/-- One step each of what these clauses say: INTEGRITY of a register (R131), a push of a stream to a flushed queue (Table 4-4). -/
theorem test_more : traps (badE.readSrcs 0 [(.int32, .reg 3), (.int32, .reg 2)] (badE.rd 0)) .integrity = true ∧
    nxt (.streamElement 0 0 2) flushedQ (fun t => ((t.pair 0).queue 2).places == [] && ((t.pair 0).queue 2).stream.any (fun x => x.rem == 0)) = true ∧
    nxt (.bearCommandComplete 0) (badAcc (.smrg 3 0)) (fun t => (t.thr 0).deferred.any (fun d => d.cause == .integrity)) = true := by decide +kernel
/-- SHA-512 of "abc" (FIPS 180-4), and a byte of the substitution of AES (FIPS 197). -/
theorem test_digest : sha512 [0x61, 0x62, 0x63] =
    0xddaf35a193617abacc417349ae20413112e6fa4e89a97ea20a9eeee64b55d39a2192992a274fc1a836ba3c23a3feebbd454d4423643ce80e2a9ac94fa54ca49f ∧
    aesSub 0x53 = 0xED := by decide +kernel

/-- The chain of a key searched, with its words read as `Searches` says. -/
def search (k : Nat) (lo hi : DWord) (n : Nat) (s : State) (b : DWord) (i : Nat) (free : Option DWord) : Option (Found × State) :=
  match n with
  | 0 => none
  | n + 1 =>
    if i = 7 then match s.dirGet k (b + 224) 32 0 0 with
      | .ok (bs, s1) => if (entryWord bs 3).extractLsb' 0 2 = 2 then search k lo hi n s1 (entryWord bs 2) 0 free
          else some ({ entry := none, free := free, last := b }, s1)
      | _ => none
    else if i < 7 then match s.dirGet k (b + BitVec.ofNat 64 (32 * i)) 32 0 0 with
      | .ok (bs, s1) =>
        if (entryWord bs 3).extractLsb' 0 2 = 1 ∧ entryWord bs 0 = lo ∧ entryWord bs 1 = hi then
          some ({ entry := some (b + BitVec.ofNat 64 (32 * i), entryWord bs 2), free := free, last := b }, s1)
        else search k lo hi n s1 b (i + 1) (if (entryWord bs 3).extractLsb' 0 2 = 0 ∧ free = none then some (b + BitVec.ofNat 64 (32 * i)) else free)
      | _ => none
    else none
/-- What it finds is what the statements suppose. -/
theorem search_spec {k : Nat} {lo hi : DWord} {x : Found} {t : State} : ∀ (n : Nat) (s : State) (b : DWord) (i : Nat) (free : Option DWord),
    search k lo hi n s b i free = some (x, t) → Searches k lo hi 0 0 n s b i free x t
  | 0, _, _, _, _, h => by simp [search] at h
  | n + 1, s, b, i, free, h => by
    unfold search at h
    split at h
    · rename_i hi7; subst hi7
      split at h
      · rename_i bs s1 hd
        split at h
        · rename_i hl; exact .link _ _ _ _ _ _ _ _ hd hl (search_spec n _ _ _ _ h)
        · rename_i hl; cases h; exact .last _ _ _ _ _ _ hd hl
      · cases h
    · split at h
      · rename_i hlt
        split at h
        · rename_i bs s1 hd
          split at h
          · rename_i hh; cases h; exact .hit _ _ _ _ _ _ _ hlt hd hh.1 hh.2.1 hh.2.2
          · rename_i hh; exact .skip _ _ _ _ _ _ _ _ _ hlt hd hh (search_spec n _ _ _ _ h)
        · cases h
      · cases h
/-- A directory of 16 primary buckets and two spill buckets with the key (7, 0) at its bucket's first entry, a descriptor at 0x9800 of a page
at 0xC000 with one reference, one without reference at 0x9820, a quarantined one at 0x9840. -/
def dirS : State :=
  wPart { sm with mem := memOf (cells (0x408000 + 256 + 256 * 7) 7 ++ cells (0x408000 + 256 + 256 * 7 + 16) 0x9800 ++ cells (0x408000 + 256 + 256 * 7 + 24) 1 ++
      cells 0x409800 0xC000 ++ cells 0x409810 1 ++ cells 0x409820 0xD000 ++ cells 0x409840 0xD000 ++ cells 0x409848 (2 ^ 52) ++ cells 0x409850 1) }
    (fun q => { q with kvdir := 0x8044 })
/-- The bucket of the key (n, 0). -/
def bucket (n : Nat) : DWord := 0x8000 + 256 + BitVec.ofNat 64 (256 * n)
/-- Of KeyLooks, KeyInserts and KeyCounts: no directory; a key that is there, and one that is not, with a free entry in its bucket; and the
descriptors of the three kinds. -/
theorem witness_Keys : ((wPart sm (fun q => { q with kvdir := 0 })).partAt 1024).nb = 0 ∧ (dirS.partAt 1024).nb = 4 ∧ (dirS.partAt 1024).ns = 1 ∧
    (search 1024 7 0 1 dirS (bucket 7) 0 none).map (fun e => e.1) = some { entry := some (bucket 7, 0x9800), free := none, last := bucket 7 } ∧
    (search 1024 8 0 8 dirS (bucket 8) 0 none).map (fun e => e.1) = some { entry := none, free := some (bucket 8), last := bucket 8 } ∧
    ([(0x9800, 1, false), (0x9820, 0, false), (0x9840, 1, true)].all (fun e => match dirS.descGet 1024 e.1 0 0 with
      | .ok (d, _) => d.refs == e.2.1 && d.quar == e.2.2
      | _ => false)) = true ∧
    okT (dirS.dirPut 1024 (bucket 7 + 24) (leBytes 8 0) 0 0) = true ∧ okT (dirS.dirGet 1024 0x8000 8 0 0) = true ∧
    quiet dirS (bucket 7) 32 = true ∧ quiet dirS 0x8000 8 = true := by decide +kernel
/-- Of CredLeaves, FopenLeaves, PrefLeaves, KinsLeaves, KgetGives, StrongAccess, MbLeaves, CardLeaves and RequestLeaves. -/
theorem witness_Leaves : (∀ f ∈ [0, 1, 2, 3, 4, 5, 6], okT (credTry f p 3 (.reg 7) .zero uA 1024) = true) ∧ (uA.resolve 0 0x9000).map (·.loc) = some (.hbm 0x409000) ∧
    ((uA.core (uA.coreOf 0)).upd = []) ∧ (okT (fopenTry p 3 (.reg 5) (.imx 0x1000) uA 1024) = true ∧ quiet uA (localWin + 0x1000) 16 = true) ∧
    okT (prefTry p (.reg 4) .zero uA 1024) = true ∧ (kget uA.teams 0).isSome ∧ (4#64).toNat ≤ 7 ∧
    (let m := mbOf (uA.readMs (.scratch 0 0x1040) 16); m.tarr ≠ m.tcount ∧ m.phase = 0) ∧
    (okT (uA.cardTry 1024 (uA.addr 1024 (.reg 5) .zero) (cardOf 0)) = true ∧ ((cardOf 0).apply 0 (uA.readMs (.scratch 0 0) 128)).isSome ∧
      (cardOf 0x80).crc = true ∧ sound (uA.thr 1024) (regsOf [.reg 5, .zero, .reg 2]) = true) ∧
    (match uA.kvqDesc (settWho 0 6 [] 0) 0x9800 0 with | .ok (d, s1) => !d.freed && okX (s1.unitStore (settWho 0 6 [] 0) 0x9814 (leBytes 4 (d.pin + 1).toNat) true) | _ => false) =
      true := by decide +kernel
/-- Of RingTakes and RingMarks: a free slot and none, a published slot and none, a slot start, an address that is none, a slot that is claimed and
one that is not. -/
theorem witness_Rings : (kget uA.rings 3).any (fun r => decide ((r.tail - r.rel).toNat < 2 ^ r.cfg.logn) && r.head == r.pub && decide ((0 - r.pub).toNat < (r.tail - r.pub).toNat) &&
      !r.posted.contains 0 && slotOf r 0 == 0xE000 && slotOf r 7 == 0xE380 && decide ((r.tail - r.pub).toNat ≤ 2 ^ r.cfg.logn)) = true ∧
    (kget uA.rings 4).any (fun r => r.head != r.pub) = true ∧ (kget uA.rings 5).any (fun r => r.head == r.pub && decide ((0 - r.rel).toNat < (r.head - r.rel).toNat)) = true ∧
    (let r : Ring := { part := 0, cfg := { base := 0xE000, deadline := true, ssize := 1, logn := 3 }, tail := 8, pub := 0, head := 0, rel := 0, posted := [],
                       freed := [], postClk := [], freeClk := [] }; 2 ^ r.cfg.logn ≤ (r.tail - r.rel).toNat) ∧
    (uA.plainA 1024 (.reg 6) = 0xE000 ∧ uA.plainA 1024 (.reg 7) = 0x9000) := by decide +kernel
/-- Of SrReadsBack and SrRefuses: a value that a layout takes, and one that it does not, in the only active thread. -/
theorem witness_Registers : (srWritable 0x01 = true ∧ srTakes 0x01 6 = true ∧ srTakes 0x01 7 = false ∧ (kget sm.parts (sm.partOf (keyTm 0))).isSome) ∧
    met mE .both false p = true ∧ met (inH lastE) .both true q1 = true ∧ (inH lastE).activeOf { at_ .e with pc := 0x1014, next := 0x1018, last := true } q1 = [] ++ [0] ∧
    (match (inH lastE).readSrcs 0 [(.int64, .imm 23)] ((inH lastE).rd 0) with | .ok ([v], _) => v == 7 | _ => false) = true := by decide +kernel

end Sys2Proof.Tests
end

section
/-! Every step keeps memory in canonical form. Bytes of memory change by `writeByte` alone, which keeps the form (`State.writeByte_wf`),
and where power goes, which leaves out entries. What follows goes through the operations of the model in the order of their
definitions and says of each that it hands on a memory in canonical form. -/

namespace Sys2Proof.Machine

/-- The memory of a state is in canonical form. -/
def State.Canon (s : State) : Prop := Memory.wf s.mem = true

/-- So is the memory of the next state, where an outcome has one. -/
def Out.Canon (o : Out) : Prop :=
  match o with
  | .next t => t.Canon
  | _ => True

/-- A property of the value of an attempt, where it succeeds. -/
def Try.All {α : Type} (P : α → Prop) (x : Try α) : Prop :=
  match x with
  | .ok v => P v
  | _ => True

/-- A property of the value of a computation, where it is no error. -/
def OkAll {ε α : Type} (P : α → Prop) (x : Except ε α) : Prop :=
  match x with
  | .ok v => P v
  | .error _ => True

/-- A value together with a state whose memory is in canonical form. -/
def Carries {α : Type} (v : α × State) : Prop := v.2.Canon

section Shapes
variable {α β ε : Type} {P : α → Prop} {Q : β → Prop} {s t : State}

theorem State.Canon.of_mem (h : s.Canon) (e : t.mem = s.mem) : t.Canon := by
  unfold State.Canon
  rw [e]
  exact h

theorem OnlyMoves.canon (m : OnlyMoves s t) (h : s.Canon) : t.Canon := h.of_mem m.mem

theorem ite_canon {c : Prop} [Decidable c] (hs : s.Canon) (ht : t.Canon) : (if c then s else t).Canon := by
  split
  · exact hs
  · exact ht

theorem Out.ite_canon {c : Prop} [Decidable c] {o o' : Out} (h : Out.Canon o) (h' : Out.Canon o') : Out.Canon (if c then o else o') := by
  split
  · exact h
  · exact h'

theorem foldl_canon {f : State → α → State} (hf : ∀ s a, s.Canon → (f s a).Canon) {l : List α} (h : s.Canon) : (l.foldl f s).Canon := by
  induction l generalizing s with
  | nil => exact h
  | cons a t ih => exact ih (hf s a h)

/-- A fold that hands on a state beside what it gathers. -/
theorem foldl_carries {f : α × State → β → α × State} (hf : ∀ r b, Carries r → Carries (f r b)) {l : List β} {r : α × State}
    (h : Carries r) : Carries (l.foldl f r) := by
  induction l generalizing r with
  | nil => exact h
  | cons b t ih => exact ih (hf r b h)

theorem OkAll.of_ok {x : Except ε α} {v : α} (h : OkAll P x) (e : x = .ok v) : P v := by
  subst e
  exact h

theorem OkAll.carried {x : Except ε (α × State)} {v : α} (h : OkAll Carries x) (e : x = .ok (v, s)) : s.Canon := h.of_ok e

theorem Try.All.of_ok {x : Try α} {v : α} (h : x.All P) (e : x = .ok v) : P v := by
  subst e
  exact h

theorem Carries.of_eq {x : α × State} {v : α} (h : Carries x) (e : x = (v, s)) : s.Canon := by
  subst e
  exact h

/-- An attempt that goes on with the value of another. -/
theorem tryThen_all {x : Try α} {f : α → Try β} (hx : x.All P) (hf : ∀ v, P v → (f v).All Q) : (tryThen x f).All Q := by
  cases x with
  | ok v => exact hf v hx
  | _ => trivial

/-- The same where the value of the first matters nothing. -/
theorem tryThen_any {x : Try α} {f : α → Try β} (hf : ∀ v, (f v).All Q) : (tryThen x f).All Q := by
  cases x with
  | ok v => exact hf v
  | _ => trivial

theorem lateLine_all {k : Nat} {x : Try α} (h : x.All P) : (s.lateLine k x).All P := by
  unfold State.lateLine
  split
  · unfold State.orLate
    split <;> trivial
  · exact h

end Shapes

section Memory
variable {s : State} {l : Loc} {bs : List Byte} {by_ : Option Nat} {ws : List Nat} {tag : Option RelTag} {tm k n c core : Nat} {r : Res}
  {o : BitVec 3} {mask : BitVec 5}

theorem modThr_canon {f : Thread → Thread} (h : s.Canon) : (s.modThr k f).Canon := h
theorem modPair_canon {f : Pair → Pair} (h : s.Canon) : (s.modPair k f).Canon := h
theorem modGrp_canon {f : Group → Group} (h : s.Canon) : (s.modGrp k f).Canon := h
theorem modTeam_canon {f : Team → Team} (h : s.Canon) : (s.modTeam k f).Canon := h
theorem modTask_canon {f : Task → Task} (h : s.Canon) : (s.modTask k f).Canon := h
theorem modCore_canon {f : Core → Core} (h : s.Canon) : (s.modCore k f).Canon := h
theorem modPart_canon {f : Part → Part} (h : s.Canon) : (s.modPart k f).Canon := h
theorem telemetry_canon {rec_ : TelRec} (h : s.Canon) : (s.telemetry k rec_).Canon := h
theorem nextId_canon (h : s.Canon) : ({ s with nextId := n } : State).Canon := h
theorem ctxs_canon {m : KMap Nat} (h : s.Canon) : ({ s with ctxs := m } : State).Canon := h
theorem clusters_canon {m : KMap Cluster} (h : s.Canon) : ({ s with clusters := m } : State).Canon := h
theorem tasks_clusters_canon {m : KMap Task} {m' : KMap Cluster} (h : s.Canon) : ({ s with tasks := m, clusters := m' } : State).Canon := h
theorem cores_canon {m : KMap Core} (h : s.Canon) : ({ s with cores := m } : State).Canon := h
theorem sends_canon {l : List Send} (h : s.Canon) : ({ s with sends := l } : State).Canon := h
theorem agenda_canon {l : List Act} (h : s.Canon) : ({ s with agenda := l } : State).Canon := h
theorem rel_canon {m : KMap RelTag} (h : s.Canon) : ({ s with rel := m } : State).Canon := h
theorem markWords_canon (h : s.Canon) : (s.markWords ws tag).Canon := h
theorem writeBytes_canon (h : s.Canon) : (s.writeBytes l bs by_).Canon := State.writeBytes_wf l bs by_ h
theorem dirtyNow_canon (h : s.Canon) : (s.dirtyNow l).Canon := h.of_mem (s.dirtyNow_mem l)
theorem dirtyL2_canon (h : s.Canon) : (s.dirtyL2 l).Canon := h.of_mem (s.dirtyL2_mem l)
theorem unitWrite_canon (h : s.Canon) : (s.unitWrite l bs tag).Canon := State.unitWrite_wf l bs tag h

theorem mergeWord_canon {key : Nat} (h : s.Canon) : (s.mergeWord c key).Canon := by
  unfold State.mergeWord
  split
  · exact h
  · exact modCore_canon (dirtyNow_canon (markWords_canon (writeBytes_canon h)))

theorem mergeLines_canon (h : s.Canon) : (s.mergeLines ws).Canon :=
  foldl_canon (fun _ _ h => foldl_canon (fun _ _ h => mergeWord_canon h) h) h

theorem mergeTask_canon (h : s.Canon) : (s.mergeTask n).Canon :=
  foldl_canon (fun _ _ h => foldl_canon (fun _ _ h => mergeWord_canon h) h) h

theorem noteLeave_canon {source : Nat} {va : DWord} (h : s.Canon) : (s.noteLeave n source va).Canon := ite_canon (telemetry_canon h) h

theorem keepTlb_canon (h : s.Canon) : (s.keepTlb r).Canon := by
  unfold State.keepTlb
  split
  · exact ite_canon (mergeLines_canon h) ((mergeLines_canon h).of_mem rfl)
  · exact h

theorem record_canon {w : Who} {write strong : Bool} {ver : Option Nat} (h : s.Canon) : (s.record w ws write strong ver).Canon := h

theorem recordThr_canon {write strong : Bool} {ver : Option Nat} (h : s.Canon) : (s.recordThr k r n write strong ver).Canon :=
  modThr_canon (ite_canon (record_canon h) h)

theorem loadStep_carries (h : s.Canon) : Carries (s.loadStep k r n o mask) := by
  have h2 : ((s.keepTlb r |>.mergeLines (r.loc.words n)).recordThr k r n false (o != ordPlain) none).Canon :=
    recordThr_canon (mergeLines_canon (keepTlb_canon h))
  unfold State.loadStep
  split
  · exact modThr_canon h2
  · exact h2

theorem drainWrite_canon {e : SbEntry} (h : s.Canon) : (s.drainWrite k e).Canon := by
  obtain ⟨loc, bytes, order, mask, clk⟩ := e
  have hw {ti : Nat} {f : Task → Task} {ws : List Nat} {tag : Option RelTag} :
      (((s.modTask ti f).writeBytes loc bytes (some ti)).markWords ws tag |>.dirtyL2 loc).Canon :=
    dirtyL2_canon (markWords_canon (writeBytes_canon (modTask_canon h)))
  cases loc with
  | scratch tm off => exact ite_canon h hw
  | hbm pa => exact ite_canon (modTask_canon h) (modTask_canon hw)
  | host pa => exact ite_canon h (modThr_canon (nextId_canon hw))

theorem storeStep_canon (h : s.Canon) : (s.storeStep k r bs o mask).Canon :=
  ite_canon (drainWrite_canon (recordThr_canon (modTask_canon (keepTlb_canon h)))) (modThr_canon (recordThr_canon (modTask_canon (keepTlb_canon h))))

theorem drain_canon (h : s.Canon) : (s.drain k).Canon := by
  unfold State.drain
  split
  · exact h
  · exact drainWrite_canon (modThr_canon h)

theorem atomStep_carries {f : List Byte → Option (List Byte)} (h : s.Canon) : Carries (s.atomStep k r n o mask f) := by
  have h2 (w : Bool) : ((s.keepTlb r |>.mergeLines (r.loc.words n)).recordThr k r n w true none).Canon :=
    recordThr_canon (mergeLines_canon (keepTlb_canon h))
  unfold State.atomStep
  simp only
  split
  · exact ite_canon (modThr_canon (h2 _)) (h2 _)
  · exact dirtyNow_canon (markWords_canon (writeBytes_canon (ite_canon (modThr_canon (h2 _)) (h2 _))))

end Memory

end Sys2Proof.Machine
end

section
namespace Sys2Proof.Machine

/-! Groups, exceptions and the end of tasks. -/

section Groups
variable {s : State} {core tm bin n gid k t : Nat} {key : DWord} {priv : Bool} {sd : Side} {ts : List Nat}

theorem splitTo_canon {dest : Nat → Dest} {rcv : Option DWord} (h : s.Canon) : (s.splitTo gid dest rcv).Canon :=
  (splitTo_moves s gid dest rcv).canon h
theorem takeOut_canon (h : s.Canon) : (s.takeOut gid ts).Canon := (takeOut_moves s gid ts).canon h
theorem newGroup_canon {g : Group} (h : s.Canon) : (s.newGroup g).Canon := h
theorem arriveHdr_canon (h : s.Canon) : (s.arriveHdr gid n).Canon := (arriveHdr_only n s gid).moves.canon h
theorem arriveAll_canon (h : s.Canon) : (s.arriveAll tm sd).Canon := (arriveAll_only s tm sd).moves.canon h
theorem leaveRecords_canon {stack : List Nat} (h : s.Canon) : (s.leaveRecords tm sd stack ts).Canon :=
  (leaveRecords_moves s tm sd stack ts).canon h
theorem unite_canon (h : s.Canon) : (s.unite ts).Canon := (unite_only s ts).moves.canon h
theorem fusePresent_canon (h : s.Canon) : (s.fusePresent n).Canon := (dropSplit_only _ n).moves.canon (unite_canon h)
theorem retire_canon {c : Cur} (h : s.Canon) : (s.retire c).Canon := (retire_moves_only s c).canon h

theorem drawBin_canon (h : s.Canon) : (s.drawBin core bin n).Canon := by
  unfold State.drawBin
  split
  · exact h
  · exact (drawThreads_moves _ _ _ _ _).canon (modCore_canon h)

theorem drawFull_canon {tpg : Nat} (h : s.Canon) : (s.drawFull core bin tpg n).Canon := by
  induction n generalizing s with
  | zero => exact h
  | succ n ih =>
    unfold State.drawFull
    split
    · exact ite_canon (ih (drawBin_canon h)) h
    · exact h

theorem fileEntries_canon {new : List Filed} (h : s.Canon) : (s.fileEntries core tm key priv new).Canon := by
  refine drawFull_canon (modCore_canon ?_)
  split
  · exact drawBin_canon h
  · exact h

theorem fileThreads_canon (h : s.Canon) : (s.fileThreads core tm key priv ts).Canon := h

theorem flushFiling_canon (h : s.Canon) : (s.flushFiling core).Canon :=
  foldl_canon (fun _ _ h => fileEntries_canon h) (modCore_canon h)

end Groups

section Exceptions
variable {s : State} {tm n gid k t core source : Nat} {va pc hdr : DWord} {sd : Side} {ts : List Nat} {c : Cur} {act : List Nat} {p : Pfx}

theorem tcbPut_canon {off v : Nat} (h : s.Canon) : (s.tcbPut t off n v).Canon := unitWrite_canon h
theorem setState_canon {state cause side thread : Nat} (h : s.Canon) : (s.setState t state cause side thread).Canon :=
  modTask_canon (tcbPut_canon h)

theorem machineCheck_canon {array kind addr : Nat} (h : s.Canon) : (s.machineCheck n source array kind addr).Canon := h

theorem consumedAt_canon {l : Option Loc} (h : s.Canon) : (s.consumedAt n source core l va).Canon := by
  unfold State.consumedAt
  -- The walk is named, or the kernel computes it to see which case of the `match` it comes to.
  obtain ⟨cells, hcells⟩ : ∃ cells, s.walkCells va.toNat walkPlan (s.root n) = cells := ⟨_, rfl⟩
  rw [hcells]
  split
  · extract_lets found
    clear_value found
    split
    · exact machineCheck_canon h
    · exact h
  · split
    · exact machineCheck_canon h
    · exact h

theorem consumed_canon (h : s.Canon) : (s.consumed n tm source va).Canon := consumedAt_canon h

theorem consumedReg_canon (h : s.Canon) : (s.consumedReg n source k).Canon := by
  unfold State.consumedReg
  split
  · exact machineCheck_canon h
  · exact machineCheck_canon h
  · exact h

theorem discardTeam_canon (h : s.Canon) : (s.discardTeam tm).Canon := h.of_mem rfl
theorem clearRecs_canon (h : s.Canon) : (s.clearRecs t).Canon := h.of_mem rfl

theorem endTask_canon {state side thread : Nat} {cause : Cause} {pc addr : Option DWord} (h : s.Canon) :
    (s.endTask t state cause side thread pc addr).Canon := by
  have h2 (l : List Nat) : ((l.foldl (fun s n => s.discardTeam n) (s.mergeTask t)).clearRecs t).Canon :=
    clearRecs_canon (foldl_canon (fun _ _ h => discardTeam_canon h) (mergeTask_canon h))
  have h3 := setState_canon (t := t) (state := state) (cause := cause.code) (side := side) (thread := thread) (h2 ((s.mergeTask t).teamsOf t))
  unfold State.Canon State.endTask
  simp only [State.modTask_mem]
  refine tcbPut_canon (tcbPut_canon ?_)
  split
  · exact tcbPut_canon (tcbPut_canon h3)
  · exact h3

theorem endRecord_canon {cause : Cause} (h : s.Canon) : (s.endRecord tm cause).Canon := telemetry_canon h

theorem payOff_canon {x : Hit} (h : s.Canon) : (s.payOff k x).Canon := by
  unfold State.payOff
  split
  · exact h
  · exact modThr_canon h
  · exact modPair_canon h
  · exact h

theorem endGroup_canon (h : s.Canon) : (s.endGroup tm sd ts).Canon := by
  unfold State.endGroup
  exact endTask_canon (endRecord_canon h)

theorem faultRecords_canon {x : Hit} (h : s.Canon) : (s.faultRecords k x).Canon := by
  unfold State.faultRecords
  simp only
  split
  · exact h
  · exact ite_canon (consumedReg_canon h) (consumed_canon h)
  · exact noteLeave_canon h
  · exact h

theorem setRegs_canon {x : Nat → Hit} (h : s.Canon) : (s.setRegs tm sd ts pc hdr x).Canon :=
  foldl_canon (fun _ _ h => faultRecords_canon (payOff_canon (modThr_canon h))) h

theorem vectorRecords_canon {cs : List Cause} (h : s.Canon) : (s.vectorRecords tm sd cs).Canon :=
  foldl_canon (fun _ _ h => ite_canon (consumed_canon h) (noteLeave_canon h)) h

theorem raise_canon {x : Nat → Hit} (h : s.Canon) : (s.raise gid pc hdr ts x).Canon := by
  have h1 : (s.setRegs (s.grp gid).tm (s.grp gid).side ts pc hdr x).Canon := setRegs_canon h
  unfold State.raise
  refine ite_canon (endGroup_canon h1) (ite_canon (endGroup_canon h1) (ite_canon ?_ ?_))
  · exact endGroup_canon (foldl_canon (fun _ _ h => modThr_canon h) (vectorRecords_canon h1))
  · split
    · exact splitTo_canon (vectorRecords_canon h1)
    · exact endGroup_canon (foldl_canon (fun _ _ h => telemetry_canon h) (vectorRecords_canon h1))

theorem raiseAll_canon {cause : Cause} {faddr : DWord} (h : s.Canon) : Out.Canon (s.raiseAll c ts cause faddr) := raise_canon h

theorem modSince_canon {q : Nat → Bool} {f : Timer → Timer} (h : s.Canon) : (s.modSince tm q f).Canon := h

theorem allStop_canon {x : Hit} (h : s.Canon) : (s.allStop c ts x).Canon :=
  modTeam_canon (modGrp_canon (foldl_canon (fun _ _ h => modThr_canon h) (modSince_canon h)))

theorem breakTo_canon {x : Hit} (h : s.Canon) : (s.breakTo c ts x).Canon := ite_canon (allStop_canon h) (raise_canon h)

end Exceptions

/-! What the shared operations of every instruction come to. -/

section Issue
variable {α : Type} {s : State} {tm n gid k t core : Nat} {sd : Side} {ts : List Nat} {c : Cur} {act : List Nat} {p : Pfx} {o : Out}
  {need : SideReq} {priv : Bool} {ok : State → Cur → Bool} {z : Thread → Thread} {zs : Side → Thread → Thread} {body : Cur → List Nat → Out}

theorem completed_canon (h : s.Canon) : (s.completed tm sd ts priv).Canon := foldl_canon (fun _ _ h => modThr_canon h) h

theorem fallOr_canon (h : s.Canon) (ho : Out.Canon o) : Out.Canon (s.fallOr c o) := Out.ite_canon (raiseAll_canon h) ho

theorem zeroDst_canon (h : s.Canon) : (s.zeroDst c act p z).Canon := ite_canon (foldl_canon (fun _ _ h => modThr_canon h) h) h

theorem checked_canon {idle : State → Cur → State} (h : s.Canon) (hi : ∀ c, (idle s c).Canon) (hb : ∀ c act, Out.Canon (body c act)) :
    Out.Canon (checked need priv p ok idle s body) := by
  unfold checked
  split
  · trivial
  · split
    · trivial
    · exact Out.ite_canon (fallOr_canon h (retire_canon (ite_canon h (hi _)))) (Out.ite_canon (raiseAll_canon h)
        (Out.ite_canon (raiseAll_canon h) (Out.ite_canon (raiseAll_canon h) (hb _ _))))

theorem withCur_canon (h : s.Canon) (hb : ∀ c act, Out.Canon (body c act)) : Out.Canon (withCur need priv p ok s body) :=
  checked_canon h (fun _ => h) hb

theorem withIssue_canon (h : s.Canon) (hb : ∀ c act, Out.Canon (body c act)) : Out.Canon (withIssue need priv p ok s body) :=
  withCur_canon h fun _ _ => fallOr_canon h (hb _ _)

theorem withDst_canon (h : s.Canon) (hb : ∀ c act, Out.Canon (body c act)) : Out.Canon (withDst need priv p ok zs s body) :=
  checked_canon h (fun _ => zeroDst_canon h) fun _ _ => fallOr_canon h (hb _ _)

theorem putLane_canon {l : Lane} (h : s.Canon) : (s.putLane k l).Canon := modPair_canon (modThr_canon h)

theorem parkAll_canon {w : List (Nat × Cond)} (h : s.Canon) : (s.parkAll c act w).Canon :=
  foldl_canon (fun _ _ h => modThr_canon h) (foldl_canon (fun _ _ h => modThr_canon h) h)

theorem settle_canon {rs : List (Nat × Try α)} (h : s.Canon) (ho : Out.Canon o) : Out.Canon (s.settle c act rs o) :=
  Out.ite_canon (raise_canon h) (Out.ite_canon (parkAll_canon h) (Out.ite_canon (raise_canon h) (Out.ite_canon (parkAll_canon h) ho)))

theorem runLanes_canon {f : Nat → Try Lane} (h : s.Canon) : Out.Canon (s.runLanes c act p z f) := by
  refine settle_canon h (retire_canon (zeroDst_canon (foldl_canon (fun s e h => ?_) h)))
  split
  · exact putLane_canon h
  · exact h

theorem seqTry_carries {f : State → Nat → Try State} (hf : ∀ s k, s.Canon → (f s k).All State.Canon) (h : s.Canon) :
    Carries (s.seqTry c ts f) := by
  induction ts generalizing s with
  | nil => exact h
  | cons t rest ih =>
    unfold State.seqTry
    refine ih ?_
    split
    · exact (hf _ _ h).of_ok ‹_›
    · exact h

theorem runSeq_canon {f : State → Nat → Try State} (hf : ∀ s k, s.Canon → (f s k).All State.Canon) (h : s.Canon) :
    Out.Canon (s.runSeq c act p z f) :=
  settle_canon h (retire_canon (zeroDst_canon (seqTry_carries hf h)))

theorem seqSteps_canon {f : State → Nat → Try State} (hf : ∀ s k, s.Canon → (f s k).All State.Canon) (h : s.Canon) :
    (s.seqSteps c ts f).2.2.Canon := by
  induction ts generalizing s with
  | nil => exact h
  | cons t rest ih =>
    unfold State.seqSteps
    split
    · exact ih ((hf _ _ h).of_ok ‹_›)
    · exact h

theorem runSteps_canon {check : Nat → Try Unit} {f : State → Nat → Try State} (hf : ∀ s k, s.Canon → (f s k).All State.Canon)
    (h : s.Canon) : Out.Canon (s.runSteps c act p z check f) := by
  have h1 : (s.seqSteps c act f).2.2.Canon := seqSteps_canon hf h
  unfold State.runSteps
  refine settle_canon h ?_
  split
  · exact retire_canon (zeroDst_canon h1)
  · split
    · exact raise_canon h1
    · split
      · exact arriveAll_canon (splitTo_canon (parkAll_canon (completed_canon (zeroDst_canon h1))))
      · exact h1

theorem enter_canon (h : s.Canon) :
    match s.enter gid with
    | .ok t => t.Canon
    | .error t => t.Canon := by
  unfold State.enter
  simp only
  cases s.header (s.grp gid).tm (s.grp gid).hdr with
  | error x => exact raise_canon h
  | ok x => exact ite_canon (modGrp_canon h) (foldl_canon (fun _ _ h => modThr_canon h) (modGrp_canon h))

theorem noteIssue_canon (h : s.Canon) : (s.noteIssue gid).Canon := modCore_canon (modGrp_canon h)

end Issue
end Sys2Proof.Machine
end

section
namespace Sys2Proof.Machine

/-! Instructions that read operands and write registers, control transfer and barriers, then the queues of a pair. -/

section Control
variable {s : State} {tm n gid k t core nb : Nat} {sd : Side} {ts : List Nat} {c : Cur} {act : List Nat} {p : Pfx} {d : BitVec 7}
  {need : SideReq} {priv : Bool} {ok : State → Cur → Bool} {zs : Side → Thread → Thread} {srcs : Side → List (OTy × Src)}

theorem valueOp_canon {f : State → Nat → List DWord → Thread → Try Thread} (h : s.Canon) : Out.Canon (valueOp need p srcs ok zs f s) :=
  withDst_canon h fun _ _ => runLanes_canon h

theorem crossOp_canon {l : List (OTy × Src)} {b : Bool} {f : Offers → Nat → List DWord → Thread → Thread} (h : s.Canon) :
    Out.Canon (crossOp p d l b f s) :=
  withDst_canon h fun _ _ => runLanes_canon h

theorem readThen_all {l : List (OTy × Src)} {f : State → Nat → List DWord → Try State}
    (hf : ∀ s k vs, s.Canon → (f s k vs).All State.Canon) (h : s.Canon) : (readThen l f s k).All State.Canon :=
  tryThen_any fun _ => hf _ _ _ (putLane_canon h)

theorem seqOp_canon {f : State → Nat → List DWord → Try State} (hf : ∀ s k vs, s.Canon → (f s k vs).All State.Canon) (h : s.Canon) :
    Out.Canon (seqOp need priv p srcs ok zs f s) :=
  withDst_canon h fun _ _ => runSeq_canon (fun _ _ h => readThen_all hf h) h

theorem scatter_canon {dest : Nat → Dest} (h : s.Canon) : (s.scatter c dest).Canon := arriveAll_canon (splitTo_canon h)

theorem moveAll_canon {wish : Nat → Wish} {upd : Thread → Thread} (h : s.Canon) : Out.Canon (s.moveAll c wish upd) :=
  Out.ite_canon (raise_canon h) (Out.ite_canon (raiseAll_canon h)
    (scatter_canon (foldl_canon (fun _ _ h => modThr_canon h) (completed_canon h))))

theorem branchOp_canon {off : BitVec 16} {taken : Thread → Bool} (h : s.Canon) : Out.Canon (branchOp off taken s) :=
  withCur_canon h fun _ _ => moveAll_canon h

theorem execCall_canon {off : BitVec 16} (h : s.Canon) : Out.Canon (execCall off s) := withCur_canon h fun _ _ => moveAll_canon h
theorem execRet_canon (h : s.Canon) : Out.Canon (execRet s) := withCur_canon h fun _ _ => moveAll_canon h
theorem execBrx_canon {a : Src} (h : s.Canon) : Out.Canon (execBrx a s) := withCur_canon h fun _ _ => moveAll_canon h
theorem execNop_canon (h : s.Canon) : Out.Canon (execNop s) := withIssue_canon h fun _ _ => retire_canon h
theorem execYield_canon (h : s.Canon) : Out.Canon (execYield s) := withIssue_canon h fun _ _ => modGrp_canon (retire_canon h)
theorem execBrk_canon (h : s.Canon) : Out.Canon (execBrk s) := withCur_canon h fun _ _ => breakTo_canon h
theorem execTrap_canon {b : BitVec 3} (h : s.Canon) : Out.Canon (execTrap b s) := withCur_canon h fun _ _ => raiseAll_canon h

theorem skipPops_canon (h : s.Canon) : (s.skipPops k).Canon := by
  unfold State.skipPops
  refine ite_canon h ?_
  extract_lets n
  split
  · exact h
  · split
    · exact ite_canon (putLane_canon h) h
    · exact h

theorem onPlace_canon {f : Queue → Queue} (h : s.Canon) : (s.onPlace k f).Canon := by
  unfold State.onPlace
  split
  · exact modPair_canon h
  · exact h

theorem leaveHandler_canon {skip : Bool} (h : s.Canon) : (s.leaveHandler k skip).Canon :=
  modThr_canon (ite_canon (onPlace_canon (skipPops_canon h)) (onPlace_canon h))

theorem rfhOp_canon {skip : Bool} (h : s.Canon) : Out.Canon (rfhOp p skip s) :=
  withCur_canon h fun _ _ => Out.ite_canon (raise_canon h) (Out.ite_canon (raiseAll_canon h)
    (scatter_canon (foldl_canon (fun _ _ h => leaveHandler_canon h) (completed_canon h))))

theorem execRfhEnd_canon (h : s.Canon) : Out.Canon (execRfhEnd p s) := withCur_canon h fun _ _ => endGroup_canon h

theorem writeS_canon {v : DWord} (h : s.Canon) : (s.writeS tm sd n v).Canon := modTeam_canon h

theorem execBallot_canon {pr : BitVec 7} (h : s.Canon) : Out.Canon (execBallot p d pr s) :=
  withIssue_canon h fun _ _ => retire_canon (writeS_canon h)

theorem smovStep_all {vs : List DWord} (h : s.Canon) : (smovStep d s k vs).All State.Canon := writeS_canon h
theorem smovHiStep_all {vs : List DWord} (h : s.Canon) : (smovHiStep d s k vs).All State.Canon := writeS_canon h

theorem writeTr_canon {v : DWord} (h : s.Canon) : (s.writeTr tm n v).Canon := modTeam_canon h

theorem tatomStep_all {tr : BitVec 4} {f : DWord → DWord → DWord → DWord} {vs : List DWord} (h : s.Canon) :
    (tatomStep d tr f s k vs).All State.Canon := modThr_canon (writeTr_canon h)

theorem execBcast_canon {a b : Src} (h : s.Canon) : Out.Canon (execBcast p d a b s) := by
  refine withDst_canon h fun c act => ?_
  have hw (s : State) (v : DWord) (h : s.Canon) :
      ((act.foldl (fun s t => s.modThr (c.key t) (setD .e false d v)) s).zeroDst c act p (setD .e false d 0) |>.retire c).Canon :=
    retire_canon (zeroDst_canon (foldl_canon (fun _ _ h => modThr_canon h) h))
  extract_lets write fin lane
  split
  · exact hw _ _ h
  · refine settle_canon h ?_
    split
    · exact hw _ _ (putLane_canon h)
    · exact h

theorem modMask_canon {f : JMask → JMask} (h : s.Canon) : (s.modMask tm n f).Canon := modTeam_canon h

theorem execEnrol_canon {j : BitVec 4} (h : s.Canon) : Out.Canon (execEnrol p j s) :=
  withIssue_canon h fun _ _ => retire_canon (modMask_canon h)
theorem execStrike_canon {j : BitVec 4} (h : s.Canon) : Out.Canon (execStrike p j s) :=
  withIssue_canon h fun _ _ => retire_canon (modMask_canon h)

theorem execJoin_canon {j : BitVec 4} (h : s.Canon) : Out.Canon (execJoin p j s) := by
  refine withIssue_canon h fun c act => leaveRecords_canon (modGrp_canon ?_)
  have h2 (l : List Nat) {s : State} (h : s.Canon) : (l.foldl (fun s t => s.modThr (c.key t) (fun th => { th with park := .joined j.toNat })) s).Canon :=
    foldl_canon (fun _ _ h => modThr_canon h) h
  exact ite_canon (h2 _ (completed_canon (modMask_canon h))) (newGroup_canon (takeOut_canon (h2 _ (completed_canon (modMask_canon h)))))

theorem jmaskTry_all {b : Src} {set : BitVec 1024} (h : s.Canon) : (jmaskTry d b set c act s k).All State.Canon := by
  unfold jmaskTry
  split
  · refine tryThen_any fun v => ?_
    simp only
    split
    · trivial
    · exact writeS_canon (putLane_canon h)
  · exact writeS_canon h

theorem jmaskOp_canon {j : BitVec 4} {b : Src} {arr : Bool} (h : s.Canon) : Out.Canon (jmaskOp p d j b arr s) :=
  checked_canon h (fun _ => ite_canon (writeS_canon h) h) fun _ _ =>
    fallOr_canon h (settle_canon h (retire_canon (seqTry_carries (fun _ _ h => jmaskTry_all h) h)))

theorem execReform_canon (h : s.Canon) : Out.Canon (execReform p s) :=
  withIssue_canon h fun _ _ => fileThreads_canon (leaveRecords_canon (modGrp_canon (takeOut_canon (completed_canon h))))

theorem modBar_canon {f : Barrier → Barrier} (h : s.Canon) : (s.modBar tm sd n f).Canon := ite_canon (h.of_mem rfl) (modTeam_canon h)

theorem parkPhase_canon {ph : Word} (h : s.Canon) : (s.parkPhase c act nb ph).Canon := by
  have h1 : (act.foldl (fun s t => s.modThr (c.key t) (fun th => { th with park := .phase nb ph }))
      (s.completed c.tm c.side (s.grp c.gid).members (s.grp c.gid).priv)).Canon :=
    foldl_canon (fun _ _ h => modThr_canon h) (completed_canon h)
  exact arriveHdr_canon (modGrp_canon (ite_canon h1 (newGroup_canon (takeOut_canon h1))))

theorem arriveOp_canon {wait : Bool} {b4 : BitVec 4} {b : Src} (h : s.Canon) : Out.Canon (arriveOp wait p b4 b s) := by
  refine withIssue_canon h fun c act => settle_canon h (Out.ite_canon (raise_canon h) ?_)
  have h1 (l : List (Nat × Try (Rd × Nat))) : (l.foldl (fun s e => match e.2 with
      | .ok (rd, _) => s.putLane (c.key e.1) { th := { s.thr (c.key e.1) with clk := rd.clk }, p := rd.p }
      | _ => s) s).Canon := foldl_canon (fun s e h => by
    split
    · exact putLane_canon h
    · exact h) h
  exact ite_canon (parkPhase_canon (modBar_canon (h1 _))) (retire_canon (modBar_canon (h1 _)))

theorem execBwait_canon {b4 : BitVec 4} (h : s.Canon) : Out.Canon (execBwait p b4 s) := withIssue_canon h fun _ _ => parkPhase_canon h

theorem resumePend_canon (h : s.Canon) : (s.resumePend tm ts).Canon :=
  arriveAll_canon (foldl_canon (fun _ _ h => splitTo_canon (completed_canon h)) h)

theorem exitOne_canon (h : s.Canon) : (s.exitOne k).Canon := by
  refine modPair_canon (modBar_canon (modBar_canon ?_))
  split
  · exact modTeam_canon (modThr_canon h)
  · exact modThr_canon h

theorem retireTeam_canon (h : s.Canon) : (s.retireTeam tm).Canon := ite_canon (h.of_mem rfl) h

theorem execExit_canon (h : s.Canon) : Out.Canon (execExit s) :=
  withCur_canon h fun _ _ => settle_canon h
    (retireTeam_canon (resumePend_canon (leaveRecords_canon (takeOut_canon (foldl_canon (fun _ _ h => exitOne_canon h) h)))))

end Control

section Queues
variable {s : State} {k : Nat} {c : Cur} {act : List Nat} {p : Pfx} {d : BitVec 7} {a b : Src} {q : BitVec 4} {need : SideReq} {tag : Bool}

theorem sendOp_canon {push : Pair → Word → Bool → Clock → Try Pair} (h : s.Canon) : Out.Canon (sendOp p d a push s) :=
  withIssue_canon h fun _ _ => runLanes_canon h
theorem qstatOp_canon (h : s.Canon) : Out.Canon (qstatOp need p d q s) := withDst_canon h fun _ _ => runLanes_canon h
theorem flushOp_canon (h : s.Canon) : Out.Canon (flushOp need p q s) :=
  withIssue_canon h fun _ _ => resumePend_canon (retire_canon (foldl_canon (fun _ _ h => modPair_canon h) h))
theorem execQend_canon (h : s.Canon) : Out.Canon (execQend p d q s) := withDst_canon h fun _ _ => runLanes_canon h
theorem feedOp_canon (h : s.Canon) : Out.Canon (feedOp tag p d a s) := withIssue_canon h fun _ _ => runLanes_canon h
theorem execRecvx_canon {q : BitVec 2} (h : s.Canon) : Out.Canon (execRecvx p d q s) := withDst_canon h fun _ _ => runLanes_canon h
theorem execFadv_canon (h : s.Canon) : Out.Canon (execFadv p d q b s) := withIssue_canon h fun _ _ => runLanes_canon h
theorem execFend_canon (h : s.Canon) : Out.Canon (execFend p q s) := withIssue_canon h fun _ _ => runLanes_canon h
theorem execFclose_canon (h : s.Canon) : Out.Canon (execFclose p q s) := withIssue_canon h fun _ _ => runLanes_canon h
theorem execFence_canon (h : s.Canon) : Out.Canon (execFence p s) := withIssue_canon h fun _ _ => runLanes_canon h
theorem execTchk_canon {t : BitVec 6} (h : s.Canon) : Out.Canon (execTchk p d t s) := withDst_canon h fun _ _ => runLanes_canon h
theorem execNfence_canon (h : s.Canon) : Out.Canon (execNfence p s) := withIssue_canon h fun _ _ => runLanes_canon h

end Queues
end Sys2Proof.Machine
end

section
namespace Sys2Proof.Machine

/-! Loads, stores and atomics, then home operations and rings. -/

section LoadStore
variable {α : Type} {s : State} {tm n gid k t core : Nat} {c : Cur} {act : List Nat} {p : Pfx} {d : BitVec 7} {a b : Src} {x : PushArgs}
  {va : DWord} {o : BitVec 3} {mask : BitVec 5}

theorem fopenTry_all (h : s.Canon) : (fopenTry p d a b s k).All State.Canon := by
  unfold fopenTry
  simp only
  split
  · trivial
  · refine tryThen_any fun _ => lateLine_all (tryThen_any fun r => ?_)
    have h1 : Carries (s.loadStep k r 16 p.order p.obs) := loadStep_carries h
    split
    · trivial
    · split
      · trivial
      · exact modPair_canon h1

theorem execFopen_canon (h : s.Canon) : Out.Canon (execFopen p d a b s) :=
  withIssue_canon h fun _ _ => runSeq_canon (fun _ _ h => fopenTry_all h) h

theorem streamLoad_canon {x : Stream} {l : List Place} {stop : Bool} {s' : State} (h : s.Canon)
    (e : s.streamLoad k x va = some (l, stop, s')) : s'.Canon := by
  unfold State.streamLoad at e
  simp only at e
  split at e
  · obtain ⟨-, -, rfl⟩ := by simpa using e
    exact loadStep_carries h
  · obtain ⟨-, -, rfl⟩ := by simpa using e
    exact h
  · obtain ⟨-, -, rfl⟩ := by simpa using e
    exact h
  · cases e

theorem execStreamElement_canon {tid q : Nat} (h : s.Canon) : Out.Canon (execStreamElement tm tid q s) := by
  unfold execStreamElement
  refine Out.ite_canon trivial ?_
  split
  · trivial
  · refine Out.ite_canon trivial (Out.ite_canon (Out.ite_canon (modPair_canon h) (Out.ite_canon (modPair_canon h) trivial)) ?_)
    split
    · split
      · trivial
      · exact modPair_canon (streamLoad_canon h ‹_›)
    · refine Out.ite_canon (Out.ite_canon trivial ?_) (Out.ite_canon (modPair_canon h) trivial)
      split
      · trivial
      · exact modPair_canon (streamLoad_canon h ‹_›)

theorem loadTry_all {sg : Bool} (h : s.Canon) : (loadTry n sg p d a b s k).All State.Canon :=
  tryThen_any fun _ => lateLine_all (tryThen_any fun _ => modThr_canon (loadStep_carries h))

theorem loadOp_canon {sg : Bool} (h : s.Canon) : Out.Canon (loadOp n sg p d a b s) :=
  withDst_canon h fun _ _ => runSeq_canon (fun _ _ h => loadTry_all h) h

theorem launch_canon {q : Nat} {push : Push} {cargo : Cargo} (h : s.Canon) : (s.launch c k q n push cargo).Canon := by
  refine modPair_canon (nextId_canon ?_)
  split
  · exact modThr_canon h
  · exact h

theorem heldCargo_all {x : Try (List Byte × State)} (h : s.Canon) (hx : x.All Carries) : (s.heldCargo x).All Carries := by
  unfold State.heldCargo
  split
  · exact hx
  · exact h
  · exact h
  · exact h
  all_goals trivial

theorem cargoOf_all (h : s.Canon) : (s.cargoOf k va n o mask).All Carries :=
  heldCargo_all h (tryThen_any fun _ => loadStep_carries h)

theorem parkFlights_canon (h : s.Canon) : (s.parkFlights c act).Canon := foldl_canon (fun s t h => by
  split
  · exact modThr_canon h
  · exact h) h

theorem pushLoad_all {cargo : State → Nat → Try (Cargo × State)} (hc : ∀ s k, s.Canon → (cargo s k).All Carries) (h : s.Canon) :
    (State.pushLoad c x cargo s k).All State.Canon := by
  refine tryThen_any fun _ => tryThen_any fun push => ?_
  split
  · exact h
  · exact modPair_canon h
  · exact tryThen_all (hc s k h) fun _ h1 => launch_canon h1

theorem holdPlaces_canon (h : s.Canon) : (s.holdPlaces c act x).Canon := foldl_canon (fun s t h => by
  simp only
  split
  · exact launch_canon h
  · exact launch_canon h
  · exact h) h

theorem releasePlaces_canon (h : s.Canon) : (s.releasePlaces c act n).Canon := foldl_canon (fun s t h => by
  split
  · exact modPair_canon h
  · exact h) h

theorem runPush_canon {cargo : State → Nat → Try (Cargo × State)} (hc : ∀ s k, s.Canon → (cargo s k).All Carries) (h : s.Canon) :
    Out.Canon (s.runPush c act x cargo) :=
  Out.ite_canon (raise_canon (releasePlaces_canon h))
    (settle_canon (ite_canon (releasePlaces_canon h) (ite_canon (holdPlaces_canon h) h))
      (parkFlights_canon (retire_canon (seqTry_carries (fun _ _ h => pushLoad_all hc h) h))))

theorem ldqOp_canon (h : s.Canon) : Out.Canon (ldqOp n p d a b s) :=
  withIssue_canon h fun _ _ => runPush_canon (fun _ _ h => cargoOf_all h) h

theorem storeTry_all (h : s.Canon) : (storeTry n p d a b s k).All State.Canon :=
  tryThen_any fun _ => lateLine_all (tryThen_any fun _ => storeStep_canon h)

theorem storeOp_canon (h : s.Canon) : Out.Canon (storeOp n p d a b s) :=
  withIssue_canon h fun _ _ => runSeq_canon (fun _ _ h => storeTry_all h) h

theorem staTry_all (h : s.Canon) : (staTry n p d a b s k).All State.Canon :=
  tryThen_any fun _ => tryThen_any fun _ => lateLine_all (tryThen_any fun _ => storeStep_canon (putLane_canon h))

theorem staOp_canon (h : s.Canon) : Out.Canon (staOp n p d a b s) :=
  withIssue_canon h fun _ _ => runSeq_canon (fun _ _ h => staTry_all h) h

theorem atomTry_all {w sg : Bool} {d : BitVec 5} {f : Thread → Nat → Nat} (h : s.Canon) : (atomTry p w d a b sg f s k).All State.Canon := by
  refine tryThen_any fun r => ?_
  split
  exact modThr_canon ((atomStep_carries h).of_eq ‹_›)

theorem atomOp_canon {w pair sg : Bool} {d : BitVec 5} {f : Thread → Nat → Nat} (h : s.Canon) : Out.Canon (atomOp p w d a b pair sg f s) :=
  withDst_canon h fun _ _ => runSteps_canon (fun _ _ h => atomTry_all h) h

theorem credStep_canon {form : Nat} {r : Res} {v : DWord} (h : s.Canon) : (s.credStep k form r v o mask).Canon := by
  have h1 : ((s.keepTlb r).recordThr k r (credBytes form) true true none).Canon := recordThr_canon (keepTlb_canon h)
  unfold State.credStep
  extract_lets n s1 tag
  split
  · exact markWords_canon (writeBytes_canon h1)
  · exact modCore_canon (foldl_canon (fun _ _ h => mergeWord_canon h) h1)

theorem credTry_all {form : Nat} (h : s.Canon) : (credTry form p d a b s k).All State.Canon :=
  tryThen_any fun _ => lateLine_all (tryThen_any fun _ => credStep_canon h)

theorem credOp_canon {form : Nat} (h : s.Canon) : Out.Canon (credOp form p d a b s) :=
  withIssue_canon h fun _ _ => runSeq_canon (fun _ _ h => credTry_all h) h

theorem prefTry_all (h : s.Canon) : (prefTry p a b s k).All State.Canon := by
  refine tryThen_any fun _ => ?_
  change State.Canon _
  split
  · exact keepTlb_canon h
  · exact h

theorem execPref_canon (h : s.Canon) : Out.Canon (execPref p a b s) :=
  withIssue_canon h fun _ _ => runSeq_canon (fun _ _ h => prefTry_all h) h

theorem giveTile_canon {clk : Clock} (h : s.Canon) : (s.giveTile tm t clk).Canon := modTeam_canon h

theorem execTgive_canon {t : BitVec 6} (h : s.Canon) : Out.Canon (execTgive p t s) :=
  withIssue_canon h fun _ _ => settle_canon h (retire_canon (giveTile_canon h))

theorem execTclaim_canon {t : BitVec 6} (h : s.Canon) : Out.Canon (execTclaim p t s) :=
  withIssue_canon h fun _ _ => settle_canon h (retire_canon (modTeam_canon (foldl_canon (fun _ _ h => modThr_canon h) h)))

end LoadStore

section Rings
variable {α : Type} {s : State} {k n id : Nat} {p : Pfx} {d : BitVec 7} {a b : Src} {vs : List DWord} {r : Ring} {z : Thread → Thread}
  {srcs : List (OTy × Src)} {ok : State → Cur → Bool} {check : State → Nat → List DWord → Try α}

theorem homeTry_all {f : State → Nat → List DWord → α → Try State} (hf : ∀ s k vs x, s.Canon → (f s k vs x).All State.Canon) (h : s.Canon) :
    (homeTry srcs check f s k).All State.Canon :=
  tryThen_any fun _ => tryThen_any fun _ => hf _ _ _ _ (putLane_canon h)

theorem homeOp_canon {f : State → Nat → List DWord → α → Try State} (hf : ∀ s k vs x, s.Canon → (f s k vs x).All State.Canon)
    (h : s.Canon) : Out.Canon (homeOp p srcs ok z check f s) :=
  withDst_canon h fun _ _ => runSteps_canon (fun _ _ h => homeTry_all hf h) h

theorem kinsStep_all {t : Nat} {r : Res} (h : s.Canon) : (kinsStep p k s t vs r).All State.Canon := atomStep_carries h
theorem kgetStep_all {t : Nat} {r : Res} (h : s.Canon) : (kgetStep p d s t vs r).All State.Canon := by
  unfold kgetStep
  split
  exact modThr_canon ((atomStep_carries h).of_eq ‹_›)

theorem execKins_canon (h : s.Canon) : Out.Canon (execKins p d a b s) := homeOp_canon (fun _ _ _ _ h => kinsStep_all h) h
theorem execKget_canon (h : s.Canon) : Out.Canon (execKget p d a b s) := homeOp_canon (fun _ _ _ _ h => kgetStep_all h) h

theorem ringStep_all {slot : Option Src} {f : State → Nat → Nat → Ring → Nat → Try State} {u : Unit}
    (hf : ∀ s k id r i, s.Canon → (f s k id r i).All State.Canon) (h : s.Canon) : (ringStep slot f s k vs u).All State.Canon := by
  unfold ringStep
  split
  · exact hf _ _ _ _ _ h
  · split
    · exact hf _ _ _ _ _ h
    · trivial
  · trivial

theorem ringOp_canon {slot : Option Src} {okr : Bool} {f : State → Nat → Nat → Ring → Nat → Try State}
    (hf : ∀ s k id r i, s.Canon → (f s k id r i).All State.Canon) (h : s.Canon) : Out.Canon (ringOp p b slot okr z f s) :=
  homeOp_canon (fun _ _ _ _ h => ringStep_all hf h) h

theorem setRing_canon (h : s.Canon) : (s.setRing id r).Canon := h

theorem claimStep_all {i : Nat} (h : s.Canon) : (claimStep d s k id r i).All State.Canon := by
  unfold claimStep
  split
  · trivial
  · exact modThr_canon (setRing_canon h)

theorem postStep_all {i : Nat} (h : s.Canon) : (postStep s k id r i).All State.Canon := by
  unfold postStep
  split
  · trivial
  · split
    · trivial
    · exact setRing_canon h

theorem takeStep_all {i : Nat} (h : s.Canon) : (takeStep d s k id r i).All State.Canon := by
  unfold takeStep
  split
  · trivial
  · exact modThr_canon (setRing_canon h)

theorem freeStep_all {i : Nat} (h : s.Canon) : (freeStep s k id r i).All State.Canon := by
  unfold freeStep
  split
  · trivial
  · split
    · trivial
    · exact setRing_canon h

theorem execExpertStarved_canon {tm tid : Nat} (h : s.Canon) : Out.Canon (execExpertStarved tm tid s) := by
  unfold execExpertStarved
  refine Out.ite_canon trivial ?_
  split
  · trivial
  · exact Out.ite_canon (raise_canon h) trivial

end Rings
end Sys2Proof.Machine
end

section
namespace Sys2Proof.Machine

/-! What units read and write for a thread: copies, memory barriers and transforms. -/

section Units
variable {s : State} {w : Who} {l : List (Res × Nat)} {bs : List Byte} {strong : Bool} {va : DWord} {tm n k id source : Nat} {x : Copy}
  {r : Res} {p : Pfx} {d : BitVec 7} {a b : Src} {clk : Clock} {loc : Loc} {ls : List (Nat × Nat)} {bad : Bad}

theorem unitTake_carries (h : s.Canon) : Carries (s.unitTake w l strong) := by
  induction l generalizing s with
  | nil => exact h
  | cons e t ih => exact ih (ite_canon (record_canon (mergeLines_canon (keepTlb_canon h))) (mergeLines_canon (keepTlb_canon h)))

theorem unitPut_canon (h : s.Canon) : (s.unitPut w l bs strong).Canon := by
  induction l generalizing s bs with
  | nil => exact h
  | cons e t ih => exact ih (unitWrite_canon (ite_canon (record_canon (keepTlb_canon h)) (keepTlb_canon h)))

theorem unitRead_all (h : s.Canon) : OkAll Carries (s.unitRead w va n strong) := by
  unfold State.unitRead
  split
  · trivial
  · exact unitTake_carries h

theorem unitStore_all (h : s.Canon) : OkAll State.Canon (s.unitStore w va bs strong) := by
  unfold State.unitStore
  split
  · trivial
  · exact unitPut_canon h

theorem badRecords_canon (h : s.Canon) : (s.badRecords tm source bad).Canon := by
  unfold State.badRecords
  simp only
  split
  · exact consumed_canon h
  · exact noteLeave_canon h
  · exact h

theorem owe_canon {e : Deferred} (h : s.Canon) : (s.owe k e).Canon := ite_canon h (modThr_canon h)

theorem mbEdge_canon {old : KMap RelTag} {done : Bool} (h : s.Canon) : (s.mbEdge loc old clk done).Canon := h

theorem mbTake_canon (h : s.Canon) : (s.mbTake loc n clk).Canon := mbEdge_canon (unitWrite_canon (mergeLines_canon h))

theorem mbCount_canon (h : s.Canon) : (s.mbCount w r n).Canon := mbTake_canon (ite_canon (record_canon h) h)

theorem clearLines_canon (h : s.Canon) : (s.clearLines ls).Canon := foldl_canon (fun _ _ h => modTeam_canon h) h
theorem setLines_canon (h : s.Canon) : (s.setLines ls clk).Canon := foldl_canon (fun _ _ h => modTeam_canon h) h

theorem accept_canon (h : s.Canon) : (s.accept x).Canon := by
  unfold State.accept
  exact clearLines_canon (h.of_mem rfl)

theorem execKick_canon (h : s.Canon) : Out.Canon (execKick p d a b s) := by
  refine withIssue_canon h fun c act => settle_canon h (retire_canon (foldl_canon (fun s e h => ?_) h))
  split
  · refine foldl_canon (fun s y h => accept_canon ?_) h
    split
    · exact recordThr_canon h
    · exact h
  · exact h

theorem copyTake_carries (h : s.Canon) : Carries (s.copyTake x w l) := unitTake_carries (strong := false) h

theorem ropeRow_all (h : s.Canon) : OkAll Carries (s.ropeRow x w) := by
  unfold State.ropeRow
  split
  · trivial
  · have h1 := (unitRead_all h).carried ‹_›
    simp only
    split
    · trivial
    · split
      · trivial
      · split
        · trivial
        · have h2 := (unitRead_all h1).carried ‹_›
          split
          · trivial
          · exact (unitRead_all h2).carried ‹_›

theorem rowBytes_all (h : s.Canon) : OkAll Carries (s.rowBytes x w) := by
  unfold State.rowBytes
  split
  · split
    · trivial
    · exact (ropeRow_all h).carried ‹_›
  · split
    · trivial
    · simp only
      split
      · trivial
      · split
        · exact copyTake_carries (x := x) h
        · exact copyTake_carries (x := x) h

theorem dropCopy_canon (h : s.Canon) : (s.dropCopy id).Canon := h
theorem modCopy_canon {f : Copy → Copy} (h : s.Canon) : (s.modCopy id f).Canon := h

theorem failCopy_canon {desc : Bool} (h : s.Canon) : (s.failCopy x desc bad).Canon :=
  dropCopy_canon (owe_canon (badRecords_canon h))

theorem writeRow_canon {fl : BitVec 5} {mb : Option Res} {y : List (Res × Nat)} (h : s.Canon) : (s.writeRow x w bs fl l mb y).Canon := by
  have h3 {f : Thread → Thread} {ls : List (Nat × Nat)} {clk : Clock} {bs' : List Byte} :
      ((((s.unitPut w l bs false).setLines ls clk).modThr x.thread f).unitPut w y bs' false).Canon :=
    unitPut_canon (modThr_canon (setLines_canon (unitPut_canon h)))
  unfold State.writeRow
  extract_lets left sum w' s1 s2 s3 s4
  have h4 : s4.Canon := by
    unfold s4
    split
    · exact mbCount_canon h3
    · exact h3
  exact ite_canon (modCopy_canon h4) (dropCopy_canon h4)

theorem execCopyRow_canon (h : s.Canon) : Out.Canon (execCopyRow id s) := by
  unfold execCopyRow
  refine Out.ite_canon trivial ?_
  split
  · trivial
  · refine Out.ite_canon trivial ?_
    extract_lets clk w
    split
    · exact failCopy_canon h
    · split
      · exact failCopy_canon h
      · exact writeRow_canon ((rowBytes_all h).carried ‹_›)

theorem mbStep_canon {tell : Bool} {f : Mb → Mb} (h : s.Canon) : (s.mbStep k r tell f).Canon := by
  unfold State.mbStep
  extract_lets m
  split
  exact mbEdge_canon ((atomStep_carries h).of_eq ‹_›)

theorem mbStepTry_all {write : Bool} {f : State → Nat → Res → Try State} (hf : ∀ s k r, s.Canon → (f s k r).All State.Canon)
    (h : s.Canon) : (mbStepTry a b write f s k).All State.Canon := tryThen_any fun _ => hf _ _ _ h

theorem mbOp_canon {d : Option (BitVec 7)} {write : Bool} {first : State → Nat → DWord → Try Unit} {pre : State → Nat → Try Unit}
    {f : State → Nat → Res → Try State} (hf : ∀ s k r, s.Canon → (f s k r).All State.Canon) (h : s.Canon) :
    Out.Canon (mbOp p d a b write first pre f s) :=
  withIssue_canon h fun _ _ => runSteps_canon (fun _ _ h => mbStepTry_all hf h) h

theorem mbinitStep_all (h : s.Canon) : (mbinitStep d s k r).All State.Canon := by
  unfold mbinitStep
  exact rel_canon (mbStep_canon h)

theorem mbexpStep_all (h : s.Canon) : (mbexpStep d s k r).All State.Canon := mbStep_canon h

theorem mbarrStep_all (h : s.Canon) : (mbarrStep s k r).All State.Canon := by
  unfold mbarrStep
  simp only
  split
  · trivial
  · exact mbStep_canon h

theorem mbwaitStep_all (h : s.Canon) : (mbwaitStep d s k r).All State.Canon := by
  have h1 : (s.atomStep k r 16 ordPlain 0 (fun _ => none)).2.Canon := atomStep_carries h
  unfold mbwaitStep
  simp only
  split
  · trivial
  · exact modThr_canon h1

theorem xformTry_all (h : s.Canon) : (xformTry d a b s k).All State.Canon := by
  refine tryThen_any fun _ => lateLine_all (tryThen_any fun v => ?_)
  split
  split
  · trivial
  · exact modThr_canon (markWords_canon (writeBytes_canon (recordThr_canon (recordThr_canon h))))

theorem execXform_canon (h : s.Canon) : Out.Canon (execXform p d a b s) :=
  withIssue_canon h fun _ _ => runSeq_canon (fun _ _ h => xformTry_all h) h

end Units
end Sys2Proof.Machine
end

section
namespace Sys2Proof.Machine

/-! Transfers to and from peers, then the directory of keys. -/

section Transfers
variable {s : State} {w : Who} {l : List (Res × Nat)} {bs : List Byte} {va off : DWord} {tm tid n k q id gid part win source : Nat} {x : Send}
  {r : Res} {p : Pfx} {d : BitVec 7} {a b : Src} {bad : Bad} {ts : List Nat}

theorem ngetLoad_all (h : s.Canon) : (ngetLoad a b s k).All Carries := h

theorem execNgetB32_canon (h : s.Canon) : Out.Canon (execNgetB32 p d a b s) :=
  withIssue_canon h fun _ _ => runPush_canon (fun _ _ h => ngetLoad_all h) h

theorem startSend_canon (h : s.Canon) : (s.startSend x r).Canon := by
  unfold State.startSend
  extract_lets _ _ _ _ y s1 _ s3
  clear_value y
  have h3 : s3.Canon := modThr_canon (modPart_canon (State.Canon.of_mem (t := s1) h rfl))
  exact markWords_canon (writeBytes_canon h3)

theorem execNsend_canon (h : s.Canon) : Out.Canon (execNsend p a b s) := by
  refine withIssue_canon h fun c act => settle_canon h (retire_canon (foldl_canon (fun s e h => ?_) h))
  split
  · exact startSend_canon (recordThr_canon (recordThr_canon h))
  · exact h

theorem modSend_canon {f : Send → Send} (h : s.Canon) : (s.modSend id f).Canon := h
theorem dropSend_canon (h : s.Canon) : (s.dropSend x).Canon := h
theorem oweSend_canon (h : s.Canon) : (s.oweSend x bad).Canon := ite_canon h (owe_canon (badRecords_canon h))
theorem failSend_canon (h : s.Canon) : (s.failSend x bad).Canon := dropSend_canon (oweSend_canon h)
theorem stopSend_canon (h : s.Canon) : (s.stopSend x bad).Canon := ite_canon (modSend_canon (oweSend_canon h)) (failSend_canon h)
theorem useCredit_canon {port : Nat} (h : s.Canon) : (s.useCredit n port).Canon := ite_canon (h.of_mem rfl) (h.of_mem rfl)

theorem execNsendRow_canon (h : s.Canon) : Out.Canon (execNsendRow id s) := by
  unfold execNsendRow
  refine Out.ite_canon trivial ?_
  split
  · trivial
  · refine Out.ite_canon trivial (Out.ite_canon (stopSend_canon h) ?_)
    extract_lets u
    have hu : u.Canon := useCredit_canon h
    split
    · exact stopSend_canon hu
    · have h1 := (unitRead_all hu).carried ‹_›
      refine Out.ite_canon (modSend_canon h1) ?_
      split
      · exact stopSend_canon hu
      · have h2 := (unitRead_all h1).carried ‹_›
        split
        · exact stopSend_canon hu
        · exact modSend_canon h2

theorem execRowAck_canon (h : s.Canon) : Out.Canon (execRowAck id s) := by
  unfold execRowAck
  refine Out.ite_canon trivial ?_
  split
  · trivial
  · refine Out.ite_canon trivial ?_
    extract_lets
    split
    · extract_lets s1 s2
      have h1 : s1.Canon := unitPut_canon (unitPut_canon h)
      have h2 : s2.Canon := by
        unfold s2
        split
        · exact mbCount_canon h1
        · exact h1
      exact Out.ite_canon (modSend_canon (modPart_canon h2)) (dropSend_canon (modPart_canon h2))
    · exact failSend_canon h
    · exact failSend_canon h
    · exact failSend_canon h

theorem windowNote_canon (h : s.Canon) : (s.windowNote part win off n source).Canon := by
  unfold State.windowNote
  split
  · exact ite_canon h (foldl_canon (fun _ _ h => noteLeave_canon h) h)
  · exact h

theorem arrivePut_canon (h : s.Canon) : (s.arrivePut l bs).Canon := by
  induction l generalizing s bs with
  | nil => exact h
  | cons e t ih => exact ih (unitWrite_canon h)

theorem execRemoteRowArrival_canon {row : RemoteRow} (h : s.Canon) : Out.Canon (execRemoteRowArrival row s) := by
  unfold execRemoteRowArrival
  refine Out.ite_canon trivial (Out.ite_canon trivial ?_)
  extract_lets
  refine Out.ite_canon (h.of_mem rfl) (Out.ite_canon trivial ?_)
  extract_lets
  split
  · refine modPart_canon ?_
    split
    · exact mbTake_canon (arrivePut_canon (arrivePut_canon h))
    · exact arrivePut_canon (arrivePut_canon h)
  · exact windowNote_canon (windowNote_canon h)

theorem execRemoteRead_canon (h : s.Canon) : Out.Canon (execRemoteRead part win off s) := by
  unfold execRemoteRead
  refine Out.ite_canon trivial (Out.ite_canon trivial ?_)
  split
  · exact (mergeLines_canon (keepTlb_canon h)).of_mem rfl
  · exact windowNote_canon h

theorem answerGet_canon {f : Flight} {cg : Cargo} (h : s.Canon) : (s.answerGet k f cg).Canon := modThr_canon (modPair_canon h)

theorem execNgetResponse_canon {v : BitVec 32} (h : s.Canon) : Out.Canon (execNgetResponse tm tid q v s) := by
  unfold execNgetResponse
  refine Out.ite_canon trivial ?_
  split
  · trivial
  · exact answerGet_canon h

theorem remoteFail_canon {name : String} {cause : Cause} {need : Send → Bool} {op : RemoteOp} (h : s.Canon) :
    Out.Canon (remoteFail name cause need op s) := by
  unfold remoteFail
  refine Out.ite_canon trivial ?_
  split <;> split
  · exact Out.ite_canon (failSend_canon h) trivial
  · trivial
  · exact answerGet_canon h
  · trivial

theorem pendAll_canon (h : s.Canon) : (s.pendAll gid ts).Canon := by
  unfold State.pendAll
  refine splitTo_canon (foldl_canon (fun u t h => ?_) h)
  simp only
  split
  · exact modThr_canon (modPair_canon h)
  · exact h

theorem execTranslationComplete_canon (h : s.Canon) : Out.Canon (execTranslationComplete tm tid s) := by
  unfold execTranslationComplete
  extract_lets
  refine Out.ite_canon trivial ?_
  split
  · exact modThr_canon (modPair_canon h)
  · exact Out.ite_canon trivial (pendAll_canon h)
  · split
    · exact modThr_canon (modPair_canon h)
    · trivial

theorem execLdqFill_canon (h : s.Canon) : Out.Canon (execLdqFill tm tid q s) := by
  unfold execLdqFill
  extract_lets
  refine Out.ite_canon trivial ?_
  split
  · trivial
  · exact modPair_canon h

theorem execPendingFaultDelivery_canon (h : s.Canon) : Out.Canon (execPendingFaultDelivery tm tid s) := by
  unfold execPendingFaultDelivery
  refine Out.ite_canon trivial ?_
  split
  · exact Out.ite_canon trivial (raise_canon h)
  · trivial

end Transfers

section Keys
variable {s : State} {k n id : Nat} {va lo hi : DWord} {o : BitVec 3} {mask : BitVec 5} {bs : List Byte} {p : Pfx} {d : BitVec 7} {a b : Src}
  {vs : List DWord} {w : Who} {rope : Bool} {off : Nat}

theorem dirGet_all (h : s.Canon) : (s.dirGet k va n o mask).All Carries := tryThen_any fun _ => atomStep_carries h
theorem dirPut_all (h : s.Canon) : (s.dirPut k va bs o mask).All State.Canon := tryThen_any fun _ => atomStep_carries h

theorem dirPuts_all {l : List (DWord × List Byte)} (h : s.Canon) : (s.dirPuts k l o mask).All State.Canon := by
  induction l generalizing s with
  | nil => exact h
  | cons e t ih => exact tryThen_all (dirPut_all h) fun _ h1 => ih h1

theorem descGet_all (h : s.Canon) : (s.descGet k va o mask).All Carries := by
  refine tryThen_all (dirGet_all h) fun ⟨v, s1⟩ h1 => ?_
  simp only
  split
  · trivial
  · exact h1

theorem scan_all {fuel i : Nat} {bucket : DWord} {free : Option DWord} (h : s.Canon) :
    (s.scan k lo hi o mask fuel bucket i free).All Carries := by
  induction fuel generalizing s bucket i free with
  | zero => exact h
  | succ n ih =>
    refine tryThen_all (dirGet_all h) fun ⟨v, s1⟩ h1 => ?_
    simp only
    split
    · split
      · exact ih h1
      · exact h1
    · split
      · exact h1
      · exact ih h1

theorem find_all (h : s.Canon) : (s.find k lo hi o mask).All Carries := scan_all h

theorem kvStep_all {f : State → Nat → List DWord → Try (DWord × State)} {u : Unit} (hf : ∀ s k vs, s.Canon → (f s k vs).All Carries)
    (h : s.Canon) : (kvStep d f s k vs u).All State.Canon := tryThen_all (hf _ _ _ h) fun _ h1 => modThr_canon h1

theorem kvOp_canon {srcs : List (OTy × Src)} {okk : Bool} {named : State → Nat → List DWord → Try Unit}
    {f : State → Nat → List DWord → Try (DWord × State)} (hf : ∀ s k vs, s.Canon → (f s k vs).All Carries) (h : s.Canon) :
    Out.Canon (kvOp p d srcs okk named f s) := homeOp_canon (fun _ _ _ _ h => kvStep_all hf h) h

theorem kvlkFind_all (h : s.Canon) : (kvlkFind p a s k vs).All Carries := by
  unfold kvlkFind
  split
  · exact h
  · refine tryThen_all (find_all h) fun ⟨v, s1⟩ h1 => ?_
    simp only
    split
    · exact h1
    · exact tryThen_all (descGet_all h1) fun _ h2 => h2

theorem insertKey_all {x : Found} (h : s.Canon) : (s.insertKey k lo hi va x o mask).All Carries := by
  unfold State.insertKey
  simp only
  split
  · exact tryThen_all (dirPut_all h) fun _ h1 => h1
  · refine tryThen_all (dirGet_all h) fun ⟨v, s1⟩ h1 => ?_
    simp only
    split
    · trivial
    · exact tryThen_all (dirPuts_all h1) fun _ h2 => h2

theorem kvinsStep_all (h : s.Canon) : (kvinsStep p a s k vs).All Carries := by
  unfold kvinsStep
  split
  · trivial
  · refine tryThen_all (find_all h) fun ⟨v, s1⟩ h1 => ?_
    simp only
    split
    · exact h1
    · refine tryThen_all (descGet_all h1) fun ⟨e, s2⟩ h2 => ?_
      simp only
      split
      · trivial
      · split
        · trivial
        · exact insertKey_all h2

theorem kvdelStep_all (h : s.Canon) : (kvdelStep p a s k vs).All Carries := by
  unfold kvdelStep
  split
  · exact h
  · refine tryThen_all (find_all h) fun ⟨v, s1⟩ h1 => ?_
    simp only
    split
    · exact h1
    · exact tryThen_all (dirPut_all h1) fun _ h2 => h2

theorem kvrefStep_all (h : s.Canon) : (kvrefStep p a s k vs).All Carries := by
  unfold kvrefStep
  split
  · exact h
  · refine tryThen_all (find_all h) fun ⟨v, s1⟩ h1 => ?_
    simp only
    split
    · exact h1
    · refine tryThen_all (descGet_all h1) fun ⟨e, s2⟩ h2 => ?_
      simp only
      split
      · trivial
      · exact tryThen_all (dirPuts_all h2) fun _ h3 => h3

theorem kvposStep_all (h : s.Canon) : (kvposStep p a s k vs).All Carries :=
  tryThen_all (descGet_all h) fun _ h1 => tryThen_all (dirPuts_all h1) fun _ h2 => h2

theorem quarantine_canon {e : Desc} (h : s.Canon) : (s.quarantine w va e).Canon := by
  unfold State.quarantine
  split
  · exact (unitStore_all h).of_ok ‹_›
  · exact h

theorem pageCheck_carries {e : Desc} (h : s.Canon) : Carries (s.pageCheck w va e) := by
  unfold State.pageCheck
  split
  · exact h
  · split
    · extract_lets l f
      split
      · exact h
      · have h1 : (s.mergeLines (l.words 4096)).Canon := mergeLines_canon h
        split
        · exact h1
        · split
          · exact h1.of_mem rfl
          · exact quarantine_canon h1
    · exact h

theorem k16Word_all {e : Desc} (h : s.Canon) : (s.k16Word k e off rope o mask).All Carries := by
  refine tryThen_all (cargoOf_all h) fun ⟨v, s1⟩ h1 => ?_
  simp only
  split
  · split
    · exact h1
    · refine tryThen_all (cargoOf_all h1) fun ⟨u, s2⟩ h2 => ?_
      simp only
      split
      · exact h2
      · exact h2
  · exact h1

theorem k16Desc_all (h : s.Canon) : (s.k16Desc k va).All Carries := heldCargo_all h (tryThen_any fun _ => atomStep_carries h)

theorem k16Cargo_all (h : s.Canon) : (s.k16Cargo k va off rope o mask).All Carries := by
  unfold State.k16Cargo
  split
  · trivial
  · refine tryThen_all (k16Desc_all h) fun ⟨v, s1⟩ h1 => ?_
    simp only
    split
    · split
      · trivial
      · split
        · trivial
        · split
          · exact k16Word_all ((pageCheck_carries h1).of_eq ‹_›)
          · exact nextId_canon ((pageCheck_carries h1).of_eq ‹_›)
    · exact h1

theorem execLdqK16_canon (h : s.Canon) : Out.Canon (execLdqK16 p d a b s) :=
  withIssue_canon h fun _ _ => runPush_canon (fun _ _ h => k16Cargo_all h) h

end Keys
end Sys2Proof.Machine
end

section
namespace Sys2Proof.Machine

/-! Queries over keys and values. -/

section KvQueue
variable {s : State} {w : Who} {va : DWord} {kind k id tm tile sett n : Nat} {l : List (DWord × Nat)} {q : Kvq} {e : KvqBad} {clk : Clock}
  {p : Pfx} {d : BitVec 7} {a b : Src}

theorem kvqDesc_all (h : s.Canon) : OkAll Carries (s.kvqDesc w va kind) := by
  unfold State.kvqDesc
  split
  · trivial
  · split
    · trivial
    · have h1 := (unitRead_all h).carried ‹_›
      simp only
      split
      · trivial
      · split
        · trivial
        · exact h1

theorem kvqRecord_all (h : s.Canon) : OkAll Carries (s.kvqRecord w va) := by
  unfold State.kvqRecord
  split
  · trivial
  · have h1 := (unitRead_all h).carried ‹_›
    split
    · trivial
    · exact h1

theorem pinAll_canon (h : s.Canon) : (s.pinAll w l).2.2.Canon := by
  induction l generalizing s with
  | nil => exact h
  | cons x t ih =>
    unfold State.pinAll
    split
    · exact h
    · have h1 := (kvqDesc_all h).carried ‹_›
      split
      · exact h
      · split
        · exact h
        · exact ih ((unitStore_all h1).of_ok ‹_›)

theorem pinned_canon {ps : List DWord} {x : Option KvqBad} {t : State} (h : s.Canon) (e : s.pinAll w l = (ps, x, t)) : t.Canon := by
  have h2 := pinAll_canon (w := w) (l := l) h
  rw [e] at h2
  exact h2

theorem unpin_canon (h : s.Canon) : (s.unpin w va).Canon := by
  unfold State.unpin
  split
  · exact h
  · refine foldl_canon (fun s e h => ?_) ((unitRead_all h).carried ‹_›)
    split
    · exact (unitStore_all h).of_ok ‹_›
    · exact h

theorem kvqList_all (h : s.Canon) : OkAll Carries (s.kvqList w q).2 := by
  unfold State.kvqList
  split
  · trivial
  · have h1 := (unitRead_all h).carried ‹_›
    simp only
    split
    · trivial
    · split
      · trivial
      · split
        · trivial
        · have h2 := (unitRead_all h1).carried ‹_›
          split
          · trivial
          · exact (kvqRecord_all h2).carried ‹_›

theorem acceptKvq_canon (h : s.Canon) : (s.acceptKvq q).Canon := by
  unfold State.acceptKvq
  extract_lets w put bad
  have hput {s : State} {x : Kvq} (h : s.Canon) : (put s x).Canon := h
  have hbad {s : State} {x : Kvq} {e : KvqBad} (h : s.Canon) : (bad s x e).Canon := badRecords_canon (source := w.source) h
  have hl := kvqList_all (w := w) (q := q) h
  split
  · exact hbad h
  · next e =>
    rw [e] at hl
    split
    have h2 := pinned_canon hl ‹_›
    simp only
    split
    · exact hbad h2
    · split
      · exact hbad h2
      · exact hput h2

theorem kvqStep_all (h : s.Canon) : (kvqStep d a b s k).All State.Canon :=
  tryThen_any fun _ => lateLine_all (tryThen_any fun _ => acceptKvq_canon (nextId_canon h))

theorem execKvq_canon (h : s.Canon) : Out.Canon (execKvq p d a b s) :=
  withIssue_canon h fun _ _ => runSeq_canon (fun _ _ h => kvqStep_all h) h

theorem modKvq_canon {f : Kvq → Kvq} (h : s.Canon) : (s.modKvq id f).Canon := h

/-- The state that comes with the result of a pass, or with the reason why it stopped. -/
def BothCarry {ε α : Type} (x : Except (ε × State) (α × State)) : Prop :=
  match x with
  | .ok v => Carries v
  | .error e => Carries e

theorem BothCarry.ok {ε α : Type} {x : Except (ε × State) (α × State)} {v : α} {t : State} (h : BothCarry x) (e : x = .ok (v, t)) :
    t.Canon := by
  subst e
  exact h

theorem BothCarry.error {ε α : Type} {x : Except (ε × State) (α × State)} {v : ε} {t : State} (h : BothCarry x)
    (e : x = .error (v, t)) : t.Canon := by
  subst e
  exact h

theorem kvqPage_both {x : Desc} (h : s.Canon) : BothCarry (s.kvqPage w va x) := by
  unfold State.kvqPage
  split
  · exact h
  · have h1 := (unitRead_all h).carried ‹_›
    split
    · exact (pageCheck_carries h1).of_eq ‹_›
    · exact (pageCheck_carries h1).of_eq ‹_›

theorem pairPass_both {x : KvPair} {y : Triple} (h : s.Canon) : BothCarry (s.pairPass w q x y) := by
  unfold State.pairPass
  split
  · exact h
  · have h1 := (kvqRecord_all h).carried ‹_›
    split
    · exact h
    · have h2 := (kvqDesc_all h1).carried ‹_›
      split
      · exact h
      · have h3 := (kvqDesc_all h2).carried ‹_›
        split
        · exact (kvqPage_both h3).error ‹_›
        · have h4 := (kvqPage_both h3).ok ‹_›
          split
          · exact h4
          · have h5 := (unitRead_all h4).carried ‹_›
            split
            · exact (kvqPage_both h5).error ‹_›
            · exact (kvqPage_both h5).ok ‹_›

theorem stopKvq_canon (h : s.Canon) : (s.stopKvq q w e).Canon := modKvq_canon (badRecords_canon h)

theorem execSettPairPass_canon (h : s.Canon) : Out.Canon (execSettPairPass id sett s) := by
  unfold execSettPairPass
  refine Out.ite_canon trivial ?_
  split
  · trivial
  · split
    · trivial
    · simp only
      split
      · exact stopKvq_canon ((pairPass_both h).error ‹_›)
      · exact modKvq_canon ((pairPass_both h).ok ‹_›)

theorem execReturnMerge_canon (h : s.Canon) : Out.Canon (execReturnMerge id s) := by
  unfold execReturnMerge
  refine Out.ite_canon trivial ?_
  split
  · trivial
  · split
    · trivial
    · exact modKvq_canon h

theorem flipBack_canon (h : s.Canon) : (s.flipBack tm tile clk).Canon := h

theorem endKvq_canon (h : s.Canon) : (s.endKvq q w).Canon := by
  have h2 : (q.pins.foldl (fun s va => s.unpin w va) (s.flipBack q.tm q.tile w.tick)).Canon :=
    foldl_canon (fun _ _ h => unpin_canon h) (flipBack_canon h)
  exact h2.of_mem rfl

theorem execKvqComplete_canon (h : s.Canon) : Out.Canon (execKvqComplete id s) := by
  unfold execKvqComplete
  refine Out.ite_canon trivial ?_
  split
  · trivial
  · split
    · trivial
    · simp only
      split
      · exact stopKvq_canon h
      · split
        · exact endKvq_canon (unitPut_canon h)
        · split
          · exact stopKvq_canon h
          · exact mbCount_canon (endKvq_canon (unitPut_canon h))

theorem execKvqFail_canon (h : s.Canon) : Out.Canon (execKvqFail id s) := by
  unfold execKvqFail
  refine Out.ite_canon trivial ?_
  split
  · trivial
  · split
    · trivial
    · exact owe_canon (endKvq_canon h)

end KvQueue
end Sys2Proof.Machine
end

section
namespace Sys2Proof.Machine

/-! Commands of the Bear. -/

section Bear
variable {s : State} {w : Who} {va : DWord} {k id tm tile core n j t : Nat} {c : Cur} {act ts ks tiles accs zs : List Nat} {op : BearOp}
  {mode : DWord} {clk : Clock} {p : Pfx} {d : BitVec 7} {a : Src} {m : MmaArgs} {x : BearCmd} {bad : Bad} {flip : Bool} {f : AccTile → AccTile}

theorem mcvTry_all (h : s.Canon) : (mcvTry d a s k).All State.Canon := by
  refine tryThen_any fun v => ?_
  split
  simp only
  split
  · trivial
  · exact modTeam_canon (putLane_canon h)

theorem execMcv_canon (h : s.Canon) : Out.Canon (execMcv p d a s) :=
  withIssue_canon h fun _ _ => runSeq_canon (fun _ _ h => mcvTry_all h) h

theorem bearEnter_canon (h : s.Canon) : (s.bearEnter c k mode clk op tiles).Canon := modCore_canon (nextId_canon h)
theorem parkBear_canon (h : s.Canon) : (s.parkBear c id ts).Canon := modGrp_canon (foldl_canon (fun _ _ h => modThr_canon h) h)
theorem sign_canon {semi quarter : Nat} (h : s.Canon) : (s.sign k semi m quarter).Canon := modTeam_canon (modThr_canon h)

theorem signAll_canon {g : Nat → Nat} {semi quarter : Nat} {l : List Nat} (h : s.Canon) :
    (l.foldl (fun s t => s.sign (g t) semi m quarter) s).Canon := foldl_canon (fun _ _ h => sign_canon h) h

theorem mmaIssue_canon {semi holder : Nat} (h : s.Canon) : (s.mmaIssue c holder semi m).Canon :=
  parkBear_canon (modTeam_canon (bearEnter_canon h))

theorem parkSigners_canon {late : List (Nat × Cond)} (h : s.Canon) : (s.parkSigners c act late).Canon :=
  foldl_canon (fun _ _ h => modThr_canon h) h

theorem raiseMma_canon {x : Nat → Hit} (h : s.Canon) : Out.Canon (s.raiseMma c act x) := raise_canon h

theorem mmaOp_canon {semi : Nat} (h : s.Canon) : Out.Canon (mmaOp semi p m s) := by
  refine withIssue_canon h fun c act => Out.ite_canon (raiseMma_canon h) (Out.ite_canon (raiseMma_canon h) (Out.ite_canon (raiseMma_canon h)
    (Out.ite_canon ?_ (Out.ite_canon (raiseMma_canon h) (Out.ite_canon ?_ ?_)))))
  · exact ite_canon (retire_canon (signAll_canon h)) (parkSigners_canon (signAll_canon h))
  · exact parkSigners_canon (signAll_canon h)
  · exact mmaIssue_canon (parkSigners_canon (signAll_canon h))

theorem bearOp_canon {ok : State → Cur → Bool} {z : Thread → Thread} {body : State → Cur → List Nat → Out}
    (hb : ∀ c act, Out.Canon (body s c act)) (h : s.Canon) : Out.Canon (bearOp p ok accs tiles z body s) := by
  refine withDst_canon h fun c act => ?_
  split
  · exact Out.ite_canon (raiseAll_canon h) (hb c act)
  · exact parkAll_canon h

theorem enterGo_canon (h : s.Canon) : Out.Canon (s.enterGo c act op tiles) := retire_canon (bearEnter_canon h)

theorem readOp_canon {d : BitVec 7} {t : BitVec 3} {op : List Nat → List Nat → BearOp} (h : s.Canon) : Out.Canon (readOp p d t n op s) :=
  bearOp_canon (fun _ _ => parkBear_canon (bearEnter_canon h)) h

theorem writeOp_canon {t : BitVec 3} {i : Bool} {op : KMap (List Word) → BearOp} {flushed : Nat} (h : s.Canon) :
    Out.Canon (writeOp p d t i n flushed op s) :=
  bearOp_canon (fun _ _ => Out.ite_canon (raise_canon h) (enterGo_canon h)) h

theorem execSmx_canon {b : BitVec 8} (h : s.Canon) : Out.Canon (execSmx p d a b s) := by
  unfold execSmx
  refine bearOp_canon (fun c act => ?_) h
  simp only
  split
  · exact enterGo_canon h
  · exact raiseAll_canon h

theorem execMscl_canon {z : BitVec 3} {b : BitVec 8} (h : s.Canon) : Out.Canon (execMscl p d z b s) := by
  unfold execMscl
  exact bearOp_canon (fun _ _ => enterGo_canon h) h

theorem contTry_all (h : s.Canon) : (s.contTry k va).All fun v => v.2.2.Canon := by
  unfold State.contTry
  simp only
  split
  · unfold Bad.try_
    split <;> trivial
  · have h1 := (unitRead_all (s := { s with nextId := s.nextId + 1 }) (nextId_canon h)).carried ‹_›
    split
    · trivial
    · split
      · trivial
      · split
        · unfold Bad.try_
          split <;> trivial
        · exact (unitRead_all h1).carried ‹_›

theorem mcontTry_all (h : s.Canon) : (mcontTry a c s k).All State.Canon := by
  refine tryThen_any fun v => tryThen_all (contTry_all h) fun ⟨x, b, s1⟩ h1 => ?_
  exact parkBear_canon (modCore_canon (bearEnter_canon h1))

theorem execMcont_canon (h : s.Canon) : Out.Canon (execMcont p a s) :=
  withIssue_canon h fun _ _ => settle_canon h (seqTry_carries (fun _ _ h => mcontTry_all h) h)

theorem bearWake_canon (h : s.Canon) : (s.bearWake id ks).Canon :=
  foldl_canon (fun _ _ h => ite_canon h (arriveHdr_canon (modGrp_canon (completed_canon h)))) (foldl_canon (fun _ _ h => modThr_canon h) h)

theorem bearLeave_canon (h : s.Canon) : (s.bearLeave core x flip).Canon :=
  ite_canon (foldl_canon (fun _ _ h => ite_canon h (flipBack_canon h)) (modCore_canon h)) (modCore_canon h)

theorem modAcc_canon (h : s.Canon) : (s.modAcc tm t f).Canon := modTeam_canon h
theorem cleanAcc_canon (h : s.Canon) : (s.cleanAcc tm t).Canon := h

theorem bearRecords_canon (h : s.Canon) : (s.bearRecords core x n bad).Canon := ite_canon (machineCheck_canon h) (badRecords_canon h)

theorem runBlocks_all {semi : Nat} {b : KMap (List Word)} {acc : AccTile} (h : s.Canon) :
    OkAll Carries (s.runBlocks w semi mode m b n j acc) := by
  induction n generalizing s j acc with
  | zero => exact h
  | succ n ih =>
    unfold State.runBlocks
    split
    · trivial
    · split
      · trivial
      · next e =>
        have h1 := (unitRead_all h).carried e
        split
        · trivial
        · next e2 =>
          refine ih ?_
          split at e2
          · cases e2
            exact h1
          · exact (unitRead_all h1).carried e2

theorem bearRun_all (h : s.Canon) : OkAll Carries (s.bearRun core x n) := by
  unfold State.bearRun
  split
  · exact runBlocks_all (ite_canon (cleanAcc_canon h) h)
  · trivial

theorem execMmaComplete_canon (h : s.Canon) : Out.Canon (execMmaComplete core s) := by
  unfold execMmaComplete
  refine Out.ite_canon trivial ?_
  split
  · trivial
  · split
    · split
      · trivial
      · exact bearWake_canon (bearLeave_canon (modAcc_canon ((bearRun_all h).carried ‹_›)))
    · trivial

theorem writeCont_canon {bs : List Byte} (h : s.Canon) : (s.writeCont w va bs).Canon := by
  unfold State.writeCont
  split
  · exact (unitStore_all h).of_ok ‹_›
  · exact h

theorem execBearFault_canon {blocks : Nat} (h : s.Canon) : Out.Canon (execBearFault core blocks s) := by
  unfold execBearFault
  refine Out.ite_canon trivial ?_
  split
  · trivial
  · split
    · refine Out.ite_canon trivial ?_
      split
      · trivial
      · exact raise_canon (bearLeave_canon (bearRecords_canon (writeCont_canon (modAcc_canon ((bearRun_all h).carried ‹_›)))))
    · trivial

theorem bearZero_canon (h : s.Canon) : (s.bearZero tm t).Canon := modPart_canon (modAcc_canon (cleanAcc_canon h))

theorem bearCheck_canon (h : s.Canon) : (s.bearCheck core tm t k).Canon := by
  unfold State.bearCheck
  extract_lets
  split
  · split
    · exact h
    · split
      exact telemetry_canon (modAcc_canon h)
  · exact h

theorem bearRaise_canon {y : Nat → Hit} (h : s.Canon) : Out.Canon (s.bearRaise ks y) := by
  unfold State.bearRaise
  split
  · exact h
  · split
    · exact h
    · exact raise_canon h

theorem bearDeliver_canon {d rc : Nat} {pol : Byte} {codes : Nat → List Nat} {tail : Nat → List Word} (h : s.Canon) :
    Out.Canon (s.bearDeliver core x t ks zs d n rc pol codes tail) := by
  refine Out.ite_canon (bearRaise_canon (bearLeave_canon (bearRecords_canon h))) (Out.ite_canon (bearRaise_canon (bearLeave_canon h)) ?_)
  refine bearWake_canon (bearLeave_canon (foldl_canon (fun _ _ h => modThr_canon h) (foldl_canon (fun s e h => ?_) h)))
  split
  · exact modThr_canon h
  · exact h

theorem bearOwe_canon (h : s.Canon) : Out.Canon (s.bearOwe core x n bad) := bearLeave_canon (owe_canon (bearRecords_canon h))

theorem execBearCommandComplete_canon (h : s.Canon) : Out.Canon (execBearCommandComplete core s) := by
  unfold execBearCommandComplete
  refine Out.ite_canon trivial ?_
  split
  · trivial
  · extract_lets tile w done
    split
    · exact bearOwe_canon h
    · split
      · trivial
      · exact bearLeave_canon (bearZero_canon h)
      · refine bearDeliver_canon ?_
        split
        · exact bearCheck_canon h
        · exact h
      · exact bearDeliver_canon h
      · exact bearLeave_canon (modAcc_canon h)
      · exact bearLeave_canon (modAcc_canon h)
      · split
        · exact bearOwe_canon h
        · exact bearLeave_canon (modAcc_canon (modAcc_canon ((unitRead_all h).carried ‹_›)))
      · split
        split
        · exact bearOwe_canon h
        · exact bearLeave_canon (modAcc_canon (modAcc_canon ((unitStore_all h).of_ok ‹_›)))
      · exact bearLeave_canon (modAcc_canon (modAcc_canon h))
      · exact bearLeave_canon (modAcc_canon h)

end Bear
end Sys2Proof.Machine
end

section
namespace Sys2Proof.Machine

/-! Tasks and their memory, special registers and services. -/

section Tasks
variable {s : State} {n k source part task tm tid core line : Nat} {va : DWord} {cause : Cause} {l : List (DWord × Nat)} {loc : Loc} {clk : Clock}
  {p : Pfx} {d : BitVec 7} {a : Src} {r : Res}

theorem partNote_canon (h : s.Canon) : (s.partNote n source cause va).Canon := by
  unfold State.partNote
  split
  · exact consumedAt_canon h
  · exact noteLeave_canon h
  · exact h

theorem kept_canon {ws : List Nat} (h : s.Canon) : ((s.keepTlb r).mergeLines ws).Canon := mergeLines_canon (keepTlb_canon h)

theorem partRead_all (h : s.Canon) : OkAll Carries (s.partRead n l) := by
  induction l generalizing s with
  | nil => exact h
  | cons e t ih =>
    unfold State.partRead
    split
    · trivial
    · simp only
      split
      · trivial
      · split
        · trivial
        · exact (ih (kept_canon h)).carried ‹_›

theorem enqueue_canon (h : s.Canon) : (s.enqueue n source).Canon :=
  nextId_canon (modTask_canon (setState_canon (tcbPut_canon h)))

theorem refuseTcb_canon (h : s.Canon) : (s.refuseTcb loc cause).Canon := unitWrite_canon (unitWrite_canon h)

theorem submit_canon (h : s.Canon) : (s.submit part va source).Canon := by
  refine ite_canon (telemetry_canon h) ?_
  split
  · exact telemetry_canon (partNote_canon h)
  · next r _ =>
    have h1 : ((s.keepTlb r).mergeLines (r.loc.words 128)).Canon := kept_canon h
    refine ite_canon (telemetry_canon h1) (ite_canon (refuseTcb_canon h1) (ite_canon (refuseTcb_canon h1) ?_))
    split
    · exact refuseTcb_canon (partNote_canon h1)
    · have h2 := (partRead_all h1).carried ‹_›
      split
      · exact refuseTcb_canon (partNote_canon h2)
      · have h3 := (partRead_all h2).carried ‹_›
        exact ite_canon (enqueue_canon (h3.of_mem rfl)) (setState_canon (h3.of_mem rfl))

theorem decrement_canon (h : s.Canon) : (s.decrement part va clk).Canon := by
  refine ite_canon (telemetry_canon (partNote_canon h)) ?_
  split
  · exact telemetry_canon (partNote_canon h)
  · refine ite_canon (telemetry_canon (consumedAt_canon (kept_canon h))) (ite_canon (telemetry_canon (partNote_canon (kept_canon h))) ?_)
    extract_lets know s1 s2
    have h2 : s2.Canon := rel_canon (unitWrite_canon (kept_canon h))
    split
    · exact h2
    · exact ite_canon (enqueue_canon (modTask_canon h2)) (modTask_canon h2)

theorem execSuccessorDecrement_canon (h : s.Canon) : Out.Canon (execSuccessorDecrement task s) := by
  unfold execSuccessorDecrement
  refine Out.ite_canon trivial ?_
  split
  · trivial
  · simp only
    split
    · exact telemetry_canon (partNote_canon (modTask_canon h))
    · exact decrement_canon ((partRead_all (modTask_canon h)).carried ‹_›)

theorem mergeVersion_canon (h : s.Canon) : (s.mergeVersion task).Canon :=
  foldl_canon (fun _ _ h => dirtyL2_canon (markWords_canon (State.writeByte_wf _ _ _ h))) h

theorem execCommit_canon (h : s.Canon) : Out.Canon (execCommit task s) :=
  Out.ite_canon trivial (Out.ite_canon trivial
    (modTask_canon (mergeLines_canon (tcbPut_canon (setState_canon (mergeVersion_canon h))))))

theorem endedRecord_canon (h : s.Canon) : (s.endedRecord task source cause).Canon := telemetry_canon h

theorem execTaskEnded_canon (h : s.Canon) : Out.Canon (execTaskEnded task s) :=
  Out.ite_canon trivial (Out.ite_canon (endTask_canon (endedRecord_canon h)) trivial)

theorem execSubmit_canon (h : s.Canon) : Out.Canon (execSubmit part va s) := by
  unfold execSubmit
  refine Out.ite_canon trivial ?_
  split
  · exact submit_canon (modPart_canon h)
  · trivial

theorem execDrain_canon (h : s.Canon) : Out.Canon (execDrain tm tid s) := Out.ite_canon trivial (Out.ite_canon trivial (drain_canon h))

theorem execMerge_canon (h : s.Canon) : Out.Canon (execMerge core line s) :=
  Out.ite_canon trivial (Out.ite_canon trivial (foldl_canon (fun _ _ h => mergeWord_canon h) h))

theorem execHostStoreCompletion_canon (h : s.Canon) : Out.Canon (execHostStoreCompletion tm tid s) := by
  unfold execHostStoreCompletion
  refine Out.ite_canon trivial ?_
  split
  · trivial
  · exact modThr_canon h

theorem tenqTry_all (h : s.Canon) : (tenqTry a s k).All State.Canon := tryThen_any fun _ => tryThen_any fun _ => submit_canon h

theorem execTenq_canon (h : s.Canon) : Out.Canon (execTenq p a s) := withIssue_canon h fun _ _ => runSeq_canon (fun _ _ h => tenqTry_all h) h

theorem abortStep_all (h : s.Canon) : (s.abortStep k d va loc).All State.Canon := by
  unfold State.abortStep
  extract_lets u old s1
  have hu : u.Canon := mergeLines_canon h
  split
  · trivial
  · split
    · trivial
    · have h1 : s1.Canon := by
        unfold s1
        split
        · exact endTask_canon (endedRecord_canon hu)
        · exact hu
      exact ite_canon (modThr_canon h1) h1

theorem abortTry_all (h : s.Canon) : (abortTry d a s k).All State.Canon := by
  unfold abortTry
  split
  · exact h
  · exact tryThen_any fun _ => tryThen_any fun _ => abortStep_all h

theorem execVabort_canon (h : s.Canon) : Out.Canon (execVabort p d a s) :=
  withIssue_canon h fun _ _ => runSteps_canon (fun _ _ h => abortTry_all h) h

end Tasks

section Registers
variable {s : State} {n k part svc tm tid : Nat} {v : DWord} {p : Pfx} {d : BitVec 7} {a : Src} {va : Option Nat} {srcs : List (OTy × Src)}
  {f : State → Nat → DWord → Try (DWord × State)}

theorem writeSr_canon (h : s.Canon) : (s.writeSr k n v).Canon := by
  unfold State.writeSr
  extract_lets
  split
  · exact modThr_canon h
  · exact modThr_canon h
  · exact modPart_canon h
  · exact modThr_canon h
  · exact modThr_canon h
  · exact modThr_canon h
  · exact modCore_canon h
  · exact modPart_canon h
  · exact modPart_canon h
  · exact modPart_canon h
  · exact modPart_canon h
  · exact modPart_canon h
  · exact modPart_canon h
  · exact ite_canon (modPart_canon h) h

theorem execRdsr_canon {n : BitVec 7} (h : s.Canon) : Out.Canon (execRdsr p d n s) :=
  Out.ite_canon (withCur_canon h fun _ _ => raiseAll_canon h) (withDst_canon h fun _ _ => runLanes_canon h)

theorem wrsrTry_all (h : s.Canon) : (wrsrTry n a s k).All State.Canon := by
  refine tryThen_any fun v => ?_
  split
  split
  · exact writeSr_canon (putLane_canon h)
  · trivial

theorem execWrsr_canon {n : BitVec 7} (h : s.Canon) : Out.Canon (execWrsr p n a s) :=
  Out.ite_canon (withCur_canon h fun _ _ => raiseAll_canon h)
    (withIssue_canon h fun _ _ => runSeq_canon (fun _ _ h => wrsrTry_all h) h)

theorem dropTlb_canon (h : s.Canon) : (s.dropTlb part va).Canon := h.of_mem rfl

theorem tlbiTry_all (h : s.Canon) : (tlbiTry a s k).All State.Canon := tryThen_any fun _ => tryThen_any fun _ => dropTlb_canon h
theorem tlbiAllTry_all (h : s.Canon) : (tlbiAllTry s k).All State.Canon := tryThen_any fun _ => dropTlb_canon h

theorem execTlbi_canon (h : s.Canon) : Out.Canon (execTlbi p a s) := withIssue_canon h fun _ _ => runSeq_canon (fun _ _ h => tlbiTry_all h) h
theorem execTlbiAll_canon (h : s.Canon) : Out.Canon (execTlbiAll p s) :=
  withIssue_canon h fun _ _ => runSeq_canon (fun _ _ h => tlbiAllTry_all h) h

theorem mcallTry_all (hf : ∀ s k v, s.Canon → (f s k v).All Carries) (h : s.Canon) : (mcallTry d svc srcs f s k).All State.Canon := by
  refine tryThen_any fun v => ?_
  exact tryThen_all (hf _ _ _ (putLane_canon h)) fun _ h1 => modThr_canon h1

theorem mcallOp_canon {srcs : Side → List (OTy × Src)} (hf : ∀ s k v, s.Canon → (f s k v).All Carries) (h : s.Canon) :
    Out.Canon (mcallOp p d svc srcs f s) :=
  withDst_canon h fun _ _ => settle_canon h (zeroDst_canon (seqTry_carries (fun _ _ h => mcallTry_all hf h) h))

theorem telemetryCall_all (h : s.Canon) : (telemetryCall s k v).All Carries := telemetry_canon h
theorem locateCall_all (h : s.Canon) : (locateCall s k v).All Carries := h

theorem peerCall_all (h : s.Canon) : (peerCall s k v).All Carries := by
  unfold peerCall
  split
  · exact h
  · trivial

theorem execMcallAnswer_canon (h : s.Canon) : Out.Canon (execMcallAnswer tm tid s) := by
  unfold execMcallAnswer
  refine Out.ite_canon trivial ?_
  split
  · trivial
  · extract_lets s1
    have h1 : s1.Canon := modThr_canon h
    split
    · exact h1
    · exact Out.ite_canon h1 (arriveHdr_canon (modGrp_canon (completed_canon h1)))

end Registers

/-! What is saved of a team, and how it comes back. -/

section Saving
variable {s : State} {tm core gid k slot part cluster : Nat} {ps l : List Nat} {hdr : DWord} {priv : Bool} {x : BearCmd} {q : Nat → Bool}
  {need : Need}

theorem splitBear_canon (h : s.Canon) : (s.splitBear core x).Canon := by
  unfold State.splitBear
  split
  · extract_lets put n
    have hput {n : Nat} {u : AccTile} {t : State} (h : t.Canon) : (put n u t).Canon := modCore_canon (modAcc_canon h)
    split
    · exact h
    · split
      · exact hput ((bearRun_all h).carried ‹_›)
      · split
        · exact h
        · split
          · exact hput ((bearRun_all h).carried ‹_›)
          · exact h
  · exact h

theorem splitBears_canon (h : s.Canon) : (s.splitBears tm ps).Canon := foldl_canon (fun _ _ h => splitBear_canon h) h

theorem saveRegs_canon (h : s.Canon) : (s.saveRegs k hdr priv).Canon := ite_canon h (modThr_canon h)

theorem saveGroup_canon (h : s.Canon) : (s.saveGroup gid ps).Canon :=
  have h1 (g : Group) (l : List Nat) : (l.foldl (fun s t => s.saveRegs (g.key t) g.hdr g.priv) s).Canon :=
    foldl_canon (fun _ _ h => saveRegs_canon h) h
  ite_canon h (ite_canon (modGrp_canon (h1 _ _)) (newGroup_canon (takeOut_canon (h1 _ _))))

theorem saveBins_canon (h : s.Canon) : (s.saveBins tm ps).Canon :=
  modTeam_canon (modCore_canon (foldl_canon (fun _ _ h => foldl_canon (fun _ _ h => saveRegs_canon h) h) h))

theorem saveSlot_canon (h : s.Canon) : (s.saveSlot tm slot).Canon := by
  unfold State.saveSlot
  extract_lets
  exact sends_canon (modTeam_canon (modSince_canon (saveBins_canon (foldl_canon (fun _ _ h => saveGroup_canon h) (splitBears_canon h)))))

theorem wholeSaved_canon (h : s.Canon) : (s.wholeSaved tm).Canon := ctxs_canon (modTeam_canon h)

theorem saveTeam_canon (h : s.Canon) : (s.saveTeam tm).Canon := wholeSaved_canon (foldl_canon (fun _ _ h => saveSlot_canon h) h)

theorem resumeSince_canon (h : s.Canon) : (s.resumeSince tm q).Canon := ite_canon (modSince_canon h) h

theorem wakeSaved_canon (h : s.Canon) : (s.wakeSaved tm).Canon := by
  unfold State.wakeSaved
  extract_lets
  exact arriveAll_canon (arriveAll_canon (foldl_canon (fun _ _ h => fileEntries_canon h)
    (ctxs_canon (modTeam_canon (resumeSince_canon (foldl_canon (fun _ _ h => modGrp_canon h) h))))))

theorem moveBear_canon (h : s.Canon) : (s.moveBear tm).Canon := ite_canon (cores_canon h) (modCore_canon (cores_canon h))

theorem restoreTeam_canon (h : s.Canon) : (s.restoreTeam tm).Canon :=
  wakeSaved_canon (clusters_canon (modTeam_canon (moveBear_canon h)))

theorem execEviction_canon (h : s.Canon) : Out.Canon (execEviction core need s) := Out.ite_canon trivial (Out.ite_canon trivial (modCore_canon h))

theorem beginSaving_canon (h : s.Canon) : (s.beginSaving tm).Canon := clusters_canon h

theorem execGroupSave_canon (h : s.Canon) : Out.Canon (execGroupSave tm slot s) := by
  have h1 (c : Prop) [Decidable c] : ((if c then s.beginSaving tm else s).saveSlot tm slot).Canon :=
    saveSlot_canon (ite_canon (beginSaving_canon h) h)
  exact Out.ite_canon trivial (Out.ite_canon (ite_canon (wholeSaved_canon (h1 _)) (h1 _)) trivial)

theorem execThermalMigration_canon (h : s.Canon) : Out.Canon (execThermalMigration cluster s) :=
  Out.ite_canon trivial (Out.ite_canon (foldl_canon (fun _ _ h => saveTeam_canon h) h) trivial)

theorem execSwapOut_canon (h : s.Canon) : Out.Canon (execSwapOut part s) :=
  Out.ite_canon trivial (Out.ite_canon (modPart_canon (foldl_canon (fun _ _ h => saveTeam_canon h) h)) trivial)

theorem restoreFitting_canon (h : s.Canon) : (s.restoreFitting l).Canon :=
  foldl_canon (fun _ _ h => ite_canon (foldl_canon (fun _ _ h => restoreTeam_canon h) h) h) h

end Saving
end Sys2Proof.Machine
end

section
namespace Sys2Proof.Machine

/-! Binding records, and the start of teams. -/

section Binding
variable {s : State} {core task tm no idx c gid part : Nat} {l old new : List Nat} {r : BindRec} {kind : BindKind} {restore : Bool} {sd : Side}
  {x : Cluster}

theorem dropNeed_canon (h : s.Canon) : (s.dropNeed core task).Canon := modCore_canon h
theorem reslot_canon (h : s.Canon) : (s.reslot tm old new).Canon := h.of_mem rfl

theorem joinCluster_canon (h : s.Canon) : (s.joinCluster task no tm restore).Canon := by
  unfold State.joinCluster
  split
  next s1 e =>
    refine modTeam_canon (clusters_canon ?_)
    split at e
    · cases e
      exact h
    · cases e
      exact h

theorem acceptRec_canon (h : s.Canon) : (s.acceptRec core task r kind).Canon := by
  unfold State.acceptRec
  extract_lets
  split
  · exact modCore_canon (modTask_canon (joinCluster_canon (h.of_mem rfl)))
  · exact modCore_canon (joinCluster_canon (modTeam_canon (reslot_canon h)))
  · exact joinCluster_canon (modTeam_canon (reslot_canon h))

theorem withdraw_canon (h : s.Canon) : (s.withdraw tm).Canon :=
  ite_canon (modTeam_canon (modCore_canon h)) (modTask_canon (discardTeam_canon (modCore_canon h)))

theorem cancelCluster_canon (h : s.Canon) : (s.cancelCluster task no).Canon :=
  foldl_canon (fun _ _ h => withdraw_canon h) (cores_canon (cores_canon h))

theorem cancelRec_canon {rank : Nat} (h : s.Canon) : (s.cancelRec task core rank).Canon := telemetry_canon h

theorem refuseRec_canon (h : s.Canon) : (s.refuseRec core idx task r).Canon := cancelRec_canon (cancelCluster_canon (modCore_canon h))

theorem consume_canon (h : s.Canon) : (s.consume core idx r).Canon := by
  unfold State.consume
  split
  · exact modCore_canon h
  · extract_lets s1
    have h1 : s1.Canon := ite_canon h (dropNeed_canon h)
    split
    · exact refuseRec_canon h1
    · exact ite_canon (acceptRec_canon (modCore_canon h1)) (refuseRec_canon h1)

theorem execBindRecord_canon (h : s.Canon) : Out.Canon (execBindRecord core idx r s) :=
  Out.ite_canon trivial (Out.ite_canon (Out.ite_canon trivial (consume_canon h)) (Out.ite_canon (modCore_canon h) trivial))

theorem startSide_canon (h : s.Canon) : (s.startSide tm sd).Canon :=
  foldl_canon (fun _ _ h => newGroup_canon (foldl_canon (fun _ _ h => modThr_canon h) h)) h

theorem startTeam_canon (h : s.Canon) : (s.startTeam tm).Canon := by
  unfold State.startTeam
  extract_lets _ _ _ _ t1
  clear_value t1
  exact startSide_canon (startSide_canon (modTeam_canon h))

theorem startCluster_canon (h : s.Canon) : (s.startCluster c x).Canon := by
  have h1 : (x.teams.foldl (fun s n => s.startTeam n) s).Canon := foldl_canon (fun _ _ h => startTeam_canon h) h
  exact ite_canon (setState_canon (tcbPut_canon (clusters_canon h1))) (clusters_canon h1)

theorem resumeCluster_canon (h : s.Canon) : (s.resumeCluster c x).Canon := by
  refine clusters_canon (foldl_canon (fun s n h => ?_) h)
  split
  · exact restoreTeam_canon h
  · exact h

theorem execTeamStart_canon (h : s.Canon) : Out.Canon (execTeamStart c s) := by
  unfold execTeamStart
  refine Out.ite_canon trivial ?_
  split
  · trivial
  · refine Out.ite_canon (ite_canon (resumeCluster_canon h) (startCluster_canon h)) ?_
    split
    · trivial
    · exact clusters_canon (foldl_canon (fun _ _ h => wakeSaved_canon h) h)

end Binding

/-! The debugger, and the events of time. -/

section Debugger
variable {s done : State} {tm gid part tid sid core bin : Nat} {e : DecErr} {on : Bool}

theorem breakGroup_canon (h : s.Canon) : (s.breakGroup gid).Canon := breakTo_canon h

theorem breakMates_canon (h : done.Canon) : (s.breakMates gid done).Canon := by
  refine foldl_canon (fun x k h => ?_) h
  split
  · next y e =>
    have hy : y.Canon := by
      split at e
      · have h1 := enter_canon (gid := k) h
        rw [e] at h1
        exact h1
      · cases e
        exact h
    exact ite_canon (breakGroup_canon hy) h
  · exact h

theorem execBreakpointMatch_canon (h : s.Canon) : Out.Canon (execBreakpointMatch tm gid s) :=
  Out.ite_canon trivial (Out.ite_canon (ite_canon (breakMates_canon (breakGroup_canon h)) (breakGroup_canon h)) trivial)

theorem releaseGroup_canon (h : s.Canon) : (s.releaseGroup gid).Canon := by
  unfold State.releaseGroup
  extract_lets g free s1
  have h1 : s1.Canon := foldl_canon (fun _ _ h => modThr_canon h) h
  exact ite_canon (raise_canon h1) (arriveHdr_canon (splitTo_canon h1))

theorem freeStopped_canon (h : s.Canon) : (s.freeStopped tm).Canon := h.of_mem rfl

theorem resumeTeam_canon (h : s.Canon) : (s.resumeTeam tm).Canon := by
  unfold State.resumeTeam
  extract_lets gs saved s1
  have h1 : s1.Canon := modTeam_canon (freeStopped_canon (foldl_canon (fun _ _ h => releaseGroup_canon h) h))
  exact ite_canon (modSince_canon h1) h1

theorem execResume_canon (h : s.Canon) : Out.Canon (execResume part s) :=
  Out.ite_canon trivial (Out.ite_canon (foldl_canon (fun _ _ h => resumeTeam_canon h) h) trivial)

theorem execStepGroup_canon (h : s.Canon) : Out.Canon (execStepGroup tm gid s) :=
  Out.ite_canon trivial (Out.ite_canon (agenda_canon (modTeam_canon (releaseGroup_canon h))) trivial)

theorem stepDone_canon (h : s.Canon) : (s.stepDone tm).Canon :=
  ite_canon (modTeam_canon (modSince_canon (foldl_canon (fun _ _ h => ite_canon (modThr_canon h) h) h))) h

theorem execTilraxDbgSession_canon (h : s.Canon) : Out.Canon (execTilraxDbgSession part on s) :=
  Out.ite_canon trivial (Out.ite_canon
    (ite_canon (modPart_canon h) (foldl_canon (fun _ _ h => resumeTeam_canon h) (modPart_canon h))) trivial)

theorem execDecodeFault_canon (h : s.Canon) : Out.Canon (execDecodeFault e s) := by
  unfold execDecodeFault
  refine Out.ite_canon trivial ?_
  split
  · trivial
  · split
    · exact raiseAll_canon h
    · exact raiseAll_canon h
    · exact withCur_canon h fun _ _ => h
    · exact withCur_canon h fun _ _ => raiseAll_canon h

theorem execQueueDeadlock_canon (h : s.Canon) : Out.Canon (execQueueDeadlock tm tid s) := by
  unfold execQueueDeadlock
  refine Out.ite_canon trivial ?_
  split
  · trivial
  · exact Out.ite_canon (raise_canon h) trivial

theorem execReconvergenceTimeout_canon (h : s.Canon) : Out.Canon (execReconvergenceTimeout tm sid s) :=
  Out.ite_canon trivial (Out.ite_canon (arriveAll_canon (fusePresent_canon h)) trivial)

theorem execBinAgeDraw_canon (h : s.Canon) : Out.Canon (execBinAgeDraw core bin s) :=
  Out.ite_canon trivial (Out.ite_canon (drawBin_canon h) trivial)

theorem execYieldExpiry_canon (h : s.Canon) : Out.Canon (execYieldExpiry tm gid s) :=
  Out.ite_canon trivial (Out.ite_canon (modGrp_canon h) trivial)

theorem execGtcIncrement_canon (h : s.Canon) : Out.Canon (execGtcIncrement s) := Out.ite_canon trivial (h.of_mem rfl)

end Debugger
end Sys2Proof.Machine
end

section
namespace Sys2Proof.Machine

/-! What the host does: registers, the aperture, and what is read back. -/

section HostSide
variable {s : State} {part off width n : Nat} {value va : DWord} {l : List (DWord × Nat)} {bytes : List Byte} {fn : Option Nat}

theorem execRegisterWrite_canon (h : s.Canon) : Out.Canon (execRegisterWrite part off width value s) :=
  Out.ite_canon trivial (Out.ite_canon trivial (Out.ite_canon (Out.ite_canon (execSubmit_canon h) (modPart_canon h))
    (Out.ite_canon h (Out.ite_canon (modPart_canon h) (Out.ite_canon (modPart_canon h) h)))))

theorem hostWrite_canon (h : s.Canon) : (s.hostWrite part l bytes).Canon := by
  induction l generalizing s bytes with
  | nil => exact h
  | cons e t ih =>
    refine ih ?_
    split
    · exact telemetry_canon (partNote_canon h)
    · exact ite_canon (telemetry_canon h) (unitWrite_canon (kept_canon h))

theorem execHostApertureWrite_canon (h : s.Canon) : Out.Canon (execHostApertureWrite part off bytes s) :=
  Out.ite_canon trivial (Out.ite_canon (hostWrite_canon h) trivial)

theorem hostBytes_carries (h : s.Canon) : Carries (s.hostBytes part l) := by
  induction l generalizing s with
  | nil => exact h
  | cons e t ih =>
    unfold State.hostBytes
    split
    · exact ih (partNote_canon h)
    · simp only
      split
      · exact ih (partNote_canon (kept_canon h))
      · exact ih (kept_canon h)

theorem execHostApertureRead_canon (h : s.Canon) : Out.Canon (execHostApertureRead part off n s) := by
  refine Out.ite_canon trivial (Out.ite_canon ?_ trivial)
  exact (hostBytes_carries h).of_mem rfl

theorem readPort_canon (h : s.Canon) : Out.Canon (s.readPort fn off width) := Out.ite_canon trivial (h.of_mem rfl)

end HostSide

/-! Errors of arrays, what is retired, power, and the start of the machine. -/

section Hardware
variable {s : State} {part core array addr gid n : Nat} {owner p : Option Nat} {r : MachineCheck} {v w : DWord} {cores grant : List Nat}
  {cfg : PartCfg}

theorem errNote_canon (h : s.Canon) : (s.errNote owner r).Canon := by
  unfold State.errNote
  extract_lets _ s1
  have h1 : s1.Canon := h.of_mem rfl
  split
  · exact telemetry_canon h1
  · exact h1

theorem spoil_canon {core : Option Nat} (h : s.Canon) : (s.spoil core array addr).Canon := by
  unfold State.spoil
  extract_lets
  split
  · exact ite_canon (modPair_canon h) h
  · split
    · exact h.of_mem rfl
    · exact h
  · split
    · exact h.of_mem rfl
    · exact h
  · split
    · exact h.of_mem rfl
    · exact h
  · split
    · exact h.of_mem rfl
    · exact h
  · exact h.of_mem rfl
  · exact h
  · exact h.of_mem rfl
  · exact ite_canon (modThr_canon h) h

theorem execScrubError_canon (h : s.Canon) : Out.Canon (execScrubError part r s) := by
  refine Out.ite_canon trivial (Out.ite_canon ?_ trivial)
  extract_lets old new counted
  have h1 : counted.Canon := h.of_mem rfl
  simp only [Out.Canon]
  split
  · exact ite_canon (errNote_canon h1) h1
  · exact spoil_canon h
  · exact spoil_canon (errNote_canon h)

theorem execLentTileDrain_canon (h : s.Canon) : Out.Canon (execLentTileDrain core s) := by
  unfold execLentTileDrain
  refine Out.ite_canon trivial ?_
  split
  · trivial
  · exact modCore_canon h

theorem announce_canon (h : s.Canon) : (s.announce v w).Canon := foldl_canon (fun _ _ h => telemetry_canon h) h
theorem giveCores_canon (h : s.Canon) : (s.giveCores cores p).Canon := foldl_canon (fun _ _ h => modCore_canon h) h

theorem execPartitionCreate_canon (h : s.Canon) : Out.Canon (execPartitionCreate part cfg s) := by
  unfold execPartitionCreate
  extract_lets s1
  have h1 : s1.Canon := h.of_mem rfl
  exact Out.ite_canon trivial (Out.ite_canon (dropTlb_canon (giveCores_canon h1)) trivial)

theorem execPartitionResize_canon (h : s.Canon) : Out.Canon (execPartitionResize part cores grant s) :=
  Out.ite_canon trivial (Out.ite_canon (giveCores_canon (modPart_canon (giveCores_canon h))) trivial)

theorem discardAll_canon {l : List Nat} (h : s.Canon) : (l.foldl (fun s n => s.discardTeam n) s).Canon :=
  foldl_canon (fun _ _ h => discardTeam_canon h) h

theorem execPartitionDelete_canon (h : s.Canon) : Out.Canon (execPartitionDelete part s) := by
  unfold execPartitionDelete
  extract_lets live s1 s2
  have h2 : s2.Canon := dropTlb_canon (giveCores_canon (discardAll_canon h))
  exact Out.ite_canon trivial (Out.ite_canon (h2.of_mem rfl) trivial)

theorem execCoreRetirement_canon (h : s.Canon) : Out.Canon (execCoreRetirement core s) := by
  unfold execCoreRetirement
  extract_lets used s1 s2
  have h1 : s1.Canon := foldl_canon (fun _ _ h => mergeWord_canon h) h
  have h2 : s2.Canon := ite_canon (modCore_canon h1) (h1.of_mem rfl)
  exact Out.ite_canon trivial (Out.ite_canon (announce_canon h2) trivial)

theorem execPseudoChannelRetirement_canon {stack channel : Nat} (h : s.Canon) : Out.Canon (execPseudoChannelRetirement stack channel s) := by
  have h1 : ({ s with channels := s.channels ++ [(stack, channel)] } : State).Canon := h
  exact Out.ite_canon trivial (Out.ite_canon (announce_canon h1) trivial)

theorem execLynxLaneDegrade_canon {port lanes : Nat} (h : s.Canon) : Out.Canon (execLynxLaneDegrade port lanes s) := by
  unfold execLynxLaneDegrade
  extract_lets s1
  have h1 : s1.Canon := h.of_mem rfl
  exact Out.ite_canon trivial (Out.ite_canon (announce_canon h1) trivial)

theorem execPcieDegrade_canon {width : Nat} (h : s.Canon) : Out.Canon (execPcieDegrade width s) := by
  have h1 : ({ s with pcieWidth := width } : State).Canon := h
  exact Out.ite_canon trivial (Out.ite_canon (announce_canon h1) trivial)

theorem execHbmRecalibration_canon {stack channel : Nat} (h : s.Canon) : Out.Canon (execHbmRecalibration stack channel s) :=
  Out.ite_canon trivial (Out.ite_canon (announce_canon h) trivial)

theorem execPowerCap_canon {sixteenths : Nat} (h : s.Canon) : Out.Canon (execPowerCap sixteenths s) :=
  Out.ite_canon trivial (Out.ite_canon (h.of_mem rfl) trivial)

theorem sorted_filter {m : List Host.Cell} {q : Host.Cell → Bool} (h : Memory.sorted m = true) : Memory.sorted (m.filter q) = true := by
  induction m with
  | nil => rfl
  | cons d t ih =>
    simp only [List.filter_cons]
    split
    · exact sorted_cons (fun c hc => sorted_above h c (List.mem_filter.mp hc).1) (ih (sorted_tail h))
    · exact ih (sorted_tail h)

/-- Entries may be left out of a memory in canonical form. -/
theorem wf_filter {m : List Host.Cell} {q : Host.Cell → Bool} (h : Memory.wf m = true) : Memory.wf (m.filter q) = true := by
  simp only [Memory.wf, Bool.and_eq_true, List.all_eq_true] at h ⊢
  obtain ⟨hs, hz⟩ := h
  exact ⟨sorted_filter hs, fun c hc => hz c (List.mem_filter.mp hc).1⟩

/-- Where power goes, what the host holds of memory stays. -/
theorem off_canon (h : s.Canon) : s.off.Canon := wf_filter h

theorem execCoolantOverLimit_canon (h : s.Canon) : Out.Canon (execCoolantOverLimit s) :=
  Out.ite_canon trivial (Out.ite_canon (off_canon (foldl_canon (fun _ _ h => endTask_canon (endedRecord_canon h)) h)) trivial)

theorem execPowerRemoved_canon (h : s.Canon) : Out.Canon (execPowerRemoved s) := Out.ite_canon trivial (off_canon h)

theorem execPowerGood_canon {boot : BootCfg} (h : s.Canon) : Out.Canon (execPowerGood boot s) := by
  unfold execPowerGood
  extract_lets okA img
  clear_value img okA
  exact Out.ite_canon trivial (Out.ite_canon trivial (h.of_mem rfl))

theorem execEcideHandover_canon {component : List Byte} {ok : Bool} (h : s.Canon) : Out.Canon (execEcideHandover component ok s) := by
  unfold execEcideHandover
  refine Out.ite_canon trivial (Out.ite_canon trivial ?_)
  split
  · have h1 : (if s.slotB then { s with imageA := component } else { s with imageB := component } : State).Canon :=
      ite_canon (h.of_mem rfl) (h.of_mem rfl)
    exact ite_canon (h1.of_mem rfl) h1
  · exact Out.ite_canon (h.of_mem rfl) trivial

theorem execQuote_canon {nonce : BitVec 512} (h : s.Canon) : Out.Canon (execQuote part nonce s) := by
  unfold execQuote
  extract_lets body
  clear_value body
  exact Out.ite_canon trivial (Out.ite_canon (h.of_mem rfl) trivial)

theorem serviceTlbi_canon {va : Option DWord} (h : s.Canon) : Out.Canon (s.serviceTlbi part va) :=
  Out.ite_canon trivial (Out.ite_canon (dropTlb_canon h) trivial)

theorem setBreakpoint_canon (h : s.Canon) : Out.Canon (s.setBreakpoint part n v) :=
  Out.ite_canon trivial (Out.ite_canon (modPart_canon h) trivial)

theorem groupError_canon (h : s.Canon) : Out.Canon (s.groupError gid) := by
  unfold State.groupError
  refine Out.ite_canon trivial ?_
  split
  · trivial
  · exact endGroup_canon (setRegs_canon (machineCheck_canon h))

theorem execL2WriteBack_canon {frame : Nat} (h : s.Canon) : Out.Canon (execL2WriteBack part frame s) :=
  Out.ite_canon trivial (Out.ite_canon (modPart_canon h) trivial)

theorem execDirtyHarvest_canon {dword : Nat} (h : s.Canon) : Out.Canon (execDirtyHarvest part dword s) :=
  Out.ite_canon trivial (Out.ite_canon (modPart_canon h) trivial)

end Hardware

/-! Migration: rounds, frames and the image of a partition. -/

section Migration
variable {s : State} {part frame base top task tm core : Nat} {tagOk : Bool} {bytes : List Byte} {seen : List Nat} {b : ImgBody} {x : TeamImage}
  {head : DWord} {r : ImgRec} {name : String} {typ : BitVec 15} {ok : Bool}

theorem execMigrationRound_canon (h : s.Canon) : Out.Canon (execMigrationRound part s) :=
  Out.ite_canon trivial (Out.ite_canon (ite_canon (modPart_canon h) (modPart_canon (nextId_canon h))) trivial)

theorem resumePart_canon (h : s.Canon) : (s.resumePart part).Canon := restoreFitting_canon (modPart_canon h)

theorem giveUp_canon (h : s.Canon) : (s.giveUp part).Canon := ite_canon (resumePart_canon (modPart_canon h)) (modPart_canon h)

theorem frameSent_canon (h : s.Canon) : (s.frameSent part frame tagOk).Canon := by
  unfold State.frameSent
  extract_lets q s1 s2
  have h1 : s1.Canon := h.of_mem rfl
  have h2 : s2.Canon := modPart_canon h1
  exact ite_canon (modPart_canon h1) (ite_canon (giveUp_canon h2) h2)

theorem frameCame_canon (h : s.Canon) : (s.frameCame part frame bytes).Canon := by
  unfold State.frameCame
  extract_lets s0 q s1
  have h0 : s0.Canon := ite_canon (modPart_canon (nextId_canon h)) h
  refine modPart_canon ?_
  unfold s1
  split
  · exact unitWrite_canon h0
  · exact h0

theorem execPrecopyFrame_canon (h : s.Canon) : Out.Canon (execPrecopyFrame part frame bytes tagOk s) :=
  Out.ite_canon trivial (Out.ite_canon (frameSent_canon h) (Out.ite_canon (frameCame_canon h) trivial))

theorem imageRecord_canon (h : s.Canon) : Out.Canon (imageRecord name part typ ok b s) :=
  Out.ite_canon trivial (Out.ite_canon (modPart_canon h) trivial)

theorem execEndOfImage_canon (h : s.Canon) : Out.Canon (execEndOfImage part s) := by
  have h1 := imageRecord_canon (name := "END_OF_IMAGE") (part := part) (typ := endType) (ok := s.imageWhole part) (b := .fin) h
  unfold execEndOfImage
  split
  · next e =>
    rw [e] at h1
    exact modPart_canon h1
  · exact h1

theorem takeTeam_canon (h : s.Canon) : (s.takeTeam x).Canon := h.of_mem rfl

/-- The next state, where there is one, has a memory in canonical form. -/
def SomeCanon (x : Option State) : Prop :=
  match x with
  | some t => t.Canon
  | none => True

theorem SomeCanon.of_some {x : Option State} {t : State} (h : SomeCanon x) (e : x = some t) : t.Canon := by
  subst e
  exact h

theorem someCanon_ite {c : Prop} [Decidable c] {x : Option State} (h : SomeCanon x) : SomeCanon (if c then x else none) := by
  split
  · exact h
  · trivial

theorem takeRecord_canon (h : s.Canon) : SomeCanon (s.takeRecord part base top seen b) := by
  unfold State.takeRecord
  extract_lets mode more ok
  have hmore {n : Nat} {s : State} (h : s.Canon) : SomeCanon (more n s) := modPart_canon h
  cases seen.isEmpty with
  | true => cases b with
    | header => exact someCanon_ite (modPart_canon (modPart_canon (nextId_canon h)))
    | _ => trivial
  | false => cases b with
    | header => trivial
    | team => exact someCanon_ite (hmore (takeTeam_canon h))
    | task => exact someCanon_ite (hmore (h.of_mem rfl))
    | bear => exact someCanon_ite (hmore (modCore_canon h))
    | fin => exact modPart_canon h
    | other => trivial
    | _ => exact hmore (modPart_canon h)

theorem refuseImage_canon (h : s.Canon) : (s.refuseImage part head).Canon := by
  unfold State.refuseImage
  extract_lets s1
  have h1 : s1.Canon := discardAll_canon h
  exact modPart_canon (tasks_clusters_canon h1)

theorem execUnknownRecord_canon (h : s.Canon) : Out.Canon (execUnknownRecord part head s) := by
  unfold execUnknownRecord
  refine Out.ite_canon trivial ?_
  split
  · exact Out.ite_canon trivial (Out.ite_canon (refuseImage_canon h) (modPart_canon h))
  · trivial

theorem recordCame_canon (h : s.Canon) : Out.Canon (s.recordCame part r) := by
  unfold State.recordCame
  refine Out.ite_canon trivial (Out.ite_canon (execUnknownRecord_canon h) ?_)
  split
  · split
    · next e =>
      split at e
      · exact (takeRecord_canon h).of_some e
      · cases e
    · exact Out.ite_canon (refuseImage_canon h) trivial
  · trivial

theorem execImageRefused_canon (h : s.Canon) : Out.Canon (execImageRefused part head s) :=
  Out.ite_canon trivial (Out.ite_canon (telemetry_canon (giveUp_canon h)) trivial)

theorem execSwapIn_canon (h : s.Canon) : Out.Canon (execSwapIn part s) :=
  Out.ite_canon trivial (Out.ite_canon (resumePart_canon h) trivial)

end Migration

/-! What a cycle of a core comes to. -/

section Cycle
variable {s : State} {tm j key c core nb : Nat} {tms : List Nat} {sds : List Side} {b : Barrier} {g : Group}

theorem completeJoin_canon (h : s.Canon) : (s.completeJoin tm j).Canon :=
  foldl_canon (fun _ _ h => unite_canon h) (modMask_canon (foldl_canon (fun _ _ h => modThr_canon h) h))

theorem joins_canon (h : s.Canon) : (s.joins tm).Canon := foldl_canon (fun _ _ h => ite_canon (completeJoin_canon h) h) h

theorem releasePhase_canon (h : s.Canon) : (s.releasePhase tms sds nb b).Canon := h.of_mem rfl

theorem completeBar_canon (h : s.Canon) : (s.completeBar tm key).Canon :=
  ite_canon h (foldl_canon (fun _ _ h => arriveAll_canon h) (modTeam_canon (releasePhase_canon h)))

theorem completeCluster_canon (h : s.Canon) : (s.completeCluster c).Canon := by
  unfold State.completeCluster
  split
  · exact h
  · extract_lets live s1 s2
    have h1 : s1.Canon := ite_canon (releasePhase_canon h) h
    have h2 : s2.Canon := ite_canon (releasePhase_canon h1) h1
    exact foldl_canon (fun _ _ h => foldl_canon (fun _ _ h => arriveAll_canon h) h) (clusters_canon h2)

theorem slipTeam_canon (h : s.Canon) : (s.slipTeam tm).Canon := h.of_mem rfl

theorem endCycle_canon (h : s.Canon) : (s.endCycle core).Canon :=
  foldl_canon (fun _ _ h => completeCluster_canon h) (foldl_canon (fun _ _ h => foldl_canon (fun _ _ h => completeBar_canon h) h)
    (foldl_canon (fun _ _ h => joins_canon h) (foldl_canon (fun _ _ h => slipTeam_canon h) h)))

theorem foxBusy_canon (h : s.Canon) : (s.foxBusy core g).Canon := by
  unfold State.foxBusy
  split
  · exact modCore_canon h
  · exact h

end Cycle
end Sys2Proof.Machine
end

section
namespace Sys2Proof.Machine

/-! The operations that many instructions share, each a case of one of the forms above. -/

section Values
variable {s : State} {p : Pfx} {d : BitVec 7} {a b : Src} {l : List Src} {fm : Fm}

theorem plogOp_canon {a b : BitVec 8} {f : Bool → Bool → Bool} (h : s.Canon) : Out.Canon (plogOp p d a b f s) := valueOp_canon h
theorem cmpOp_canon {f : (w : Nat) → BitVec w → BitVec w → Bool} (h : s.Canon) : Out.Canon (cmpOp p d a b f s) := valueOp_canon h
theorem fcmpOp_canon {quietBad : Bool} {f : FVal → FVal → Bool} (h : s.Canon) : Out.Canon (fcmpOp fm quietBad p d a b f s) := valueOp_canon h
theorem intOp_canon {f : BinOp} (h : s.Canon) : Out.Canon (intOp p d a b f s) := valueOp_canon h
theorem divOp_canon {f : BinOp} (h : s.Canon) : Out.Canon (divOp p d a b f s) := valueOp_canon h
theorem intOp1_canon {f : (w : Nat) → BitVec w → BitVec w} (h : s.Canon) : Out.Canon (intOp1 p d a f s) := valueOp_canon h
theorem intOpC_canon {f : (w : Nat) → BitVec w → BitVec w → BitVec w → BitVec w} (h : s.Canon) : Out.Canon (intOpC p d a b f s) :=
  valueOp_canon h
theorem longOp_canon {f : DWord → DWord → DWord} (h : s.Canon) : Out.Canon (longOp p d l f s) := valueOp_canon h
theorem specialOp_canon {f : Env → Nat → Nat × Env} (h : s.Canon) : Out.Canon (specialOp p d a f s) := valueOp_canon h
theorem fdotOp_canon {n : Nat} (h : s.Canon) : Out.Canon (fdotOp n p d a b s) := valueOp_canon h

theorem shflOp_canon {f : Nat → Word → Int} (h : s.Canon) : Out.Canon (shflOp p d a b f s) := crossOp_canon h
theorem redOp_canon {ty : BitVec 2} {op : RedOp} {f : Nat → Nat → Bool} (h : s.Canon) : Out.Canon (redOp p d a ty op f s) := crossOp_canon h

theorem tatomOp_canon {tr : BitVec 4} {useC : Bool} {f : DWord → DWord → DWord → DWord} (h : s.Canon) :
    Out.Canon (tatomOp p d tr b useC f s) := seqOp_canon (fun _ _ _ h => tatomStep_all h) h

theorem floatOp_canon {pk useC : Bool} {op : FOp} (h : s.Canon) : Out.Canon (floatOp pk fm p d l useC op s) := by
  unfold floatOp
  exact valueOp_canon h

theorem execCvt_canon {rc : BitVec 3} {ty : BitVec 8} (h : s.Canon) : Out.Canon (execCvt p rc d a ty s) := by
  unfold execCvt
  exact valueOp_canon h

theorem execCvtnPk_canon {fmt : BitVec 8} (h : s.Canon) : Out.Canon (execCvtnPk p d a fmt s) := by
  unfold execCvtnPk
  exact valueOp_canon h

theorem execCvtnUp_canon {fmt : BitVec 8} (h : s.Canon) : Out.Canon (execCvtnUp p d a fmt s) := by
  unfold execCvtnUp
  exact valueOp_canon h

end Values

/-! Every instruction and event, then the step. -/

section Step
variable {s t : State} {i : Instr} {gid core source : Nat} {sd : Side} {o : Out} {f : State → State} {g : Group} {a : Act}

theorem exec_canon (h : s.Canon) : Out.Canon (exec i s) := by
  unfold exec
  cases i with
  | br | brp | brpNot => exact branchOp_canon h
  | call => exact execCall_canon h
  | ret => exact execRet_canon h
  | brx => exact execBrx_canon h
  | exit => exact execExit_canon h
  | nop => exact execNop_canon h
  | yield => exact execYield_canon h
  | brk => exact execBrk_canon h
  | trap => exact execTrap_canon h
  | rfhRetry | rfhSkip => exact rfhOp_canon h
  | rfhEnd => exact execRfhEnd_canon h
  | enrol => exact execEnrol_canon h
  | join => exact execJoin_canon h
  | strike => exact execStrike_canon h
  | reform => exact execReform_canon h
  | jmask | jmaskArr => exact jmaskOp_canon h
  | plogAnd | plogOr | plogXor | plogAndn | pmov => exact plogOp_canon h
  | pset | bfi | fclass | fflag | fscl | cvtnPk6 | cvtnUp6 | mxscale | tstamp => exact valueOp_canon h
  | ballot => exact execBallot_canon h
  | cmpEq | cmpNe | cmpLt | cmpLe | cmpGt | cmpGe | cmpLtn | cmpGen => exact cmpOp_canon h
  | fcmpF32Eq | fcmpF32Ne | fcmpF32Lt | fcmpF32Le | fcmpF32Gt | fcmpF32Ge | fcmpF32Un | fcmpF32Or | fcmpF64Eq | fcmpF64Ne | fcmpF64Lt |
    fcmpF64Le | fcmpF64Gt | fcmpF64Ge | fcmpF64Un | fcmpF64Or => exact fcmpOp_canon h
  | add | sub | mul | mulh | mulhN | min | max | minN | maxN | and | or | xor | andn | shl | shr | sra | bfe | bfeN => exact intOp_canon h
  | div | divN | rem | remN => exact divOp_canon h
  | abs | neg | not | mov | popc | clz | brev => exact intOp1_canon h
  | mad | sel | perm => exact intOpC_canon h
  | smov => exact seqOp_canon (fun _ _ _ h => smovStep_all h) h
  | smovHi => exact seqOp_canon (fun _ _ _ h => smovHiStep_all h) h
  | addI64 | subI64 | mulI64 | shlI64 | shrI64 | movI64 => exact longOp_canon h
  | fadd | fsub | fmul | ffma | fmin | fmax | fabs | fneg | faddF16x2 | fsubF16x2 | fmulF16x2 | ffmaF16x2 | fminF16x2 | fmaxF16x2 |
    fabsF16x2 | fnegF16x2 | faddBf16x2 | fsubBf16x2 | fmulBf16x2 | ffmaBf16x2 | fminBf16x2 | fmaxBf16x2 | fabsBf16x2 | fnegBf16x2 |
    faddF64 | fsubF64 | fmulF64 | ffmaF64 | fminF64 | fmaxF64 | fabsF64 | fnegF64 | fdiv => exact floatOp_canon h
  | frcp | frsq | fsqrt | fexp2 | flog2 | frnd => exact specialOp_canon h
  | fdot2 | fdot4 | fdot8 => exact fdotOp_canon h
  | cvt => exact execCvt_canon h
  | cvtnPk => exact execCvtnPk_canon h
  | cvtnUp => exact execCvtnUp_canon h
  | shflI | shflX | shflD => exact shflOp_canon h
  | bcast => exact execBcast_canon h
  | redAdd | redMin | redMax | scanAdd | scanMin | scanMax => exact redOp_canon h
  | tatomWr | tatomAdd | tatomMax | tatomCas => exact tatomOp_canon h
  | sdq | sendx => exact sendOp_canon h
  | qstatE | qstatA => exact qstatOp_canon h
  | qflushE | qflushA => exact flushOp_canon h
  | qend => exact execQend_canon h
  | feed | feedEnd => exact feedOp_canon h
  | recvx => exact execRecvx_canon h
  | ldqB8 | ldqB16 | ldqB32 | ldqB64 | ldqLine => exact ldqOp_canon h
  | ldqK16 => exact execLdqK16_canon h
  | ldI8 | ldN8 | ldI16 | ldN16 | ldI32 | ldN32 | ldB64 => exact loadOp_canon h
  | stB8 | stB16 | stB32 | stB64 => exact storeOp_canon h
  | staB8 | staB16 | staB32 | staB64 => exact staOp_canon h
  | atomAdd | atomMin | atomMinN | atomMax | atomMaxN | atomAnd | atomOr | atomXor | atomXchg | cas => exact atomOp_canon h
  | credAddI32 | credAddF32 | credMinI32 | credMaxI32 | credOrB32 | credAddI64 | credMaxF32 => exact credOp_canon h
  | fence => exact execFence_canon h
  | pref => exact execPref_canon h
  | tgive => exact execTgive_canon h
  | tclaim => exact execTclaim_canon h
  | tchk => exact execTchk_canon h
  | fopen => exact execFopen_canon h
  | fadv => exact execFadv_canon h
  | fend => exact execFend_canon h
  | fclose => exact execFclose_canon h
  | kins => exact execKins_canon h
  | kget => exact execKget_canon h
  | ringClaim => exact ringOp_canon (fun _ _ _ _ _ h => claimStep_all h) h
  | ringPost => exact ringOp_canon (fun _ _ _ _ _ h => postStep_all h) h
  | ringTake => exact ringOp_canon (fun _ _ _ _ _ h => takeStep_all h) h
  | ringFree => exact ringOp_canon (fun _ _ _ _ _ h => freeStep_all h) h
  | kick => exact execKick_canon h
  | mbinit => exact mbOp_canon (fun _ _ _ h => mbinitStep_all h) h
  | mbexp => exact mbOp_canon (fun _ _ _ h => mbexpStep_all h) h
  | mbarr => exact mbOp_canon (fun _ _ _ h => mbarrStep_all h) h
  | mbwait => exact mbOp_canon (fun _ _ _ h => mbwaitStep_all h) h
  | xform => exact execXform_canon h
  | arrive | arwait => exact arriveOp_canon h
  | bwait => exact execBwait_canon h
  | ngetB32 => exact execNgetB32_canon h
  | nsend => exact execNsend_canon h
  | nfence => exact execNfence_canon h
  | kvlk => exact kvOp_canon (fun _ _ _ h => kvlkFind_all h) h
  | kvins => exact kvOp_canon (fun _ _ _ h => kvinsStep_all h) h
  | kvdel => exact kvOp_canon (fun _ _ _ h => kvdelStep_all h) h
  | kvref => exact kvOp_canon (fun _ _ _ h => kvrefStep_all h) h
  | kvpos => exact kvOp_canon (fun _ _ _ h => kvposStep_all h) h
  | kvq => exact execKvq_canon h
  | mcv => exact execMcv_canon h
  | mma | mmaMinplus | mmaMaxtimes | mmaOrand | mmaStage => exact mmaOp_canon h
  | mzero | smrg | smfin => exact bearOp_canon (fun _ _ => enterGo_canon h) h
  | mrdF32 | mrdSt => exact readOp_canon h
  | mwrF32 | mwrSt => exact writeOp_canon h
  | mcont => exact execMcont_canon h
  | mscl => exact execMscl_canon h
  | smx => exact execSmx_canon h
  | tenq => exact execTenq_canon h
  | vabort => exact execVabort_canon h
  | rdsr => exact execRdsr_canon h
  | wrsr => exact execWrsr_canon h
  | tlbi => exact execTlbi_canon h
  | tlbiAll => exact execTlbiAll_canon h
  | mcallTelemetry => exact mcallOp_canon (fun _ _ _ h => telemetryCall_all h) h
  | mcallLocate => exact mcallOp_canon (fun _ _ _ h => locateCall_all h) h
  | mcallPeer => exact mcallOp_canon (fun _ _ _ h => peerCall_all h) h
  | reconvergenceTimeout => exact execReconvergenceTimeout_canon h
  | binAgeDraw => exact execBinAgeDraw_canon h
  | yieldExpiry => exact execYieldExpiry_canon h
  | taskEnded => exact execTaskEnded_canon h
  | drain => exact execDrain_canon h
  | merge => exact execMerge_canon h
  | ldqFill => exact execLdqFill_canon h
  | translationComplete => exact execTranslationComplete_canon h
  | pendingFaultDelivery => exact execPendingFaultDelivery_canon h
  | queueDeadlock => exact execQueueDeadlock_canon h
  | streamElement => exact execStreamElement_canon h
  | mmaComplete => exact execMmaComplete_canon h
  | bearCommandComplete => exact execBearCommandComplete_canon h
  | bearFault => exact execBearFault_canon h
  | copyRow => exact execCopyRow_canon h
  | settPairPass => exact execSettPairPass_canon h
  | returnMerge => exact execReturnMerge_canon h
  | kvqComplete => exact execKvqComplete_canon h
  | kvqFail => exact execKvqFail_canon h
  | nsendRow => exact execNsendRow_canon h
  | rowAck => exact execRowAck_canon h
  | remoteRowArrival => exact execRemoteRowArrival_canon h
  | remoteTimeout | remoteRefused => exact remoteFail_canon h
  | remoteRead => exact execRemoteRead_canon h
  | ngetResponse => exact execNgetResponse_canon h
  | mcallAnswer => exact execMcallAnswer_canon h
  | expertStarved => exact execExpertStarved_canon h
  | breakpointMatch => exact execBreakpointMatch_canon h
  | resume => exact execResume_canon h
  | stepGroup => exact execStepGroup_canon h
  | submit => exact execSubmit_canon h
  | registerWrite => exact execRegisterWrite_canon h
  | hostApertureWrite => exact execHostApertureWrite_canon h
  | hostApertureRead => exact execHostApertureRead_canon h
  | commit => exact execCommit_canon h
  | successorDecrement => exact execSuccessorDecrement_canon h
  | bindRecord => exact execBindRecord_canon h
  | teamStart => exact execTeamStart_canon h
  | eviction => exact execEviction_canon h
  | groupSave => exact execGroupSave_canon h
  | thermalMigration => exact execThermalMigration_canon h
  | lentTileDrain => exact execLentTileDrain_canon h
  | l2WriteBack => exact execL2WriteBack_canon h
  | scrubError => exact execScrubError_canon h
  | dirtyHarvest => exact execDirtyHarvest_canon h
  | swapOut => exact execSwapOut_canon h
  | swapIn => exact execSwapIn_canon h
  | migrationRound => exact execMigrationRound_canon h
  | precopyFrame => exact execPrecopyFrame_canon h
  | partitionHeader | teamContext | taskRecord | bearContinuation | lynxFlows | timeRecord | telemetryRingTail | bearCheckStatistics =>
    exact imageRecord_canon h
  | endOfImage => exact execEndOfImage_canon h
  | unknownRecord => exact execUnknownRecord_canon h
  | quote => exact execQuote_canon h
  | ecideHandover => exact execEcideHandover_canon h
  | partitionCreate => exact execPartitionCreate_canon h
  | partitionResize => exact execPartitionResize_canon h
  | partitionDelete => exact execPartitionDelete_canon h
  | coreRetirement => exact execCoreRetirement_canon h
  | pseudoChannelRetirement => exact execPseudoChannelRetirement_canon h
  | lynxLaneDegrade => exact execLynxLaneDegrade_canon h
  | pcieDegrade => exact execPcieDegrade_canon h
  | hbmRecalibration => exact execHbmRecalibration_canon h
  | powerCap => exact execPowerCap_canon h
  | coolantOverLimit => exact execCoolantOverLimit_canon h
  | powerGood => exact execPowerGood_canon h
  | powerRemoved => exact execPowerRemoved_canon h
  | decodeFault => exact execDecodeFault_canon h
  | gtcIncrement => exact execGtcIncrement_canon h
  | hostStoreCompletion => exact execHostStoreCompletion_canon h
  | imageRefused => exact execImageRefused_canon h
  | tilraxDbgSession => exact execTilraxDbgSession_canon h

/-- The state that an issue hands on, to be executed or done. -/
def Issued.Canon (x : Issued) : Prop :=
  match x with
  | .done t => t.Canon
  | .exec _ t => t.Canon

theorem fetchExec_canon (h : s.Canon) : (s.fetchExec gid).Canon := by
  unfold State.fetchExec
  extract_lets
  split
  · exact h.of_mem rfl
  · split
    · exact raise_canon h
    · simp only
      split
      · exact h.of_mem rfl
      · exact h.of_mem rfl

theorem issue_canon (h : s.Canon) : (s.issue gid).Canon := by
  unfold State.issue
  split
  · exact h
  · extract_lets s0
    have h0 : s0.Canon := noteIssue_canon h
    split
    · have h1 := enter_canon (gid := gid) h0
      split
      · next e =>
        rw [e] at h1
        exact h1
      · next e =>
        rw [e] at h1
        exact fetchExec_canon h1
    · exact fetchExec_canon h0

theorem finish_canon (h : Out.Canon o) : Out.Canon (finish o) := by
  cases o with
  | next t => exact State.Canon.of_mem h rfl
  | _ => trivial

theorem andThen_canon (h : Out.Canon o) (hf : ∀ t, t.Canon → (f t).Canon) : Out.Canon (andThen o f) := by
  cases o with
  | next t => exact hf t h
  | _ => trivial

theorem afterIssue_canon (h : s.Canon) : (s.afterIssue core g).Canon := stepDone_canon (foxBusy_canon h)

theorem runIssue_canon (h : s.Canon) : Out.Canon (s.runIssue gid) := by
  have h1 := issue_canon (gid := gid) h
  unfold State.runIssue
  extract_lets
  split
  · next e =>
    rw [e] at h1
    exact afterIssue_canon h1
  · next e =>
    rw [e] at h1
    exact andThen_canon (exec_canon h1) fun _ h => afterIssue_canon h

theorem endMates_canon (h : t.Canon) : (s.endMates gid t).Canon := by
  refine ite_canon (foldl_canon (fun t k h => ?_) h) h
  split
  · split
    · split
      · exact telemetry_canon h
      · exact h
    · exact h
  · exact h

theorem closeIssues_canon (h : s.Canon) : (s.closeIssues core).Canon := ite_canon (flushFiling_canon h) h

theorem turnOf_canon (h : s.Canon) : Out.Canon (s.turnOf gid) :=
  andThen_canon (Out.ite_canon (andThen_canon (runIssue_canon h) fun _ h => endMates_canon h) h) fun _ h => closeIssues_canon h

theorem operandWait_canon (h : s.Canon) : SomeCanon (s.operandWait gid) := by
  unfold State.operandWait
  split
  · exact someCanon_ite (foldl_canon (fun _ _ h => modThr_canon h) h)
  · trivial

theorem readyOn_carries (h : s.Canon) : Carries (s.readyOn core sd) := by
  refine foldl_carries (fun r k hr => ?_) h
  split
  · exact (operandWait_canon hr).of_some ‹_›
  · exact hr

theorem chooseOn_canon (h : s.Canon) : (s.chooseOn core).Canon := by
  have h2 : ((s.readyOn core .e).2.readyOn core .a).2.Canon := readyOn_carries (readyOn_carries h)
  exact h2.of_mem rfl

theorem beginTurn_canon (h : s.Canon) : s.beginTurn.Canon := h.of_mem rfl

theorem fromSource_canon {o : State → Out} (ho : ∀ s, s.Canon → Out.Canon (o s)) (h : s.Canon) : Out.Canon (s.fromSource source o) :=
  ho _ (h.of_mem rfl)

theorem nextCycle_canon (h : s.Canon) : Out.Canon s.nextCycle := by
  unfold State.nextCycle
  split
  · exact exec_canon h
  · next c k rest _ =>
    have h1 : ({ s with plan := rest, turn := s.srcCore c, cycleOf := some c, cycle := k - 1 } : State).Canon := h
    exact (endCycle_canon (core := c) h1).of_mem rfl

theorem free_canon (h : s.Canon) : Out.Canon s.free := by
  unfold State.free
  refine Out.ite_canon (beginTurn_canon h) ?_
  split
  · next c _ =>
    split
    · exact exec_canon h
    · exact (chooseOn_canon (core := c) h).of_mem rfl
  · extract_lets evs
    clear_value evs
    split
    · exact fromSource_canon (fun _ h => exec_canon h) h
    · exact nextCycle_canon h

theorem act_canon (h : s.Canon) : Out.Canon (s.act a) := by
  cases a with
  | issue => exact turnOf_canon h
  | ev => exact exec_canon h
  | tlbi => exact serviceTlbi_canon h
  | breakpoint => exact setBreakpoint_canon h
  | registerRead => exact readPort_canon h
  | groupError => exact groupError_canon h
  | record => exact recordCame_canon h

theorem own_canon (h : s.Canon) : Out.Canon s.own := by
  unfold State.own
  refine Out.ite_canon trivial ?_
  split
  · next rest _ =>
    have h1 : ({ s with due := rest } : State).Canon := h
    exact turnOf_canon h1
  · exact free_canon h

theorem advance_canon (h : s.Canon) : Out.Canon s.advance := by
  unfold State.advance
  split
  · next rest _ =>
    have h1 : ({ s with agenda := rest } : State).Canon := h
    refine Out.ite_canon ?_ (own_canon h)
    split
    · exact turnOf_canon h1
    · exact fromSource_canon (fun _ h => act_canon h) h1
  · exact own_canon h

theorem step_canon (h : s.Canon) : Out.Canon (step s) := finish_canon (advance_canon h)

end Step
end Sys2Proof.Machine

/-- Settles O5: bytes of memory change by `writeByte` alone, which keeps the canonical form, and where power goes entries are left out. -/
theorem stepKeepsMemory : Obligations.StepKeepsMemory := by
  intro s t h e
  have ht := Sys2Proof.Machine.step_canon h
  rw [e] at ht
  exact ht

end

section
/-! The instructions on registers that a team shares. -/

namespace Sys2Proof.Machine

open Sys2Proof.Safety

/-- An instruction that reads sources and acts on what its team shares holds as the row of its operands says. -/
theorem seqOp_holds {i : Instr} {need : SideReq} {priv : Bool} {p : Pfx} {srcs : Side → List (OTy × Src)} {ok : State → Cur → Bool}
    {z : Side → Thread → Thread} {f : State → Nat → List DWord → Try State} (he : ∀ s, exec i s = seqOp need priv p srcs ok z f s)
    (hz : ∀ sd t, z sd (z sd t) = z sd t) : (sharedRow need priv p srcs ok z f).Holds i :=
  holds_of_seq _ (fun c => readThen (srcs c.side) f) _ he (fun _ _ h => h) (fun _ _ _ _ h => h) hz

/-- So does one application to a team register, where the row's function is the instruction's (R396, R397). -/
theorem tatomOp_holds {i : Instr} {p : Pfx} {d : BitVec 7} {tr : BitVec 4} {b : Src} {useC : Bool} (g f : DWord → DWord → DWord → DWord)
    (he : ∀ s, exec i s = tatomOp p d tr b useC g s) (h : ∀ o x y, f o x y = g o x y) : (tatomRowOf p d tr b useC f).Holds i := by
  obtain rfl : f = g := funext fun o => funext fun x => funext (h o x)
  exact seqOp_holds he (fun sd t => setD_idem sd false d 0 t)

/-- The larger of two dwords, signed, by either order of the comparison. -/
theorem larger_eq (o x : DWord) : (if x.toInt ≤ o.toInt then o else x) = if o.slt x then x else o := by
  by_cases h : x.toInt ≤ o.toInt
  · simp [BitVec.slt, h, Int.not_lt.mpr h]
  · simp [BitVec.slt, h, Int.not_le.mp h]

end Sys2Proof.Machine

open Sys2Proof.Machine Sys2Proof.Safety

/-- Settles O26: each instruction is the shared operation of its row, with Table 23-7's function. -/
theorem teamRegisters : Obligations.TeamRegisters := by
  intro i r hr
  unfold teamRow at hr
  split at hr <;> simp only [Option.some.injEq, reduceCtorEq] at hr <;> subst hr
  case h_1 => exact seqOp_holds (fun _ => rfl) (fun _ _ => rfl)
  case h_2 => exact seqOp_holds (fun _ => rfl) (fun _ _ => rfl)
  case h_3 => exact tatomOp_holds (fun _ x _ => x) _ (fun _ => rfl) (fun _ _ _ => rfl)
  case h_4 => exact tatomOp_holds (fun o x _ => o + x) _ (fun _ => rfl) (fun _ _ _ => rfl)
  case h_5 => exact tatomOp_holds (fun o x _ => if o.slt x then x else o) _ (fun _ => rfl) (fun o x _ => larger_eq o x)
  case h_6 => exact tatomOp_holds (fun o x c => if o = c then x else o) _ (fun _ => rfl) (fun _ _ _ => rfl)
end

section
/-! Groups: what stays while groups arrive before headers, and what a group comes to whose threads part. -/

namespace Sys2Proof.Machine

open Sys2Proof.Safety

theorem mem_of_issues {s : State} {c : Cur} {act : List Nat} {need : SideReq} {priv : Bool} {p : Pfx} (h : Issues s c act need priv p) :
    ∀ u ∈ act, u ∈ (s.grp c.gid).members := by
  obtain ⟨-, -, rfl, -⟩ := h
  exact fun _ => mem_activeOf

theorem ne_nil_of_issues {s : State} {c : Cur} {act : List Nat} {need : SideReq} {priv : Bool} {p : Pfx} (h : Issues s c act need priv p) :
    act ≠ [] := by
  obtain ⟨-, -, -, hn, -⟩ := h
  exact hn

/-- A group that stands in no split record, or that is not there at all. -/
def Unsplit (o : Option Group) : Prop := ∀ g, o = some g → g.stack = []

theorem unsplit_some {g : Group} (h : g.stack = []) : Unsplit (some g) := fun _ e => Option.some.inj e ▸ h

theorem unsplit_ite {p : Prop} [Decidable p] {o : Option Group} (h : Unsplit o) : Unsplit (if p then none else o) := by
  split
  · exact fun _ e => nomatch e
  · exact h

theorem kget_mapValues {α : Type} (m : KMap α) (f : α → α) (k : Nat) : kget (m.map (fun e => (e.1, f e.2))) k = (kget m k).map f := by
  induction m with
  | nil => rfl
  | cons e t ih =>
    by_cases h : e.1 = k
    · simp [kget, h]
    · simp [kget, h, ih]

/-- A group that stands in no record does not wait at its header. -/
theorem waiting_of_unsplit {s : State} {k : Nat} (h : Unsplit (kget s.groups k)) : s.waiting (s.grp k) = false := by
  unfold State.grp kgetD
  cases hk : kget s.groups k with
  | none => simp [State.waiting, noGroup]
  | some g => simp [State.waiting, h g hk]

theorem not_mem_waitersOf {s : State} {k sid : Nat} (h : Unsplit (kget s.groups k)) : k ∉ s.waitersOf sid := by
  simp [State.waitersOf, waiting_of_unsplit h]

theorem uniteTwo_kget_ne (s : State) {a b k : Nat} (ha : k ≠ a) (hb : k ≠ b) : kget (s.uniteTwo a b).groups k = kget s.groups k :=
  (kget_kdel_ne _ b k hb).trans (kget_kmod_ne s.groups a k _ ha)

/-- Joining groups leaves every other group alone. -/
theorem unite_kget_ne (s : State) {gs : List Nat} {k : Nat} (hk : k ∉ gs) : kget (s.unite gs).groups k = kget s.groups k := by
  unfold State.unite
  refine List.foldlRecOn (motive := fun x : State => kget x.groups k = kget s.groups k) _ _ rfl (fun x hx kind _ => ?_)
  split
  · exact hx
  next a rest he =>
    have hin : ∀ b ∈ a :: rest, b ∈ gs := fun b hb => (List.mem_filter.mp (he ▸ hb)).1
    have hne : ∀ b ∈ a :: rest, k ≠ b := fun b hb e => hk (e ▸ hin b hb)
    exact List.foldlRecOn (motive := fun y : State => kget y.groups k = kget s.groups k) _ _ hx (fun y hy b hb =>
      (uniteTwo_kget_ne y (hne a List.mem_cons_self) (hne b (List.mem_cons_of_mem _ hb))).trans hy)

theorem dropSplit_kget (s : State) {k : Nat} (sid : Nat) (h : Unsplit (kget s.groups k)) :
    kget (s.dropSplit sid).groups k = kget s.groups k := by
  refine (kget_mapValues s.groups (fun g => { g with stack := g.stack.filter (· != sid) }) k).trans ?_
  cases hk : kget s.groups k with
  | none => rfl
  | some g =>
    have hg : g.stack.filter (· != sid) = g.stack := by simp [h g hk]
    simp [hg]

/-- The fusing of a record leaves a group alone that stands in none. -/
theorem checkSplit_kget (s : State) {k : Nat} (sid : Nat) (h : Unsplit (kget s.groups k)) :
    kget (s.checkSplit sid).groups k = kget s.groups k := by
  unfold State.checkSplit
  split
  · rfl
  · dsimp only
    split
    · have hu := unite_kget_ne s (not_mem_waitersOf (sid := sid) h)
      exact (dropSplit_kget _ sid (hu ▸ h)).trans hu
    · rfl

/-- So does a group's arrival before a header, and that of all groups of a team. -/
theorem arriveHdr_kget (n : Nat) : ∀ (s : State) (gid : Nat) {k : Nat}, Unsplit (kget s.groups k) →
    kget (s.arriveHdr gid n).groups k = kget s.groups k := by
  induction n with
  | zero => exact fun _ _ _ _ => rfl
  | succ n ih =>
    intro s gid k h
    unfold State.arriveHdr
    dsimp only
    split
    · rfl
    · split
      · rfl
      next sid _ _ =>
        have h1 : ∀ m : KMap Split, kget (State.checkSplit { s with splits := m } sid).groups k = kget s.groups k :=
          fun m => checkSplit_kget { s with splits := m } sid h
        split
        · exact h1 _
        · exact List.foldlRecOn (motive := fun x : State => kget x.groups k = kget s.groups k) _ _ (h1 _)
            (fun x hx g _ => (ih x g (hx ▸ h)).trans hx)

theorem arriveAll_kget (s : State) (tm : Nat) (sd : Side) {k : Nat} (h : Unsplit (kget s.groups k)) :
    kget (s.arriveAll tm sd).groups k = kget s.groups k := by
  unfold State.arriveAll
  exact List.foldlRecOn (motive := fun x : State => kget x.groups k = kget s.groups k) _ _ rfl
    (fun x hx g _ => (arriveHdr_kget _ x g (hx ▸ h)).trans hx)

theorem grp_of_kget {s : State} {k : Nat} {g : Group} (h : kget s.groups k = some g) : s.grp k = g := by
  simp [State.grp, kgetD, h]

/-- A group without some of its threads. -/
def Group.without (g : Group) (ts : List Nat) : Group := { g with members := g.members.filter (fun u => !ts.contains u) }

/-- What is left of a group when threads are taken out: it is gone where none stays. -/
theorem takeOut_kget {s : State} {gid : Nat} {g : Group} (ts : List Nat) (h : kget s.groups gid = some g) :
    kget (s.takeOut gid ts).groups gid =
      if (g.without ts).members = [] then none else some (g.without ts) := by
  have hm : kget (s.modGrp gid (fun x => x.without ts)).groups gid =
      some (g.without ts) := by
    simp [State.modGrp, kget_kmod_same, h]
  have ht : s.takeOut gid ts = if ((s.modGrp gid (fun x => x.without ts)).grp gid).members.isEmpty
      then { s with groups := kdel (s.modGrp gid (fun x => x.without ts)).groups gid } else s.modGrp gid (fun x => x.without ts) := rfl
  rw [ht, grp_of_kget hm]
  by_cases he : (g.without ts).members = []
  · rw [if_pos he, if_pos (by rw [he]; rfl)]
    exact kget_kdel_same _ _
  · rw [if_neg he, if_neg (by simpa using he)]
    exact hm

theorem takeOut_only (s : State) (gid : Nat) (ts : List Nat) : OnlyGroups s (s.takeOut gid ts) := by
  unfold State.takeOut; dsimp only; split <;> rfl

theorem OnlyGroups.nextId {s t : State} (h : OnlyGroups s t) : t.nextId = s.nextId := by rw [← h]

/-- What `join` and the waits at a barrier do to a group `g` whose threads `ts` have parked: unless the whole group has, they stand apart in
a group of their own; what is left and what has parted go on alike. -/
def State.standApart (s : State) (g : Group) (gid : Nat) (ts : List Nat) (whole : Bool) (on : Group → Group) : State :=
  (if whole then s else (s.takeOut gid ts).newGroup { on g with members := ts }).modGrp gid on

section StandApart
variable (s : State) (g : Group) (gid : Nat) (ts : List Nat) (on : Group → Group)

theorem standApart_moves (whole : Bool) : OnlyMoves s (s.standApart g gid ts whole on) := by
  refine OnlyMoves.trans ?_ (modGrp_moves _ gid on)
  split
  · exact .refl s
  · exact (takeOut_moves s gid ts).trans (newGroup_moves _ _)

theorem standApart_thr (whole : Bool) (k : Nat) : (s.standApart g gid ts whole on).thr k = s.thr k := by
  cases whole
  · exact (takeOut_only s gid ts).thr k
  · rfl

theorem standApart_whole : kget (s.standApart g gid ts true on).groups gid = (kget s.groups gid).map on := kget_kmod_same _ _ _

variable {gid}

theorem standApart_rest (hn : gid < s.nextId) {x : Group} (h : kget s.groups gid = some x) :
    kget (s.standApart g gid ts false on).groups gid =
      if (x.without ts).members = [] then none else some (on (x.without ts)) := by
  have hid := (takeOut_only s gid ts).nextId
  have hne : gid ≠ (s.takeOut gid ts).nextId := by omega
  refine (kget_kmod_same _ gid on).trans ?_
  simp only [Bool.false_eq_true, if_false, State.newGroup]
  rw [kget_kput_ne _ _ _ _ hne, takeOut_kget ts h]
  split <;> rfl

theorem standApart_new (hn : gid < s.nextId) : kget (s.standApart g gid ts false on).groups s.nextId = some { on g with members := ts } := by
  have hid := (takeOut_only s gid ts).nextId
  refine (kget_kmod_ne _ gid s.nextId on (by omega)).trans ?_
  simp only [Bool.false_eq_true, if_false, State.newGroup, hid]
  exact kget_kput_same _ _ _

end StandApart

/-- The threads of the issuing group have completed the instruction, and some of them park. -/
def State.completedParking (s : State) (c : Cur) (ts : List Nat) (pk : Park) : State :=
  ts.foldl (fun s t => s.modThr (c.key t) (fun th => { th with park := pk })) (s.completed c.tm c.side (s.grp c.gid).members (s.grp c.gid).priv)

section CompletedParking
variable (s : State) (c : Cur) (ts : List Nat) (pk : Park)

theorem completedParking_eq : s.completedParking c ts pk = { s with threads := (s.completedParking c ts pk).threads } := by
  unfold State.completedParking
  rw [foldl_modThr_threads ts c.key (fun _ th => { th with park := pk }), completed_eq]

theorem completedParking_moves : OnlyMoves s (s.completedParking c ts pk) := by
  rw [completedParking_eq]; rfl

theorem completedParking_groups : (s.completedParking c ts pk).groups = s.groups := by rw [completedParking_eq]
theorem completedParking_nextId : (s.completedParking c ts pk).nextId = s.nextId := by rw [completedParking_eq]

variable {s c ts}

theorem completedParking_park {u : Nat} (h : u ∈ ts) : ((s.completedParking c ts pk).thr (c.key u)).park = pk := by
  unfold State.completedParking
  rw [foldl_modThr_mem ts c.key (fun th => { th with park := pk }) (fun _ => rfl) _ _ ⟨u, h, rfl⟩]

theorem completedParking_others {u : Nat} (hm : u ∈ (s.grp c.gid).members) (hu : u ∉ ts) :
    (s.completedParking c ts pk).thr (c.key u) = doneThread (s.grp c.gid).priv (s.thr (c.key u)) := by
  unfold State.completedParking
  rw [foldl_modThr_ne ts c.key (fun _ th => { th with park := pk }) _ (c.key u) (fun t ht e => hu (key_inj e ▸ ht)), completed_thr]
  exact if_pos ⟨u, hm, rfl⟩

theorem completedParking_outside {k : Nat} (hts : ∀ u ∈ ts, u ∈ (s.grp c.gid).members) (h : Outside s c k) :
    (s.completedParking c ts pk).thr k = s.thr k := by
  unfold State.completedParking
  rw [foldl_modThr_ne ts c.key (fun _ th => { th with park := pk }) _ _ (fun t ht => h t (hts t ht)), completed_thr]
  exact if_neg (fun ⟨u, hu, e⟩ => h u hu e)

end CompletedParking

/-- A change of a team that leaves its scratchpad alone changes no byte of memory. -/
theorem readM_modTeam (s : State) (tm : Nat) (f : Team → Team) (hf : ∀ x, (f x).scratch = x.scratch) (l : Loc) :
    (s.modTeam tm f).readM l = s.readM l := by
  cases l with
  | hbm | host => rfl
  | scratch n off =>
    show kgetD ((s.modTeam tm f).team n).scratch off 0 = kgetD (s.team n).scratch off 0
    by_cases hn : n = tm
    · subst hn
      cases ht : kget s.teams n with
      | some x => rw [State.team_modTeam_same s n f (by simp [ht]), hf]
      | none => simp [State.team, State.modTeam, kmod, ht]
    · rw [State.team_modTeam_ne s tm n f hn]

end Sys2Proof.Machine
end

section
/-! `join`: the sets of a rejoin mask, and where the threads of the group stand. -/

namespace Sys2Proof.Machine

open Sys2Proof.Safety

theorem setBit_true_getLsbD {w : Nat} (b : BitVec w) (n i : Nat) (hi : i < w) :
    (setBit b n true).getLsbD i = (decide (n = i) || b.getLsbD i) := by
  have h : ((1#w <<< n).getLsbD i) = decide (n = i) := by
    rw [BitVec.getLsbD_shiftLeft, BitVec.getLsbD_one]
    by_cases e : n = i
    · subst e; simp; omega
    · simp [e]; omega
  simp only [setBit, if_true, BitVec.getLsbD_or, h, Bool.or_comm]

/-- Setting the bits of a list of numbers adds exactly them. -/
theorem setBits_getLsbD {w : Nat} (l : List Nat) (b : BitVec w) (i : Nat) (hi : i < w) :
    (l.foldl (fun b t => setBit b t true) b).getLsbD i = (l.contains i || b.getLsbD i) := by
  induction l generalizing b with
  | nil => simp
  | cons n t ih =>
    rw [List.foldl_cons, ih, setBit_true_getLsbD b n i hi]
    by_cases e : n = i
    · simp [e]
    · simp [e, Ne.symm e]

theorem jmask_modMask (s : State) (tm j : Nat) (f : JMask → JMask) (h : (kget s.teams tm).isSome) :
    ((s.modMask tm j f).team tm).jmask j = f ((s.team tm).jmask j) := by
  unfold State.modMask
  rw [State.team_modTeam_same s tm _ h]
  exact kgetD_kput_same _ _ _ _

theorem readM_modMask (s : State) (tm j : Nat) (f : JMask → JMask) (l : Loc) : (s.modMask tm j f).readM l = s.readM l :=
  readM_modTeam s tm (fun t => { t with jm := kput t.jm j (f (t.jmask j)) }) (fun _ => rfl) l

/-- Where a group goes after the issuing instruction, out of every record. -/
def Group.leaving (c : Cur) (priv : Bool) (x : Group) : Group := { x.goto (c.after priv) with stack := [] }

theorem leaving_pc (c : Cur) (priv : Bool) (x : Group) : (x.leaving c priv).pc = c.next := by
  simp only [Group.leaving, Group.goto, Cur.after]; split <;> rfl

/-- The enrolled ones of some threads. -/
def JMask.among (m : JMask) (act : List Nat) : List Nat := act.filter (fun t => m.enrolled.getLsbD t)

/-- The mask after the arrivals of a `join`: which bits, and with what clocks. -/
def JMask.join (m : JMask) (s : State) (c : Cur) (en : List Nat) : JMask :=
  { m with arrived := en.foldl (fun b t => setBit b t true) m.arrived,
           clk := en.foldl (fun b t => clkJoin b (s.thr (c.key t)).clk) m.clk }

/-- The state after a `join` at which the threads `en` arrive, before its group's siblings arrive at their headers. -/
def State.joined (s : State) (c : Cur) (j : Nat) (en : List Nat) : State :=
  ((s.modMask c.tm j (fun m => m.join s c en)).completedParking c en (.joined j)).standApart (s.grp c.gid) c.gid en en.isEmpty
    (Group.leaving c (s.grp c.gid).priv)

theorem execJoin_ok {s : State} {c : Cur} {p : Pfx} {act : List Nat} (j : BitVec 4) (h : Issues s c act .eOnly false p) (hf : Falls s c)
    (hs : (s.grp c.gid).stack = []) :
    exec (.join p j) s = .next ((s.joined c j.toNat (((s.team c.tm).jmask j.toNat).among act)).arriveAll c.tm c.side) := by
  have hx : exec (.join p j) s = .next ((s.joined c j.toNat (((s.team c.tm).jmask j.toNat).among act)).leaveRecords c.tm c.side
      (s.grp c.gid).stack (s.grp c.gid).members) := by
    show execJoin p j s = _
    unfold execJoin State.joined State.standApart State.completedParking
    rw [withIssue_ok h hf rfl, State.modMask, State.modTeam_grp]
    rfl
  rw [hx, hs]
  rfl

section Joined
variable {s : State} {c : Cur} (j : Nat) {en : List Nat}

theorem joined_moves : OnlyMoves (s.modMask c.tm j (fun m => m.join s c en)) (s.joined c j en) :=
  (completedParking_moves _ c en _).trans (standApart_moves _ _ _ _ _ _)

theorem joined_thr (k : Nat) :
    (s.joined c j en).thr k = ((s.modMask c.tm j (fun m => m.join s c en)).completedParking c en (.joined j)).thr k :=
  standApart_thr _ _ _ _ _ _ k

/-- Where none is enrolled the whole group goes on. -/
theorem joined_none {g : Group} (hg : kget s.groups c.gid = some g) :
    kget (s.joined c j []).groups c.gid = some (g.leaving c g.priv) := by
  refine (standApart_whole _ _ _ _ _).trans ?_
  rw [completedParking_groups, grp_of_kget hg]
  exact congrArg (Option.map _) hg

variable (hn : c.gid < s.nextId) (he : en ≠ [])
include hn he

theorem joined_rest {g : Group} (hg : kget s.groups c.gid = some g) : kget (s.joined c j en).groups c.gid =
    if (g.without en).members = [] then none else some ((g.without en).leaving c g.priv) := by
  unfold State.joined
  rw [List.isEmpty_eq_false_iff.mpr he, grp_of_kget hg]
  exact standApart_rest _ g en _ (by rw [completedParking_nextId]; exact hn) (by rw [completedParking_groups]; exact hg)

theorem joined_new : kget (s.joined c j en).groups s.nextId = some { (s.grp c.gid).leaving c (s.grp c.gid).priv with members := en } := by
  unfold State.joined
  rw [List.isEmpty_eq_false_iff.mpr he]
  have h := standApart_new ((s.modMask c.tm j (fun m => m.join s c en)).completedParking c en (.joined j)) (s.grp c.gid) (gid := c.gid) en
    (Group.leaving c (s.grp c.gid).priv) (by rw [completedParking_nextId]; exact hn)
  rw [completedParking_nextId] at h
  exact h

end Joined

end Sys2Proof.Machine

open Sys2Proof.Machine Sys2Proof.Safety

/-- Settles O38: the mask's sets change as the arrivals say, and a group without split record keeps its place while others arrive. -/
theorem join : Obligations.Join := by
  intro s c p j act g hi hl hg hst hn htm
  obtain rfl : s.grp c.gid = g := grp_of_kget hg
  have hf : Falls s c := by simp [Falls, hl]
  intro m en rest
  let t := (s.joined c j.toNat en).arriveAll c.tm c.side
  have hu : OnlyGroups (s.joined c j.toNat en) t := arriveAll_only _ _ _
  have hmv : OnlyMoves (s.modMask c.tm j.toNat (fun m => m.join s c en)) t := (joined_moves j.toNat).trans hu.moves
  have hmask : (t.team c.tm).jmask j.toNat = m.join s c en := by
    rw [hmv.team, jmask_modMask s c.tm j.toNat _ htm]
  have hthr : ∀ k, t.thr k = _ := fun k => (hu.thr k).trans (joined_thr j.toNat k)
  refine ⟨t, execJoin_ok j hi hf hst, hmv.pairs, fun l => (hmv.readM l).trans (readM_modMask s c.tm _ _ l), by rw [hmask]; rfl,
    fun i hb => by rw [hmask]; exact setBits_getLsbD en m.arrived i hb, ?_, ?_⟩
  · intro he
    have h1 : kget t.groups c.gid = some ((s.grp c.gid).leaving c (s.grp c.gid).priv) := by
      have h0 := joined_none j.toNat hg
      rw [← he] at h0
      exact (arriveAll_kget _ _ _ (h0 ▸ unsplit_some rfl)).trans h0
    rw [grp_of_kget h1]
    exact ⟨leaving_pc _ _ _, rfl, fun u hu => (hthr _).trans (completedParking_others _ hu (by simp [he]))⟩
  · intro he
    have h0 := joined_new j.toNat hn he
    have h1 : kget t.groups s.nextId = _ := (arriveAll_kget _ _ _ (h0 ▸ unsplit_some rfl)).trans h0
    have h2 := joined_rest j.toNat hn he hg
    have h3 : kget t.groups c.gid = _ := (arriveAll_kget _ _ _ (h2 ▸ unsplit_ite (unsplit_some rfl))).trans h2
    refine ⟨fun u hu => by rw [hthr]; exact completedParking_park _ hu, ?_, ?_, ?_, ?_, ?_, ?_⟩
    · rw [grp_of_kget h1]
    · rw [grp_of_kget h1]; exact leaving_pc c _ (s.grp c.gid)
    · rw [grp_of_kget h1]; rfl
    · intro u hu
      obtain ⟨hmem, hnot⟩ := List.mem_filter.mp hu
      exact (hthr _).trans (completedParking_others _ hmem (by simpa using hnot))
    · exact fun hr => h3.trans (if_pos hr)
    · intro hr
      rw [grp_of_kget (h3.trans (if_neg hr))]
      exact ⟨rfl, leaving_pc _ _ _⟩
end

section
/-! `reform`: what it leaves of the group, what it files, and the bin that the filed threads enter. -/

namespace Sys2Proof.Machine

open Sys2Proof.Safety

/-- The state after a `reform`, before its group's siblings arrive at their headers and its threads are filed. -/
def State.reformed (s : State) (c : Cur) (act : List Nat) : State :=
  ((s.completed c.tm c.side (s.grp c.gid).members (s.grp c.gid).priv).takeOut c.gid act).modGrp c.gid (Group.leaving c (s.grp c.gid).priv)

theorem completed_moves (s : State) (tm : Nat) (sd : Side) (ts : List Nat) (priv : Bool) : OnlyMoves s (s.completed tm sd ts priv) := by
  rw [completed_eq]; rfl

theorem OnlyMoves.cycle {s t : State} (h : OnlyMoves s t) : t.cycle = s.cycle := by rw [← h]

section Reformed
variable (s : State) (c : Cur) (act : List Nat)

theorem reformed_moves : OnlyMoves s (s.reformed c act) :=
  ((completed_moves s _ _ _ _).trans (takeOut_moves _ _ _)).trans (modGrp_moves _ _ _)

variable {s c}

theorem reformed_thr {u : Nat} (hu : u ∈ (s.grp c.gid).members) :
    (s.reformed c act).thr (c.key u) = doneThread (s.grp c.gid).priv (s.thr (c.key u)) := by
  unfold State.reformed
  rw [State.modGrp_thr, (takeOut_only _ _ _).thr, completed_thr]
  exact if_pos ⟨u, hu, rfl⟩

theorem reformed_kget {g : Group} (hg : kget s.groups c.gid = some g) : kget (s.reformed c act).groups c.gid =
    if (g.without act).members = [] then none else some ((g.without act).leaving c g.priv) := by
  refine (kget_kmod_same _ c.gid _).trans ?_
  rw [takeOut_kget act (by rw [completed_eq]; exact hg), grp_of_kget hg]
  split <;> rfl

end Reformed

theorem execReform_ok {s : State} {c : Cur} {p : Pfx} {act : List Nat} (h : Issues s c act .eOnly false p) (hf : Falls s c)
    (hl : c.last = true) (hs : (s.grp c.gid).stack = []) : exec (.reform p) s =
      .next (((s.reformed c act).arriveAll c.tm c.side).fileThreads (s.coreOf c.tm) c.tm c.next (s.grp c.gid).priv act) := by
  have hx : exec (.reform p) s = .next
      (let u := (s.reformed c act).leaveRecords c.tm c.side (s.grp c.gid).stack (s.grp c.gid).members
       u.fileThreads (u.coreOf c.tm) c.tm c.next (s.grp c.gid).priv act) := by
    show execReform p s = _
    unfold execReform
    rw [withIssue_ok h hf hl]
    rfl
  have hc : ((s.reformed c act).arriveAll c.tm c.side).coreOf c.tm = s.coreOf c.tm :=
    congrArg Team.core (((reformed_moves s c act).trans (arriveAll_only _ _ _).moves).team c.tm)
  rw [hx, hs, ← hc]
  rfl

section Sorting
variable {α : Type} (lt : α → α → Bool)

theorem insertBy_perm (x : α) (l : List α) : (insertBy lt x l).Perm (x :: l) := by
  induction l with
  | nil => exact .refl _
  | cons y t ih =>
    unfold insertBy
    split
    · exact (ih.cons y).trans (.swap x y t)
    · exact .refl _

theorem sortBy_perm (l : List α) : (sortBy lt l).Perm l := by
  induction l with
  | nil => exact .refl _
  | cons x t ih => exact (insertBy_perm lt x _).trans (ih.cons x)

variable {lt} (asymm : ∀ a b, lt a b = true → lt b a = false) (trans : ∀ a b c, lt b a = false → lt c b = false → lt c a = false)
include asymm trans

theorem insertBy_pairwise (x : α) {l : List α} (h : l.Pairwise (fun a b => lt b a = false)) :
    (insertBy lt x l).Pairwise (fun a b => lt b a = false) := by
  induction l with
  | nil => exact List.pairwise_singleton _ x
  | cons y t ih =>
    obtain ⟨hy, ht⟩ := List.pairwise_cons.mp h
    unfold insertBy
    split
    next hlt =>
      refine List.pairwise_cons.mpr ⟨fun z hz => ?_, ih ht⟩
      rcases List.mem_cons.mp ((insertBy_perm lt x t).mem_iff.mp hz) with rfl | hz
      · exact asymm y z hlt
      · exact hy z hz
    next hlt =>
      have hxy : lt y x = false := Bool.eq_false_iff.mpr hlt
      refine List.pairwise_cons.mpr ⟨fun z hz => ?_, h⟩
      rcases List.mem_cons.mp hz with rfl | hz
      · exact hxy
      · exact trans x y z hxy (hy z hz)

/-- The model's sort leaves no element after one that it is before. -/
theorem sortBy_pairwise (l : List α) : (sortBy lt l).Pairwise (fun a b => lt b a = false) := by
  induction l with
  | nil => exact .nil
  | cons x t ih => exact insertBy_pairwise asymm trans x ih

end Sorting

/-- The order of a bin's entries (R80): by cycle, then by thread index. -/
def filedBefore (a b : Filed) : Bool := decide (a.cycle < b.cycle) || (a.cycle == b.cycle && decide (a.thread < b.thread))

theorem filedBefore_iff {a b : Filed} :
    filedBefore a b = true ↔ a.cycle < b.cycle ∨ (a.cycle = b.cycle ∧ a.thread < b.thread) := by
  simp only [filedBefore, Bool.or_eq_true, Bool.and_eq_true, decide_eq_true_eq, beq_iff_eq]

theorem filedBefore_eq_false {a b : Filed} :
    filedBefore b a = false ↔ a.cycle < b.cycle ∨ (a.cycle = b.cycle ∧ a.thread ≤ b.thread) := by
  rw [Bool.eq_false_iff, ne_eq, filedBefore_iff]
  omega

theorem sortFiled_pairwise (l : List Filed) : (sortBy filedBefore l).Pairwise (fun a b => filedBefore b a = false) := by
  refine sortBy_pairwise (fun a b h => ?_) (fun a b c h1 h2 => ?_) l
  · rw [filedBefore_iff] at h
    rw [filedBefore_eq_false]
    omega
  · rw [filedBefore_eq_false] at *
    omega

/-- The entries that some threads file in a cycle, in the order of their bin. -/
def filedIn (cycle : Nat) (ts : List Nat) : List Filed := sortBy filedBefore (ts.map (fun u => { thread := u, cycle := cycle }))

section FiledIn
variable (cycle : Nat) (ts : List Nat)

theorem filedIn_perm : (filedIn cycle ts).Perm (ts.map (fun u => { thread := u, cycle := cycle })) := sortBy_perm _ _

theorem filedIn_threads : ((filedIn cycle ts).map (·.thread)).Perm ts := by
  simpa [Function.comp_def] using (filedIn_perm cycle ts).map (·.thread)

theorem filedIn_length : (filedIn cycle ts).length = ts.length := by simpa using (filedIn_perm cycle ts).length_eq

theorem filedIn_cycle {f : Filed} (h : f ∈ filedIn cycle ts) : f.cycle = cycle := by
  obtain ⟨u, -, rfl⟩ := List.mem_map.mp ((filedIn_perm cycle ts).mem_iff.mp h)
  rfl

/-- They stand in ascending thread index. -/
theorem filedIn_ascending (h : ts.Nodup) : (filedIn cycle ts).Pairwise (fun x y => x.thread < y.thread) := by
  have hne : (filedIn cycle ts).Pairwise (fun x y => x.thread ≠ y.thread) :=
    List.pairwise_map.mp ((filedIn_threads cycle ts).nodup_iff.mpr h)
  refine ((sortFiled_pairwise _).and hne).imp_of_mem (fun {x y} hx hy hxy => ?_)
  have h1 := filedIn_cycle cycle ts hx
  have h2 := filedIn_cycle cycle ts hy
  have h3 := filedBefore_eq_false.mp hxy.1
  have h4 := hxy.2
  omega

end FiledIn

/-- What a `reform` files of some threads (R79). -/
def oneKeyed (tm : Nat) (key : DWord) (priv : Bool) (cycle : Nat) (ts : List Nat) : List Bin :=
  ts.map (fun u => { tm := tm, key := key, priv := priv, filed := [{ thread := u, cycle := cycle }] })

section FileThreads
variable (s : State) (core tm : Nat) (key : DWord) (priv : Bool) (ts : List Nat)

theorem fileThreads_core : (s.fileThreads core tm key priv ts).core core =
    { s.core core with filing := (s.core core).filing ++ oneKeyed tm key priv s.cycle ts } := State.core_modCore_same s core _

theorem fileThreads_thr (k : Nat) : (s.fileThreads core tm key priv ts).thr k = s.thr k := rfl
theorem fileThreads_team (n : Nat) : (s.fileThreads core tm key priv ts).team n = s.team n := rfl
theorem fileThreads_grp (n : Nat) : (s.fileThreads core tm key priv ts).grp n = s.grp n := rfl
theorem fileThreads_groups : (s.fileThreads core tm key priv ts).groups = s.groups := rfl
theorem fileThreads_pairs : (s.fileThreads core tm key priv ts).pairs = s.pairs := rfl
theorem fileThreads_readM (l : Loc) : (s.fileThreads core tm key priv ts).readM l = s.readM l := readM_congr rfl rfl l

end FileThreads

theorem distinct_const {α : Type} [DecidableEq α] {l : List α} {x : α} (hl : l ≠ []) (h : ∀ y ∈ l, y = x) : distinct l = [x] := by
  obtain ⟨y, t, rfl⟩ := List.exists_cons_of_ne_nil hl
  obtain rfl := h y List.mem_cons_self
  refine List.foldlRecOn (motive := fun acc : List α => acc = [y]) t _ rfl (fun acc ha z hz => ?_)
  simp [ha, h z (List.mem_cons_of_mem _ hz)]

theorem freeBin_free {c : Core} {bin : Nat} (h : c.freeBin = some bin) : kget c.bins bin = none := by
  simpa using List.find?_some h

theorem drawFull_short (s : State) (core bin tpg n : Nat) {b : Bin} (h : kget (s.core core).bins bin = some b) (hb : b.filed.length < tpg) :
    s.drawFull core bin tpg n = s := by
  cases n with
  | zero => rfl
  | succ n => simp [State.drawFull, h, Nat.not_le.mpr hb]

/-- Entries of a key that no bin has take a free bin, and stay there where they are fewer than a group has threads. -/
theorem fileEntries_free {s : State} {core bin tm : Nat} {key : DWord} {priv : Bool} {new : List Filed}
    (hno : ∀ e ∈ (s.core core).bins, ¬ (e.2.tm = tm ∧ e.2.key = key ∧ e.2.priv = priv)) (hfree : (s.core core).freeBin = some bin)
    (hlt : new.length < (s.team tm).tpg) : kget ((s.fileEntries core tm key priv new).core core).bins bin =
      some { tm := tm, key := key, priv := priv, filed := sortBy filedBefore new } := by
  have hmine : (s.core core).bins.find? (fun b => b.2.tm == tm && b.2.key == key && b.2.priv == priv) = none :=
    List.find?_eq_none.mpr (fun e he => by simpa [and_assoc] using hno e he)
  have hput : ∀ b, kget ((s.modCore core (fun c => { c with bins := kput c.bins bin b })).core core).bins bin = some b := by simp
  have hlen : (sortBy filedBefore new).length < (s.team tm).tpg := by rw [(sortBy_perm _ _).length_eq]; exact hlt
  unfold State.fileEntries
  simp only [hmine, hfree, freeBin_free hfree, Option.map_none, Option.getD_none, Option.getD_some, List.nil_append]
  exact (congrArg (fun x : State => kget (x.core core).bins bin) (drawFull_short _ _ _ _ _ (hput _) hlen)).trans (hput _)

/-- What was filed in a cycle, all under one key, enters a free bin where none has that key. -/
theorem flushFiling_free {s : State} {core bin tm cycle : Nat} {key : DWord} {priv : Bool} {ts : List Nat} (hts : ts ≠ [])
    (hfil : (s.core core).filing = oneKeyed tm key priv cycle ts)
    (hno : ∀ e ∈ (s.core core).bins, ¬ (e.2.tm = tm ∧ e.2.key = key ∧ e.2.priv = priv)) (hfree : (s.core core).freeBin = some bin)
    (hlt : ts.length < (s.team tm).tpg) : kget ((s.flushFiling core).core core).bins bin =
      some { tm := tm, key := key, priv := priv, filed := filedIn cycle ts } := by
  have hk : distinct ((s.core core).filing.map (fun b => (b.tm, b.key, b.priv))) = [(tm, key, priv)] :=
    distinct_const (by simpa [hfil, oneKeyed] using hts) (by simp [hfil, oneKeyed])
  have hall : ((s.core core).filing.filter (fun b => b.tm == tm && b.key == key && b.priv == priv)).flatMap (·.filed) =
      ts.map (fun u => { thread := u, cycle := cycle }) := by
    rw [List.filter_eq_self.mpr (by simp [hfil, oneKeyed]), hfil, oneKeyed, List.flatMap_map]
    exact List.map_eq_flatMap.symm
  unfold State.flushFiling
  simp only [hk, List.foldl_cons, List.foldl_nil, hall]
  exact fileEntries_free (by simpa using hno) (by rw [State.core_modCore_same]; exact hfree) (by simpa using hlt)

end Sys2Proof.Machine

open Sys2Proof.Machine Sys2Proof.Safety

/-- Settles O39: what is filed enters the bins by `flushFiling_free`, and a group without split record keeps its place while others arrive. -/
theorem reform : Obligations.Reform := by
  intro s c p act g hi hf hl hg hst
  obtain rfl : s.grp c.gid = g := grp_of_kget hg
  intro core rest
  let u := (s.reformed c act).arriveAll c.tm c.side
  have hu : OnlyGroups (s.reformed c act) u := arriveAll_only _ _ _
  have hmv : OnlyMoves s u := (reformed_moves s c act).trans hu.moves
  have h2 := reformed_kget act hg
  have h3 : kget u.groups c.gid = _ := (arriveAll_kget _ _ _ (h2 ▸ unsplit_ite (unsplit_some rfl))).trans h2
  have hcore := fileThreads_core u core c.tm c.next (s.grp c.gid).priv act
  rw [hmv.core, hmv.cycle] at hcore
  refine ⟨_, execReform_ok hi hf hl hst, by rw [hcore], by rw [hcore]; rfl, fun bin hfil hfree hno hlt hnd => ?_,
    fun v hv => ?_, fun hr => ?_, fun hr => ?_, ?_, fun l => ?_⟩
  · have hb := flushFiling_free (s := u.fileThreads core c.tm c.next (s.grp c.gid).priv act) (core := core) (bin := bin) (tm := c.tm)
      (cycle := s.cycle) (key := c.next) (priv := (s.grp c.gid).priv) (ne_nil_of_issues hi) (by rw [hcore]; simp [hfil])
      (by rw [hcore]; exact hno) (by rw [hcore]; exact hfree) (by rw [fileThreads_team, hmv.team]; exact hlt)
    exact ⟨_, hb, rfl, rfl, rfl, fun v => (filedIn_threads _ _).mem_iff, filedIn_length _ _, filedIn_ascending _ _ hnd,
      fun f hf => filedIn_cycle _ _ hf⟩
  · rw [fileThreads_thr, hu.thr, reformed_thr act hv]
  · rw [fileThreads_groups]; exact h3.trans (if_pos hr)
  · rw [fileThreads_grp, grp_of_kget (h3.trans (if_neg hr))]
    exact ⟨rfl, leaving_pc _ _ _, by simp [Group.leaving, Group.goto, Cur.after, hl, toHeader]⟩
  · rw [fileThreads_pairs, hmv.pairs]
  · rw [fileThreads_readM, hmv.readM]
end

section
/-! Named barriers: arrivals, and the threads that park until a phase is over. -/

namespace Sys2Proof.Machine

open Sys2Proof.Safety

section Bar
variable {s t : State} {tm n : Nat} {sd : Side}

/-- What a side sees of a barrier depends on teams and clusters alone. -/
theorem bar_congr (ht : t.teams = s.teams) (hc : t.clusters = s.clusters) : t.bar tm sd n = s.bar tm sd n := by
  simp only [State.bar, State.team, ht, hc]

theorem OnlyMoves.bar (h : OnlyMoves s t) : t.bar tm sd n = s.bar tm sd n := bar_congr h.teams h.clusters

/-- A change of a barrier that stands is seen there. -/
theorem bar_modBar (f : Barrier → Barrier) (h : BarExists s tm n) : (s.modBar tm sd n f).bar tm sd n = f (s.bar tm sd n) := by
  unfold BarExists at h
  by_cases hn : n = 15
  · rw [if_pos hn] at h
    obtain ⟨x, hx⟩ := Option.isSome_iff_exists.mp h
    have hk : ∀ g : Cluster → Cluster, kget (kmod s.clusters (s.team tm).cluster g) (s.team tm).cluster = some (g x) := fun g => by
      rw [kget_kmod_same, hx]; rfl
    cases sd <;> simp only [State.bar, State.modBar, if_pos hn, State.team] at hk hx ⊢ <;> simp only [hk, hx]
  · rw [if_neg hn] at h
    simp only [State.bar, State.modBar, if_neg hn, State.team_modTeam_same s tm _ h]
    exact kgetD_kput_same _ _ _ _

variable (s tm n sd) (f : Barrier → Barrier)

theorem modBar_groups : (s.modBar tm sd n f).groups = s.groups := by unfold State.modBar; split <;> rfl
theorem modBar_nextId : (s.modBar tm sd n f).nextId = s.nextId := by unfold State.modBar; split <;> rfl
theorem modBar_thr (k : Nat) : (s.modBar tm sd n f).thr k = s.thr k := by unfold State.modBar; split <;> rfl

theorem readM_modBar (l : Loc) : (s.modBar tm sd n f).readM l = s.readM l := by
  unfold State.modBar
  split
  · exact readM_congr rfl rfl l
  · refine readM_modTeam s tm _ ?_ l
    exact fun _ => rfl

end Bar

/-- Only threads and pairs differ. -/
def OnlyLanes (s t : State) : Prop := { t with threads := s.threads, pairs := s.pairs } = s

theorem OnlyLanes.putLane {s t : State} (h : OnlyLanes s t) (k : Nat) (l : Lane) : OnlyLanes s (t.putLane k l) := h

theorem OnlyLanes.groups {s t : State} (h : OnlyLanes s t) : t.groups = s.groups := by rw [← h]
theorem OnlyLanes.nextId {s t : State} (h : OnlyLanes s t) : t.nextId = s.nextId := by rw [← h]
theorem OnlyLanes.teams {s t : State} (h : OnlyLanes s t) : t.teams = s.teams := by rw [← h]
theorem OnlyLanes.clusters {s t : State} (h : OnlyLanes s t) : t.clusters = s.clusters := by rw [← h]
theorem OnlyLanes.mem {s t : State} (h : OnlyLanes s t) : t.mem = s.mem := by rw [← h]

theorem filterMap_eq_map_of_forall {α β : Type} {f : α → Option β} {g : α → β} {l : List α} (h : ∀ x ∈ l, f x = some (g x)) :
    l.filterMap f = l.map g := by
  induction l with
  | nil => rfl
  | cons x t ih =>
    rw [List.filterMap_cons_some (h x List.mem_cons_self), ih (fun y hy => h y (List.mem_cons_of_mem _ hy))]
    rfl

/-- Where every thread names the one count that stands, or one count where none stands, no count is wrong. -/
theorem countHits_same {o : Option Nat} {cnt : Nat} {act : List Nat} (hact : act ≠ []) (h : o = none ∨ o = some cnt) :
    countHits o (act.map (fun u => (u, cnt))) = [] := by
  rcases h with rfl | rfl
  · have hd : distinct ((act.map (fun u => (u, cnt))).map (·.2)) = [cnt] := distinct_const (by simpa using hact) (by simp)
    simp only [countHits, hd, List.length_singleton, Nat.lt_irrefl, if_false]
  · simp [countHits]

/-- A barrier has counted the arrivals of some threads, in its phase and with their count, and no byte of memory has changed. -/
structure Counted (s t : State) (c : Cur) (act : List Nat) (n cnt : Nat) : Prop where
  arrived : (t.bar c.tm c.side n).arrived = (s.bar c.tm c.side n).arrived + act.length
  phase : (t.bar c.tm c.side n).phase = (s.bar c.tm c.side n).phase
  expected : (t.bar c.tm c.side n).expected = if perSide n then (s.bar c.tm c.side n).expected else some cnt
  memory : SameMem s t

/-- That stands while groups move about. -/
theorem Counted.later {s t u : State} {c : Cur} {act : List Nat} {n cnt : Nat} (h : Counted s t c act n cnt) (hm : OnlyMoves t u) :
    Counted s u c act n cnt where
  arrived := by rw [hm.bar, h.arrived]
  phase := by rw [hm.bar, h.phase]
  expected := by rw [hm.bar, h.expected]
  memory := fun l => (hm.readM l).trans (h.memory l)

/-- The same before the threads go on or park: their group stands as it did. -/
structure Arrived (s t : State) (c : Cur) (act : List Nat) (n cnt : Nat) : Prop extends Counted s t c act n cnt where
  groups : t.groups = s.groups
  nextId : t.nextId = s.nextId
  outside : ∀ k, Outside s c k → t.thr k = s.thr k

theorem arriveOp_ok {s : State} {c : Cur} {act : List Nat} {p : Pfx} {nb : BitVec 4} {b : Src} {cnt : Nat} (wait : Bool)
    (h : Issues s c act .both false p) (hf : Falls s c) (hok : srcsOk s c [(.int32, b)] = true) (hb : BarExists s c.tm nb.toNat)
    (htry : ∀ u ∈ act, ∃ rd, s.arriveTry nb.toNat b (c.key u) = .ok (rd, cnt))
    (hcnt : perSide nb.toNat = true ∨ (s.bar c.tm c.side nb.toNat).expected = none ∨ (s.bar c.tm c.side nb.toNat).expected = some cnt) :
    ∃ t, arriveOp wait p nb b s =
        .next (if wait then t.parkPhase c act nb.toNat (s.bar c.tm c.side nb.toNat).phase else t.retire c) ∧
      Arrived s t c act nb.toNat cnt := by
  have hact := ne_nil_of_issues h
  have hmem := mem_of_issues h
  unfold arriveOp
  rw [withIssue_ok h hf hok]
  extract_lets n rs cs bar wrong s1 s2
  have hcs : cs = act.map (fun u => (u, cnt)) := by
    refine List.filterMap_map.trans (filterMap_eq_map_of_forall (fun u hu => ?_))
    obtain ⟨rd, hrd⟩ := htry u hu
    simp [n, hrd]
  have hwrong : wrong = [] := by
    by_cases hp : perSide n
    · exact if_pos hp
    · exact (if_neg hp).trans (hcs ▸ countHits_same hact (hcnt.resolve_left hp))
  have hs1 : OnlyLanes s s1 ∧ ∀ k, Outside s c k → s1.thr k = s.thr k := by
    refine List.foldlRecOn (motive := fun x : State => OnlyLanes s x ∧ ∀ k, Outside s c k → x.thr k = s.thr k) rs _ ⟨rfl, fun _ _ => rfl⟩
      (fun x hx e he => ?_)
    obtain ⟨u, hu, rfl⟩ := List.mem_map.mp he
    split
    · exact ⟨hx.1.putLane _ _, fun k hk => (putLane_thr_ne _ _ _ _ (Ne.symm (hk u (hmem u hu)))).trans (hx.2 k hk)⟩
    · exact hx
  obtain ⟨hl, hout⟩ := hs1
  have hb1 : BarExists s1 c.tm n := by simpa only [BarExists, State.team, hl.teams, hl.clusters] using hb
  have hbar : s2.bar c.tm c.side n = _ := (bar_modBar _ hb1).trans (by rw [bar_congr hl.teams hl.clusters])
  refine ⟨s2, ?_, ?_⟩
  · rw [settle_ok (allOk_map (f := fun t => s.arriveTry n b (c.key t)) (fun u hu => (htry u hu).imp' _ (fun _ e => e))), hwrong]
    rfl
  · exact {
      groups := (modBar_groups s1 c.tm n c.side _).trans hl.groups
      nextId := (modBar_nextId s1 c.tm n c.side _).trans hl.nextId
      arrived := by rw [hbar]
      phase := by rw [hbar]
      expected := by rw [hbar, hcs]; obtain ⟨u, us, rfl⟩ := List.exists_cons_of_ne_nil hact; rfl
      outside := fun k hk => (modBar_thr s1 c.tm n c.side _ k).trans (hout k hk)
      memory := fun l => (readM_modBar s1 c.tm n c.side _ l).trans (readM_congr hl.mem hl.teams l) }

theorem goto_after {c : Cur} (hl : c.last = false) (priv : Bool) (x : Group) :
    (x.goto (c.after priv)).pc = c.next ∧ (x.goto (c.after priv)).entering = false := by
  simp [Group.goto, Cur.after, hl]

/-- The state after a park until a barrier's phase is over, before the group arrives at a header. -/
def State.parkedPhase (s : State) (c : Cur) (act : List Nat) (nb : Nat) (ph : Word) : State :=
  (s.completedParking c act (.phase nb ph)).standApart (s.grp c.gid) c.gid act (s.inactive c act).isEmpty
    (Group.goto (c.after (s.grp c.gid).priv))

section ParkPhase
variable (s : State) (c : Cur) (act : List Nat) (nb : Nat) (ph : Word)

theorem parkPhase_eq : s.parkPhase c act nb ph = (s.parkedPhase c act nb ph).arriveHdr c.gid (Config.splitDepth + 1) := rfl

theorem parkPhase_moves : OnlyMoves s (s.parkPhase c act nb ph) :=
  ((completedParking_moves s c act _).trans (standApart_moves _ _ _ _ _ _)).trans (arriveHdr_only _ _ _).moves

theorem parkPhase_thr (k : Nat) : (s.parkPhase c act nb ph).thr k = (s.completedParking c act (.phase nb ph)).thr k := by
  rw [parkPhase_eq, (arriveHdr_only _ _ _).thr]
  exact standApart_thr _ _ _ _ _ _ k

variable {c act}

theorem parkPhase_park {u : Nat} (h : u ∈ act) : ((s.parkPhase c act nb ph).thr (c.key u)).park = .phase nb ph := by
  rw [parkPhase_thr]; exact completedParking_park _ h

theorem parkPhase_outside (ha : ∀ u ∈ act, u ∈ (s.grp c.gid).members) {k : Nat} (hk : Outside s c k) :
    (s.parkPhase c act nb ph).thr k = s.thr k := by
  rw [parkPhase_thr]; exact completedParking_outside _ ha hk

/-- Inside a block the group, or what is left of it, is the same after it arrives. -/
theorem parkPhase_inside {x : Group} (hl : c.last = false)
    (h : kget (s.parkedPhase c act nb ph).groups c.gid = some (x.goto (c.after (s.grp c.gid).priv))) :
    s.parkPhase c act nb ph = s.parkedPhase c act nb ph :=
  (parkPhase_eq s c act nb ph).trans (arriveHdr_stays _ _ _ (by rw [grp_of_kget h]; exact (goto_after hl _ _).2))

theorem parkPhase_parksOn : ParksOn s (s.parkPhase c act nb ph) c act := by
  refine ⟨fun hr hl hg => ?_, fun hr hl hg hn => ?_⟩
  · obtain ⟨g, hg⟩ := Option.isSome_iff_exists.mp hg
    have h : kget (s.parkedPhase c act nb ph).groups c.gid = some (g.goto (c.after (s.grp c.gid).priv)) := by
      unfold State.parkedPhase
      rw [show (s.inactive c act).isEmpty = true from List.isEmpty_iff.mpr hr, standApart_whole, completedParking_groups, hg]
      rfl
    rw [parkPhase_inside s nb ph hl h, grp_of_kget h, grp_of_kget hg]
    exact ⟨(goto_after hl _ _).1, (goto_after hl _ _).2, rfl⟩
  · obtain ⟨g, hg⟩ := Option.isSome_iff_exists.mp hg
    have hi : (s.inactive c act).isEmpty = false := List.isEmpty_eq_false_iff.mpr hr
    have hn' : c.gid < (s.completedParking c act (.phase nb ph)).nextId := by rw [completedParking_nextId]; exact hn
    rw [grp_of_kget hg] at hr ⊢
    have h : kget (s.parkedPhase c act nb ph).groups c.gid = some
        ((g.without act).goto (c.after (s.grp c.gid).priv)) := by
      unfold State.parkedPhase
      rw [hi]
      exact (standApart_rest _ _ act _ hn' (by rw [completedParking_groups]; exact hg)).trans (if_neg hr)
    have hnew : kget (s.parkedPhase c act nb ph).groups s.nextId =
        some { (s.grp c.gid).goto (c.after (s.grp c.gid).priv) with members := act } := by
      unfold State.parkedPhase
      rw [hi, ← completedParking_nextId s c act (.phase nb ph)]
      exact standApart_new _ _ act _ hn'
    rw [parkPhase_inside s nb ph hl h, grp_of_kget h, grp_of_kget hnew]
    exact ⟨(goto_after hl _ _).1, rfl, (goto_after hl _ (s.grp c.gid)).1, rfl⟩

end ParkPhase

theorem execBwait_ok {s : State} {c : Cur} {act : List Nat} {p : Pfx} (nb : BitVec 4) (h : Issues s c act .both false p) (hf : Falls s c) :
    exec (.bwait p nb) s = .next (s.parkPhase c act nb.toNat (s.bar c.tm c.side nb.toNat).phase) := by
  show execBwait p nb s = _
  unfold execBwait
  rw [withIssue_ok h hf rfl]

section
variable {s t u : State} {c : Cur} {act : List Nat} {n cnt : Nat} (h : Arrived s t c act n cnt)
include h

theorem Arrived.grp (g : Nat) : t.grp g = s.grp g := by simp only [State.grp, h.groups]

theorem Arrived.outside_iff {k : Nat} : Outside t c k ↔ Outside s c k := by simp only [Outside, h.grp]

/-- A group that goes on, or parks, after the arrivals does so from where it stood before them. -/
theorem Arrived.movesOn (hm : MovesOn t u c) : MovesOn s u c := by
  simpa only [MovesOn, h.grp, h.groups] using hm

theorem Arrived.parksOn (hm : ParksOn t u c act) : ParksOn s u c act := by
  simpa only [ParksOn, MovesOn, h.grp, h.groups, h.nextId] using hm

end

end Sys2Proof.Machine

open Sys2Proof.Machine Sys2Proof.Safety

/-- Settles O46: the barrier counts the arrivals (`arriveOp_ok`), after which the group retires, or parks as at a `bwait`. -/
theorem namedBarriers : Obligations.NamedBarriers := by
  refine ⟨fun i s c p nb b act cnt hi h hf hok hb htry hcnt => ?_, fun s c p nb act h hf => ?_⟩
  · intro o
    rcases hi with rfl | rfl
    · obtain ⟨t, he, ha⟩ := arriveOp_ok false h hf hok hb htry hcnt
      obtain ⟨h1, h2, h3, h4⟩ := ha.toCounted.later (retire_moves_only t c)
      refine ⟨t.retire c, he, h1, h2, h3, nofun, fun _ => ha.movesOn (retire_moves t c), fun k hk => ?_, h4⟩
      rw [retire_thr, if_neg (fun ⟨u, hu, e⟩ => ha.outside_iff.mpr hk u hu e), ha.outside k hk]
    · obtain ⟨t, he, ha⟩ := arriveOp_ok true h hf hok hb htry hcnt
      obtain ⟨h1, h2, h3, h4⟩ := ha.toCounted.later (parkPhase_moves t c act nb.toNat o.phase)
      refine ⟨t.parkPhase c act nb.toNat o.phase, he, h1, h2, h3,
        fun _ => ⟨fun u hu => parkPhase_park t _ _ hu, ha.parksOn (parkPhase_parksOn t _ _)⟩, nofun, fun k hk => ?_, h4⟩
      rw [parkPhase_outside t _ _ (ha.grp c.gid ▸ mem_of_issues h) (ha.outside_iff.mpr hk), ha.outside k hk]
  · have hmv := parkPhase_moves s c act nb.toNat (s.bar c.tm c.side nb.toNat).phase
    exact ⟨_, execBwait_ok nb h hf, fun u hu => parkPhase_park s _ _ hu, parkPhase_parksOn s _ _, hmv, hmv.readM,
      fun k hk => parkPhase_outside s _ _ (mem_of_issues h) hk⟩
end

section
/-! Fences, `tchk` and reads of system registers. -/

namespace Sys2Proof.Machine

open Sys2Proof.Safety

/-- An instruction whose checks and attempts are its row's own holds as the row says. -/
theorem holds_of_ownLanes {i : Instr} {r : LaneRow} (idle : State → Cur → State)
    (he : ∀ s, exec i s = checked r.need r.priv r.p r.ok idle s
      (fun c act => s.fallOr c (s.runLanes c act r.p (r.z c.side) (r.f s c))))
    (hz : ∀ sd t, r.z sd (r.z sd t) = r.z sd t) : r.Holds i :=
  holds_of_lanes r.ok r.f idle he (fun _ _ h => h) (fun _ _ _ _ _ h => h) hz

end Sys2Proof.Machine

open Sys2Proof.Machine Sys2Proof.Safety

/-- Settles O25: each instruction's checks and attempts are its row's, those of `rdsr` where the register is not Ecide's alone. -/
theorem fencesAndReads : Obligations.FencesAndReads := by
  intro i r hr
  unfold plainRow at hr
  split at hr
  case h_1 | h_2 =>
    cases hr
    exact holds_of_ownLanes (fun s _ => s) (fun _ => rfl) (fun _ _ => rfl)
  case h_3 p d t =>
    cases hr
    exact holds_of_ownLanes (fun s c => s.zeroDst c [] p (fun th => th.setPred d.toNat false)) (fun _ => rfl)
      (fun _ th => setPred_idem d.toNat th)
  case h_4 p d n =>
    split at hr
    next => cases hr
    next he =>
      cases hr
      exact holds_of_ownLanes (fun s c => s.zeroDst c [] p (setD c.side true d 0)) (fun _ => if_neg he)
        (fun sd th => setD_idem sd true d 0 th)
  case h_5 => cases hr
end
